-- ==== Sys2Proof/Word.lean ====
section
/-! DEFINITION. The word types of the JX-840 model and their plainest arithmetic: bytes, little-endian byte
lists (R71) and bit fields of a natural number. -/

namespace Sys2Proof

/-- One byte. -/
abbrev Byte := BitVec 8

/-- A run of bytes, lowest address first. -/
abbrev Bytes := List (BitVec 8)

/-- A 32-bit register, FP32 lane or figure word. -/
abbrev W32 := BitVec 32

/-- A 64-bit register or counter. -/
abbrev W64 := BitVec 64

/-- A sparse table: entries of key and value, in rising order of key. -/
abbrev Tbl (α : Type) := List (Nat × α)

/-- Bits `hi` down to `lo` of `n`. -/
def bitsOf (n hi lo : Nat) : Nat := (n / 2 ^ lo) % 2 ^ (hi + 1 - lo)

/-- Bit `k` of `n`. -/
def bitOf (n k : Nat) : Bool := n.testBit k

/-- The number that little-endian bytes spell (R71). -/
def leNat : Bytes → Nat
  | [] => 0
  | b :: t => b.toNat + 256 * leNat t

/-- `len` little-endian bytes of `n`, the higher bits dropped (R71). -/
def natLe : Nat → Nat → Bytes
  | 0, _ => []
  | len + 1, n => BitVec.ofNat 8 n :: natLe len (n / 256)

/-- The number that big-endian bytes spell. -/
def beNat (bs : Bytes) : Nat := bs.foldl (fun a b => a * 256 + b.toNat) 0

/-- `len` big-endian bytes of `n`. -/
def natBe (len n : Nat) : Bytes := (natLe len n).reverse

/-- Bytes `off` to `off + len - 1` of a byte string; bytes past its end read as 0. -/
def slice (bs : Bytes) (off len : Nat) : Bytes :=
  let t := (bs.drop off).take len
  t ++ List.replicate (len - t.length) 0#8

/-- The little-endian field of `len` bytes at `off`. -/
def fieldAt (bs : Bytes) (off len : Nat) : Nat := leNat (slice bs off len)

/-- `bs` padded with zero bytes to a multiple of `k`. -/
def padTo (k : Nat) (bs : Bytes) : Bytes :=
  bs ++ List.replicate ((k - bs.length % k) % k) 0#8

/-- Quotient rounded up. -/
def ceilDiv (a b : Nat) : Nat := (a + b - 1) / b

/-- The numbers `a`, `a + 1`, ..., `a + n - 1`. -/
def upFrom (a n : Nat) : List Nat := (List.range n).map (a + ·)

/-- Element `k` of a list of numbers, 0 beyond its end. -/
def nth (l : List Nat) (k : Nat) : Nat := l.getD k 0

/-- The number of bits set in the low 64 bits of `n`. -/
def popcount (n : Nat) : Nat := ((List.range 64).filter (fun k => n.testBit k)).length

/-- The positions of the bits set below `w`, ascending. -/
def bitPositions (w n : Nat) : List Nat := (List.range w).filter (fun k => n.testBit k)

end Sys2Proof
end

