-- ==== Sys2Proof/Types.lean ====
section
/-! DEFINITION. The operand types of the commands, and the figures of caller format 1 (R114-R122). A row that a host
command names carries its envelope (R376) and its arguments in the order of R380. A row whose data come from outside
the spec (a temperature, a self-test result, a decoded picture, a lane test) carries them as operands. -/

namespace Sys2Proof

/-- A physical site 0-575 (R17). -/
abbrev SiteId := Fin 576
/-- A logical tile 0-511 (R18). -/
abbrev TileId := Fin 512
/-- A context number 0-63 (R110). -/
abbrev CtxId := Fin 64
/-- A function: 0 the physical function, 1-31 the instances (R145). -/
abbrev FnId := Fin 32
/-- A fabric port P0-P7 (R384). -/
abbrev PortId := Fin 8
/-- A stack S0-S7, and the codec unit and sweep engine of that stack (R152, R183, R250). -/
abbrev StackId := Fin 8
/-- A physical decode engine D0-D51 (R303). -/
abbrev EngineId := Fin 52
/-- A channel number 0-4,095 (R303). -/
abbrev ChanId := Fin 4096
/-- An array A0-A3 of a tile (R39). -/
abbrev ArrId := Fin 4

/-- Who makes a register access: a PCIe function through its BAR0, or management through space 0 (R420). -/
inductive View where
  | fn (f : FnId)
  | mgmt
  deriving DecidableEq, Repr

/-- The envelope of a host command (R376): the issuing function and queue pair, and the command's header. -/
structure CmdHdr where
  fn : FnId
  qp : Nat
  gen : Nat
  cid : Nat
  tag : Nat
  fence : Bool
  noIrq : Bool
  deriving DecidableEq, Repr

/-- A router port in the order of R35: N, E, S, W, LOCAL, TAP. -/
inductive MeshPort where
  | n | e | s | w | loc | tap
  deriving DecidableEq, Repr

/-- What the SECDED check of a flit found (R14). -/
inductive FlitCheck where
  | clean | single | double
  deriving DecidableEq, Repr

/-- What self-test found at one site (the fields of R23). -/
structure SiteTest where
  site : SiteId
  router : Bool
  bypass : Bool
  caller : Bool
  vector : Bool
  store : Bool
  arrays : Fin 16
  failBank : Fin 16
  fused : Bool
  deriving DecidableEq, Repr

/-- For whom a transfer over a clock crossing was made (R479). -/
inductive CdcTransfer where
  | context
  | registerRead
  | registerWrite
  | bar2Read (len : Nat)
  | dma (f : FnId) (q cid : Nat)
  | other
  deriving DecidableEq, Repr

/-- What training found at one stack (R176, R495). -/
inductive StackTest where
  | good
  | remapped (pc : Fin 64)
  | failed
  deriving DecidableEq, Repr

/-- The results of a self-test. Sites not listed passed every test; stacks not listed in `stackTests` trained without a remap;
`decodeFail` and `decodeFused` are masks over D0-D51; `fuseBad` says that a fuse array failed its check. -/
structure SelfTest where
  sites : List SiteTest
  stackTests : List (StackId × StackTest)
  decodeFail : Nat
  decodeFused : Nat
  fuseBad : Bool
  deriving DecidableEq, Repr

/-- The arguments of INSTANCE_CREATE, in the order of R380. -/
structure ShapeArgs where
  inst : Nat
  queuePairs : Nat
  tileGroups : Nat
  pegSlots : Nat
  granules : List Nat
  decode : Nat
  deriving DecidableEq, Repr

/-- The arguments of SERVE_OPEN (R277, R380). -/
structure ServeArgs where
  ctx : Nat
  rank : Nat
  sets : Nat
  poolStacks : Nat
  targets : Nat
  segments : Nat
  capacity : Nat
  regions : Nat
  objects : Nat
  targetAddr : Nat
  winBase : Nat
  poolSlots : Nat
  regionsBase : Nat
  objectsBase : Nat
  deriving DecidableEq, Repr

/-- The arguments of MEDIA_OPEN (R304, R380). -/
structure MediaArgs where
  ctx : Nat
  input : Nat
  chroma : Nat
  dpb : Nat
  engine : Nat
  token : Nat
  postEvery : Nat
  program : Nat
  pid : Nat
  maxWidth : Nat
  maxHeight : Nat
  tile : Nat
  work : Nat
  pool : Nat
  firstSlot : Nat
  slotCount : Nat
  reportSize : Nat
  profile : Nat
  reportAddr : Nat
  deriving DecidableEq, Repr

/-- The arguments of SHUFFLE_OPEN (R345, R380). -/
structure ShuffleArgs where
  ctx : Nat
  token : Nat
  tile : Nat
  channels : Nat
  depth : Nat
  epochWindows : Nat
  batch : Nat
  feed : Nat
  feedSlots : Nat
  listAddr : Nat
  firstWindow : Nat
  startStep : Nat
  deriving DecidableEq, Repr

/-- The arguments of DELTA_ATTACH (R224, R380). -/
structure DeltaArgs where
  ctx : Nat
  dest : Nat
  lag : Nat
  verMinor : Nat
  verMajor : Nat
  port : Nat
  device : Nat
  ringAddr : Nat
  ringSize : Nat
  deriving DecidableEq, Repr

/-- The arguments of CODEC_CODE (R206, R380). -/
structure CodeArgs where
  target : Nat
  source : Nat
  base : Nat
  factors : Nat
  rank : Nat
  orient : Nat
  packCols : Nat
  deriving DecidableEq, Repr

/-- The arguments of OBJECT_CREATE (R380). -/
structure ObjectArgs where
  oflags : Nat
  keySlot : Nat
  format : Nat
  tier : Nat
  stackMask : Nat
  objectId : Nat
  size : Nat
  deriving DecidableEq, Repr

/-- The arguments of START (R380): USE bit 0 STEP given, bit 1 LOSS_SCALE and GOOD_STEPS given. -/
structure StartArgs where
  ctx : Nat
  use : Nat
  step : Nat
  lossScale : Nat
  goodSteps : Nat
  deriving DecidableEq, Repr

/-- Where a soft error lies (R14, R68, R138, R149, R154, R205, R268, R337, R408): a figure, an accumulator row, a rescale
entry, a weight register, a tile-store word, a near-store sector, a codec's table memory, a sweep engine, a decode
engine's buffers, a tokeniser pipeline, a hub switch buffer. -/
inductive ErrPlace where
  | figure (ctx site index : Nat)
  | acc (site arr row : Nat)
  | entry (site arr e : Nat)
  | weight (site arr : Nat)
  | store (tile word : Nat)
  | sector (stack n : Nat)
  | table (unit : Nat)
  | sweep (engine : Nat)
  | engine (e : Nat)
  | token (pipe : Nat)
  | switch (port : Nat)
  deriving DecidableEq, Repr

/-- Whose flit stands at a router input (R12): a scheduled one, or one of an unscheduled request, with the requests whose flits are
ready for the same output. -/
inductive FlitOwner where
  | scheduled
  | unscheduled (req : Nat) (rivals : List Nat)
  deriving DecidableEq, Repr

/-- A decoded picture (R313-R319): size, chroma format (0 monochrome, 1 4:2:0, 2 4:2:2, 3 4:4:4), bit depth, whether it is a
field and which, what the stream signals, and its planes in raster order. -/
structure Picture where
  width : Nat
  height : Nat
  chroma : Nat
  depth : Nat
  field : Bool
  bottom : Bool
  fullRange : Option Bool
  matrix : Option Nat
  grain : Bool
  luma : List Nat
  cb : List Nat
  cr : List Nat
  deriving DecidableEq, Repr

/-- The profiles of R313, and any other. -/
inductive VideoProfile where
  | mpeg2Simple
  | mpeg2Main
  | mpeg2Y422
  | h264Baseline
  | h264Main
  | h264High
  | h264High10
  | h264Y422
  | hevcMain
  | hevcMain10
  | hevcY422
  | hevcStill
  | av1Main
  | vvcMain10
  | other
  deriving DecidableEq, Repr

/-- How a picture is coded (R319): a frame that the stream marks as progressive, an interlaced frame by its first field, or one
field. -/
inductive PicForm where
  | frame
  | topFirst
  | bottomFirst
  | top
  | bottom
  deriving DecidableEq, Repr

/-- What a coded picture says of itself as its standard reads it (R313-R321): profile, level (tenths, for MPEG-2 1 Low to 4 High,
for H.264's level 1b 9), High tier, a tool that R313 does not decode, the sequence's coded size, chroma format and bit depth,
its picture buffer need where it states one, the decode indices of the pictures it references (none for one that this decoder
never had), whether its syntax and values are sound and its picture hash matches, whether its standard outputs it, its place
in output order since the channel opened, and its form. -/
structure PicInfo where
  profile : VideoProfile
  level : Nat
  highTier : Bool
  tool : Bool
  width : Nat
  height : Nat
  chroma : Nat
  depth : Nat
  need : Option Nat
  refs : List (Option Nat)
  sound : Bool
  hashOk : Bool
  shown : Bool
  order : Nat
  form : PicForm
  deriving DecidableEq, Repr

/-- What an engine's work on a channel ends with (R315): a picture, or no picture found in what was left. -/
inductive PictureEnd where
  | picture (i : PicInfo) (q : Picture)
  | flush
  deriving DecidableEq, Repr

/-- What an engine takes for a picture (R308, R317): the bytes of the elementary stream, and the places of the work object that it
reads. -/
structure EngineTake where
  len : Nat
  reads : List Nat
  deriving DecidableEq, Repr

/-- The negotiation a peer's training control flit carries (R394) and the lanes that passed (R385). -/
structure TrainInfo where
  lanesPass : Fin 512
  signal : Bool
  peerVersions : Fin 256
  peerId : Nat
  peerQuiet : Bool
  credits : List Nat
  deriving DecidableEq, Repr

/-- A client's TLS 1.3 offer (R416, R417): whether it holds the one cipher suite, group and signature scheme, the number of
certificates of its chain, whether the signatures of the chain and of the handshake are right, the anchor slot at which the chain
ends, the digest of its certificate and whether its address is link-local. Resumption and 0-RTT that it offers are passed over. -/
structure TlsOffer where
  suite : Bool
  group : Bool
  scheme : Bool
  chain : Nat
  proof : Bool
  anchor : Nat
  digest : Nat
  linkLocal : Bool
  deriving DecidableEq, Repr

/-- The handshake keeps R416: its suite, group and scheme, and a certificate whose chain has at most 4 certificates and verifies. -/
def TlsOffer.good (o : TlsOffer) : Bool := o.suite && o.group && o.scheme && 1 ≤ o.chain && o.chain ≤ 4 && o.proof

/-- A figure of caller format 1 (R115-R122): its static fields. `b` is the argument base of its frame. -/
inductive Fig where
  | set (index value : Nat)
  | addg (index step : Nat)
  | repeatBody (body count : Nat)
  | load (array mode : Nat) (wvar scales : Bool) (b : Nat)
  | table (array b : Nat)
  | stream (arrays : Nat) (fromPort xvar start emit rescale : Bool) (outfmt b : Nat)
  | vector (op round : Nat) (finite : Bool) (infmt outfmt b : Nat) (mxin mxout : Bool)
  | send (b route : Nat)
  | receive (b : Nat) (post : Bool) (token route : Nat)
  | fetch (b : Nat) (post : Bool) (token object : Nat)
  | store (b : Nat) (post : Bool) (token object : Nat)
  | wait (token count : Nat)
  | post (remote : Bool) (token route : Nat)
  | sleep (fromIssue : Bool) (cycles : Nat)
  | yieldToken (token count : Nat)
  | yieldTime (cycles : Nat)
  | vote (post : Bool) (token voteId : Nat)
  | endStep (final : Bool) (next : Nat)
  deriving DecidableEq, Repr

end Sys2Proof
end

