-- ==== Sys2Proof/Syntax.lean ====
section
/-! DEFINITION. The commands of the block: `Instr`, one constructor for each of the 256 rows of
spec/opcode_table.json, in the table's order. -/

namespace Sys2Proof

/-- A command of the block: one row of spec/opcode_table.json. -/
inductive Instr where
  -- power, pins and clocks
  | powerOn (slotId : Fin 16)
  | perstNAssert
  | supplyOkFall
  | partResetEnd (portMode : Fin 256)
  | earlyService (t : SelfTest)
  | fullService (t : SelfTest)
  | startTimeout
  | supplyDip (die : Fin 5)
  | clocksRestored (die : Fin 5) (lowMv : Nat)
  | supplyReset (core : Bool)
  | thermalTrip
  | powerControllerTick (mean : Nat) (temps : List Nat)
  | powerOver
  | slewStep (acked : Bool)
  | cdcTimeout (crossing : Nat) (forContext : CdcTransfer)
  | partDozeEntry
  | dozeWake
  | napEntry
  | napExit
  | sleepWake (peers : Bool)
  | woke
  | fabRefclkLoss
  | pcieRefclkLoss
  | functionLevelReset (f : FnId)
  | pfFunctionLevelReset
  | vfEnableClear
  -- register accesses
  | registerWrite (v : View) (off size be val : Nat)
  | lowHalfRead (v : View) (off size : Nat)
  | powerStateRead (v : View)
  | bar2Read (off len : Nat)
  | bar2Write (off : Nat) (data : Bytes)
  | hostProtocol (f : FnId) (major minor : Nat)
  | qpEnable (f : FnId) (q : Nat)
  | qpDisable (f : FnId) (q : Nat)
  | sqTail (f : FnId) (q tail : Nat)
  | cqHead (f : FnId) (q head : Nat)
  | commandFetch (f : FnId) (q : Nat)
  | recover (v : View)
  | chipFaultClear (v : View)
  | napWrite (v : View) (on : Bool)
  | portEnable (p : PortId) (on : Bool)
  | propose
  | wake
  | sleepReady (on : Bool)
  -- host commands
  | instanceCreate (h : CmdHdr) (a : ShapeArgs)
  | instanceDestroy (h : CmdHdr) (inst : Nat)
  | instanceReset (h : CmdHdr) (inst : Nat)
  | instanceResetDone (f : FnId)
  | instanceFreeze (h : CmdHdr) (inst : Nat)
  | instanceFrozen (f : FnId)
  | instanceSave (h : CmdHdr) (inst addr len : Nat)
  | instanceRestore (h : CmdHdr) (inst addr len : Nat)
  | instanceThaw (h : CmdHdr) (inst : Nat)
  | dma (h : CmdHdr) (direction len src dst : Nat)
  | dmaComplete (f : FnId) (q cid : Nat)
  | objectCreate (h : CmdHdr) (a : ObjectArgs)
  | objectFree (h : CmdHdr) (handle : Nat)
  | place (h : CmdHdr) (handle : Nat)
  | pageCopy
  | migrationCommit (f : FnId) (handle page : Nat)
  | farPool (h : CmdHdr) (pages listAddr : Nat)
  | loadPitch (h : CmdHdr) (len addr : Nat)
  | loadBegin
  | pitchLoadComplete
  | start (h : CmdHdr) (a : StartArgs)
  | unload (h : CmdHdr) (ctx mode : Nat)
  | unloadTakesEffect (c : CtxId)
  | replace (h : CmdHdr) (ctx len addr : Nat)
  | replaceHandover (c : CtxId)
  | post (h : CmdHdr) (ctx token tile count : Nat)
  | deltaAttach (h : CmdHdr) (a : DeltaArgs)
  | codecCode (h : CmdHdr) (a : CodeArgs)
  | codingRunDone (f : FnId) (handle : Nat)
  | codecTableGet (h : CmdHdr) (handle addr : Nat)
  | codecTableSet (h : CmdHdr) (handle addr : Nat)
  | serveOpen (h : CmdHdr) (a : ServeArgs)
  | serveClose (h : CmdHdr) (ctx : Nat)
  | closed (c : CtxId)
  | submitBatch (h : CmdHdr) (len addr : Nat)
  | batchStart (c : CtxId)
  | batchComplete (c : CtxId)
  | peg (h : CmdHdr) (ctx replace adapter source lease : Nat)
  | pegCopyDone (c : CtxId) (adapter : Nat)
  | renew (h : CmdHdr) (ctx adapter lease : Nat)
  | unpeg (h : CmdHdr) (ctx adapter : Nat)
  | unpegDone (c : CtxId) (slot : Nat)
  | pegExpiry (c : CtxId) (adapter : Nat)
  | cacheStage (h : CmdHdr) (ctx target source : Nat)
  | cacheCommit (h : CmdHdr) (ctx : Nat)
  | committed (c : CtxId)
  | cacheDrop (h : CmdHdr) (ctx target : Nat)
  | mediaOpen (h : CmdHdr) (a : MediaArgs)
  | mediaFeed (h : CmdHdr) (chan flags len addr : Nat)
  | feedCopy (n : ChanId)
  | mediaRelease (h : CmdHdr) (chan count : Nat)
  | mediaClose (h : CmdHdr) (chan mode : Nat)
  | shuffleOpen (h : CmdHdr) (a : ShuffleArgs)
  | shuffleClose (h : CmdHdr) (ctx : Nat)
  | randomGet (h : CmdHdr) (fresh len addr : Nat)
  -- figures: the caller of a site issues its next figure
  | set (s : SiteId)
  | addg (s : SiteId)
  | repeatFig (s : SiteId)
  | load (s : SiteId)
  | blockLoadComplete (s : SiteId) (id : Nat)
  | table (s : SiteId)
  | tableLoadComplete (s : SiteId) (id : Nat)
  | stream (s : SiteId)
  | streamComplete (s : SiteId) (id : Nat)
  | quiesced
  | recoveryHoldExpiry
  | recoveryComplete (t : SelfTest)
  | convert (s : SiteId)
  | add (s : SiteId)
  | subtract (s : SiteId)
  | multiply (s : SiteId)
  | fusedMultiplyAdd (s : SiteId)
  | minimum (s : SiteId)
  | maximum (s : SiteId)
  | equal (s : SiteId)
  | notEqual (s : SiteId)
  | less (s : SiteId)
  | lessOrEqual (s : SiteId)
  | greater (s : SiteId)
  | greaterOrEqual (s : SiteId)
  | laneSum (s : SiteId)
  | laneMaximum (s : SiteId)
  | exp2 (s : SiteId)
  | log2 (s : SiteId)
  | reciprocal (s : SiteId)
  | reciprocalSquareRoot (s : SiteId)
  | tanh (s : SiteId)
  | sigmoid (s : SiteId)
  | gelu (s : SiteId)
  | silu (s : SiteId)
  | pitchTable (s : SiteId)
  | gradientQuantiser (s : SiteId)
  | vectorComplete (s : SiteId) (id : Nat)
  | send (s : SiteId)
  | sendComplete (s : SiteId) (id : Nat)
  | receive (s : SiteId)
  | receiveComplete (s : SiteId) (id : Nat)
  | fetch (s : SiteId)
  | fetchComplete (s : SiteId) (id : Nat)
  | store (s : SiteId)
  | storeComplete (s : SiteId) (id : Nat)
  | wait (s : SiteId)
  | postToken (s : SiteId)
  | remotePostDelivery (s : SiteId) (id : Nat)
  | sleep (s : SiteId)
  | tileDoze (s : SiteId)
  | timedWake (s : SiteId)
  | yieldFig (s : SiteId)
  | contextResume (s : SiteId)
  | vote (s : SiteId)
  | chipFlag (c : CtxId)
  | endStep (s : SiteId)
  | stallLong (s : SiteId)
  | meshFlit (s : SiteId) (inPort outPort : MeshPort) (check : FlitCheck) (jobData slotTaken : Bool) (owner : FlitOwner)
  | localArrival (s : SiteId) (c : CtxId) (route : Nat) (payload : Bytes)
  | storePortOpen (s : SiteId)
  | storePortClose (s : SiteId)
  -- memory and codec events
  | ticketOverdue (id : Nat)
  | farAccessError (f : FnId) (forContext : Bool)
  | temperatureReadout (temps : List Nat)
  | scrubPass
  | packRead (u : StackId) (s : SiteId) (id : Nat)
  | packWrite (u : StackId) (s : SiteId) (id : Nat)
  | entropyWait (u : StackId) (s : SiteId) (id : Nat)
  | saltRefill (u : StackId)
  -- votes, sweep and delta stream
  | up (p : PortId) (dest : Nat) (body : Bytes)
  | down (p : PortId) (dest : Nat) (body : Bytes)
  | voteTimeout (c : CtxId)
  | sweepBegin (c : CtxId)
  | sweepPack (c : CtxId) (u : StackId)
  | sweepEnd (c : CtxId)
  | stepComplete (c : CtxId)
  | deltaRecord (c : CtxId)
  | deltaWait (c : CtxId)
  | ack (p : PortId) (dest hops : Nat) (body : Bytes)
  | ackTimeout (c : CtxId)
  -- media and decks
  | tsPacket (n : ChanId)
  | decodePicture (e : EngineId) (whole : List Nat)
  | pictureDecoded (e : EngineId) (t : EngineTake) (r : PictureEnd) (outs : Nat)
  | sampleWritten (n : ChanId)
  | windowBegin (c : CtxId)
  | deckCopy (c : CtxId)
  -- entropy
  | entropyFail
  | entropyRestart
  | entropyRestored (samples : Nat)
  | drbgReseed
  -- fabric
  | job (p : PortId) (dest : Nat) (body : Bytes)
  | delta (p : PortId) (dest hops : Nat) (body : Bytes)
  | nack (p : PortId) (lastGood : Nat)
  | replayTimeout (p : PortId)
  | retryExhausted (p : PortId)
  | linkUp (p : PortId) (t : TrainInfo)
  | quiet (p : PortId)
  | laneRetrainDone (p : PortId) (t : TrainInfo)
  -- management
  | tlsHandshake (o : TlsOffer)
  | sessionIdleTimeout (i : Fin 4)
  | sessionClose (i : Fin 4)
  | rangerRestart
  | hello (i : Fin 4) (id mask : Nat)
  | read (i : Fin 4) (id space off count : Nat)
  | write (i : Fin 4) (id space off : Nat) (words : List Nat)
  | maintStartScrub (i : Fin 4) (id arg : Nat)
  | maintStartRetest (i : Fin 4) (id arg : Nat)
  | tileRetestDone (t : SelfTest)
  | maintStartRemap (i : Fin 4) (id stack : Nat)
  | spareRemapDone (r : StackTest)
  | maintStartLaneRetrain (i : Fin 4) (id port : Nat)
  | maintStop (i : Fin 4) (id activity arg : Nat)
  | maintStatus (i : Fin 4) (id : Nat)
  | fwBegin (i : Fin 4) (id bank : Nat)
  | fwChunk (i : Fin 4) (id off : Nat) (data : Bytes)
  | fwCommit (i : Fin 4) (id : Nat)
  | fwPrefer (i : Fin 4) (id bank : Nat)
  | fuseAdvance (i : Fin 4) (id target blown : Nat)
  | fuseRevoke (i : Fin 4) (id key : Nat) (blown : Bool)
  | keyLoad (i : Fin 4) (id slot owner : Nat) (key : Bytes)
  | keyClear (i : Fin 4) (id slot : Nat)
  | pitchKeySet (i : Fin 4) (id slot : Nat) (key : Bytes)
  | pitchKeyWithdraw (i : Fin 4) (id slot : Nat)
  | anchorSet (i : Fin 4) (id slot role : Nat) (cert : Bytes)
  | anchorClear (i : Fin 4) (id slot : Nat)
  | denySet (i : Fin 4) (id entry digest : Nat)
  | netConfig (i : Fin 4) (id mode : Nat) (addr : Bytes)
  | seal (i : Fin 4) (id : Nat)
  | scrubPeriod (i : Fin 4) (id hours : Nat)
  | getVersion (i : Fin 4) (id : Nat)
  | getCapabilities (i : Fin 4) (id : Nat)
  | negotiateAlgorithms (i : Fin 4) (id : Nat)
  | getDigests (i : Fin 4) (id : Nat)
  | getCertificate (i : Fin 4) (id off len : Nat)
  | challenge (i : Fin 4) (id : Nat) (nonce : Bytes)
  | getMeasurements (i : Fin 4) (id index : Nat) (signed : Bool) (nonce : Bytes)
  -- tray bus
  | proposeFrame (slot : Fin 16) (round members : Nat)
  | voteFrame (slot : Fin 16) (round vote reason : Nat)
  | voteDeadline
  | commitFrame (slot : Fin 16) (round result : Nat)
  | commitTimeout
  | lastCallEnd
  | wakeFrame (slot : Fin 16) (reason round : Nat)
  | budgetFrame (slot : Fin 16) (cap request draw : Nat)
  | budgetTimer
  | presenceFrame (slot : Fin 16) (baseCamp : Bool) (serial : Nat)
  | presenceTimer
  | memberExpiry (slot : Fin 16)
  | alone
  | aloneRetry (acked : Bool)
  | busOffRecovery
  | flit (p : PortId) (header : BitVec 64) (payload : Bytes) (crc : BitVec 64)
  | ignoredFrame (slot : Fin 16)
  | busError (tx : Bool) (amount : Nat)
  | thermalWaitTimeout
  | powerOff
  deriving DecidableEq, Repr

end Sys2Proof
end

