-- ==== Sys2Proof/Decode.lean ====
section
/-! DEFINITION. Decoding. No row of the command table gives bits (log entry 9), so no word spells a command. Below
stands the decoder and the encoder of caller format 1, whose 32-bit words the part does decode (R114-R122). -/

namespace Sys2Proof

/-- No row of spec/opcode_table.json gives bits, so a word spells no command. -/
def decodeTableWord (_nbits _w : Nat) : Option Instr := none

/-- A bit as a number. -/
def b2n (b : Bool) : Nat := if b then 1 else 0

/-- An array mode with block scales: FP8, FP4 and FP8-W4 (R40). -/
def modeScaled (m : Nat) : Bool := m == 0 || m == 2 || m == 4
/-- A mode whose stationary block is FP8 (R40). -/
def modeFp8W (m : Nat) : Bool := m == 0

/-- A listed vector operation (R120). -/
def vecOpOk (op : Nat) : Bool := op ≤ 6 || (8 ≤ op && op ≤ 13) || op == 16 || op == 17 || (32 ≤ op && op ≤ 40) || op == 48

/-- A format that MX blocks may have: E4M3, E5M2 and E2M1 codes of VECTOR (R120). -/
def mxFmt (f : Nat) : Bool := f == 2 || f == 3 || f == 4

/-- The number of registers of a figure's frame from its base (R119-R121). -/
def frameLen : Fig → Nat
  | .load _ m _ sc _ => if sc then 3 else if m = 2 ∨ m = 3 then 2 else 1
  | .table _ _ => 3
  | .stream a _ _ _ em _ _ _ => 4 + (if em then popcount a else 0)
  | .vector _ _ _ _ _ _ _ _ => 6
  | .send _ _ => 2
  | .receive _ _ _ _ => 2
  | .fetch _ _ _ _ => 4
  | .store _ _ _ _ => 4
  | _ => 0

/-- The argument base of a figure. -/
def frameBase : Fig → Nat
  | .load _ _ _ _ b => b
  | .table _ b => b
  | .stream _ _ _ _ _ _ _ b => b
  | .vector _ _ _ _ _ b _ _ => b
  | .send b _ => b
  | .receive b _ _ _ => b
  | .fetch b _ _ _ => b
  | .store b _ _ _ => b
  | _ => 0

/-- The static rules of a figure (R114, R118-R122): every field in its range, the rules of LOAD, STREAM and VECTOR,
and the frame within G15. -/
def Fig.ok (f : Fig) : Bool :=
  frameBase f + frameLen f ≤ 16 &&
  match f with
  | .set i v => i < 16 && v < 2 ^ 20
  | .addg i v => i < 16 && v < 2 ^ 20
  | .repeatBody bd c => bd < 128 && c < 4096
  | .load a m wv sc b => a < 4 && m < 6 && (modeFp8W m || !wv) && (modeScaled m || !sc) && b < 16
  | .table a b => a < 4 && b < 16
  | .stream a _ _ _ _ _ o b => 1 ≤ a && a < 16 && o < 6 && b < 16
  | .vector op r fin i o b mi mo =>
    vecOpOk op && r < 3 && i < 7 && o < 6 && b < 16 && !(mi && mo) && (!mi || mxFmt i) && (!mo || mxFmt o)
      && (r == 0 || (op == 0 && o != 0))
      && (op != 48 || (i == 0 && o == 3 && r == 0 && fin && !mi && !mo))
  | .send b r => b < 16 && r < 2 ^ 16
  | .receive b _ t r => b < 16 && t < 32 && r < 2 ^ 16
  | .fetch b _ t o => b < 16 && t < 32 && o < 2 ^ 16
  | .store b _ t o => b < 16 && t < 32 && o < 2 ^ 16
  | .wait t c => t < 32 && 1 ≤ c && c < 256
  | .post rm t r => t < 32 && r < 2 ^ 16 && (rm || r == 0)
  | .sleep _ c => c < 2 ^ 26
  | .yieldToken t c => t < 32 && 1 ≤ c && c < 256
  | .yieldTime c => c < 2 ^ 26
  | .vote _ t v => t < 32 && v < 2 ^ 16
  | .endStep _ n => n < 2 ^ 14

/-- The word of a figure (R114, R118-R122). -/
def encodeFig : Fig → Nat
  | .set i v => 1 * 2 ^ 27 + i * 2 ^ 23 + v
  | .addg i v => 2 * 2 ^ 27 + i * 2 ^ 23 + v
  | .repeatBody bd c => 3 * 2 ^ 27 + bd * 2 ^ 20 + c * 2 ^ 8
  | .load a m wv sc b => 4 * 2 ^ 27 + a * 2 ^ 25 + m * 2 ^ 22 + b2n wv * 2 ^ 21 + b2n sc * 2 ^ 20 + b * 2 ^ 8
  | .table a b => 5 * 2 ^ 27 + a * 2 ^ 25 + b * 2 ^ 8
  | .stream a s x st em rs o b =>
    6 * 2 ^ 27 + a * 2 ^ 23 + b2n s * 2 ^ 22 + b2n x * 2 ^ 21 + b2n st * 2 ^ 20 + b2n em * 2 ^ 19 + b2n rs * 2 ^ 18
      + o * 2 ^ 15 + b * 2 ^ 8
  | .vector op r fin i o b mi mo =>
    7 * 2 ^ 27 + op * 2 ^ 21 + r * 2 ^ 19 + b2n fin * 2 ^ 18 + i * 2 ^ 15 + o * 2 ^ 12 + b * 2 ^ 8 + b2n mi * 2 ^ 7
      + b2n mo * 2 ^ 6
  | .send b r => 8 * 2 ^ 27 + b * 2 ^ 23 + r
  | .receive b p t r => 9 * 2 ^ 27 + b * 2 ^ 23 + b2n p * 2 ^ 22 + t * 2 ^ 16 + r
  | .fetch b p t o => 10 * 2 ^ 27 + b * 2 ^ 23 + b2n p * 2 ^ 22 + t * 2 ^ 16 + o
  | .store b p t o => 11 * 2 ^ 27 + b * 2 ^ 23 + b2n p * 2 ^ 22 + t * 2 ^ 16 + o
  | .wait t c => 12 * 2 ^ 27 + t * 2 ^ 16 + c
  | .post rm t r => 13 * 2 ^ 27 + b2n rm * 2 ^ 26 + t * 2 ^ 16 + r
  | .sleep fi c => 14 * 2 ^ 27 + b2n fi * 2 ^ 26 + c
  | .yieldToken t c => 15 * 2 ^ 27 + t * 2 ^ 16 + c
  | .yieldTime c => 15 * 2 ^ 27 + 2 ^ 26 + c
  | .vote p t v => 16 * 2 ^ 27 + b2n p * 2 ^ 21 + t * 2 ^ 16 + v
  | .endStep fin n => 17 * 2 ^ 27 + b2n fin * 2 ^ 26 + n

/-- The fields of a word under its opcode, with every Reserved bit 0; none for an unused opcode (R115, R118-R122). -/
def figFields (w : Nat) : Option Fig :=
  let f := fun hi lo => bitsOf w hi lo
  let t := fun k => w.testBit k
  match bitsOf w 31 27 with
  | 1 => if f 22 20 = 0 then some (.set (f 26 23) (f 19 0)) else none
  | 2 => if f 22 20 = 0 then some (.addg (f 26 23) (f 19 0)) else none
  | 3 => if f 7 0 = 0 then some (.repeatBody (f 26 20) (f 19 8)) else none
  | 4 => if f 19 12 = 0 ∧ f 7 0 = 0 then some (.load (f 26 25) (f 24 22) (t 21) (t 20) (f 11 8)) else none
  | 5 => if f 24 12 = 0 ∧ f 7 0 = 0 then some (.table (f 26 25) (f 11 8)) else none
  | 6 => if f 14 12 = 0 ∧ f 7 0 = 0 then
      some (.stream (f 26 23) (t 22) (t 21) (t 20) (t 19) (t 18) (f 17 15) (f 11 8)) else none
  | 7 => if f 5 0 = 0 then
      some (.vector (f 26 21) (f 20 19) (t 18) (f 17 15) (f 14 12) (f 11 8) (t 7) (t 6)) else none
  | 8 => if f 22 16 = 0 then some (.send (f 26 23) (f 15 0)) else none
  | 9 => if f 21 21 = 0 then some (.receive (f 26 23) (t 22) (f 20 16) (f 15 0)) else none
  | 10 => if f 21 21 = 0 then some (.fetch (f 26 23) (t 22) (f 20 16) (f 15 0)) else none
  | 11 => if f 21 21 = 0 then some (.store (f 26 23) (t 22) (f 20 16) (f 15 0)) else none
  | 12 => if f 26 21 = 0 ∧ f 15 8 = 0 then some (.wait (f 20 16) (f 7 0)) else none
  | 13 => if f 25 21 = 0 then some (.post (t 26) (f 20 16) (f 15 0)) else none
  | 14 => some (.sleep (t 26) (f 25 0))
  | 15 => if t 26 then some (.yieldTime (f 25 0))
      else if f 25 21 = 0 ∧ f 15 8 = 0 then some (.yieldToken (f 20 16) (f 7 0)) else none
  | 16 => if f 26 22 = 0 then some (.vote (t 21) (f 20 16) (f 15 0)) else none
  | 17 => if f 25 14 = 0 then some (.endStep (t 26) (f 13 0)) else none
  | _ => none

/-- Decode a figure; none where the loader refuses it with FORMAT (R114). -/
def decodeFig (w : Nat) : Option Fig :=
  match figFields w with
  | some f => if f.ok && w < 2 ^ 32 then some f else none
  | none => none

end Sys2Proof
end

