-- ==== Sys2Proof/Config.lean ====
section
/-! DEFINITION. What the spec leaves to the device or leaves open: fused values, free values, and what the
world around the part does. Each is an opaque constant, so no proof can use a value of it, but for the cutoff that R353 fixes. -/

namespace Sys2Proof.Config

/-- The free value number `k`: whatever the spec leaves open at one point of a run (log entry 3). -/
opaque freeValue : Nat → Nat

/-- What happens around the part in always-on cycle number `k` of a run (log entry 89): soft errors that arise in its memories,
true where they cannot be corrected. -/
opaque softErrors : Nat → List (ErrPlace × Bool)

/-- The bytes that host software writes into its own memory in that cycle, by function * 2^64 + bus address (log entry 89). -/
opaque hostWrites : Nat → List (Nat × Byte)

/-- The 4 KiB pages of host memory that answer with an error after that cycle (log entry 89). -/
opaque hostDead : Nat → List Nat

/-- The FEC codewords of each port that are corrected, and those that are not, in that cycle: port, corrected, uncorrected (log entry
89). -/
opaque fecErrors : Nat → List (Fin 8 × Nat × Nat)

/-- The fused serial number, 128 bits (R505). -/
opaque serial : Nat

/-- The adaptive-proportion cutoff: 1 + the least k with P(X ≤ k) ≥ 1 - 2^-20 for X binomial over 1,024 samples at 2^-0.5, as
SP 800-90B gives it for H = 0.5 (R353, log entry 18). -/
def aptCutoff : Nat := 793

/-- The FP32 code of a table function's result, by function number and operand bits, where it lies within the error that R82 allows; else
the result is the correctly rounded one (log entry 8). -/
opaque tableErr : Nat → Nat → Nat

/-- The fused SHA-384 digest of firmware key `k` (R411, R412). -/
opaque fwKeyDigest : Nat → List (BitVec 8)

/-- The fused digest of the contract family's pitch-signing key (R94). -/
opaque pitchKeyDigest : List (BitVec 8)

/-- The fused core set point, in mV, of a tile frequency in units of 25 MHz (R476). -/
opaque setPoint : Nat → Nat

/-- The certificate chain that the part presents while it runs an image, by the image's digest and SVN: the alias key
follows both (R423). -/
opaque certChain : List (BitVec 8) → Nat → List (BitVec 8)

/-- The alias key's signature of a message, by the running image's digest and SVN: nonces are deterministic (R423). -/
opaque aliasSign : List (BitVec 8) → Nat → List (BitVec 8) → List (BitVec 8)

/-- The digest of the mask ROM, that of the image in the bank filled at manufacture, and the factory disables as the fuses
hold them (R424). -/
opaque romDigest : List (BitVec 8)
opaque factoryDigest : List (BitVec 8)
opaque factoryDisables : List (BitVec 8)

/-- The fused management MAC address (R415). -/
opaque macAddress : Nat

end Sys2Proof.Config
end

