-- ==== Sys2Proof/Machine/Tbl.lean ====
section
/-! DEFINITION. The operations over sparse tables and over byte memories. A table lists its entries in rising
order of key; a memory is a table of bytes that never lists the byte 0x00, which an unlisted address reads as
(log entry 5). -/

namespace Sys2Proof.Machine

/-- The entry of a key. -/
def tget {α : Type} (t : Tbl α) (k : Nat) : Option α := (t.find? (fun e => e.1 == k)).map (·.2)

/-- Put an entry in its place in rising order; the key is not in the table. -/
def tins {α : Type} (k : Nat) (v : α) : Tbl α → Tbl α
  | [] => [(k, v)]
  | e :: t => if k < e.1 then (k, v) :: e :: t else e :: tins k v t

/-- Remove a key. -/
def tdel {α : Type} (t : Tbl α) (k : Nat) : Tbl α := t.filter (fun e => e.1 != k)

/-- Set the entry of a key. -/
def tput {α : Type} (t : Tbl α) (k : Nat) (v : α) : Tbl α := tins k v (tdel t k)

/-- The entry of a key, or `d`. -/
def tgetD {α : Type} (t : Tbl α) (k : Nat) (d : α) : α := (tget t k).getD d

/-- The keys rise strictly. -/
def tsorted {α : Type} : Tbl α → Bool
  | [] => true
  | e :: t => t.all (fun x => e.1 < x.1) && tsorted t

/-- Read one byte of a memory. -/
def mget (m : Tbl Byte) (a : Nat) : Byte := tgetD m a 0#8

/-- Write one byte of a memory, keeping its canonical form. -/
def mput (m : Tbl Byte) (a : Nat) (b : Byte) : Tbl Byte := if b = 0#8 then tdel m a else tput m a b

/-- Read `n` bytes upward from `a`. -/
def mread (m : Tbl Byte) (a n : Nat) : Bytes := (List.range n).map (fun i => mget m (a + i))

/-- Write bytes upward from `a`. -/
def mwrite (m : Tbl Byte) (a : Nat) : Bytes → Tbl Byte
  | [] => m
  | b :: t => mwrite (mput m a b) (a + 1) t

/-- Zero the addresses from `a` up to but not including `a + n`. -/
def mzero (m : Tbl Byte) (a n : Nat) : Tbl Byte := m.filter (fun e => e.1 < a || a + n ≤ e.1)

/-- A memory is in canonical form: the keys rise strictly and no byte listed is 0x00. -/
def Memory.wf (m : Tbl Byte) : Bool := tsorted m && m.all (fun e => e.2 != 0#8)

end Sys2Proof.Machine
end

