-- ==== Sys2Proof/Machine/RegMap.lean ====
section
/-! DEFINITION. The register map (R504, R365, R438): the key of every register in `State.regs`, and one row for
each register with its width, its reset value and which bits answer to which access code (R5). A key is the
PF BAR0 offset. The blocks that each function has of its own (function block, queue pairs, group vectors, MSI-X
table) lie for instance f at f * 0x1_0000_0000 plus the offset in the instance's BAR0; the ranger space (R438)
lies at 0x100_0000_0000. -/

namespace Sys2Proof.Machine.Reg

/-- Where the private registers of function f begin. -/
def fnSpace (f : Nat) : Nat := f * 0x100000000
/-- The function block (R370, R371). -/
def fnBlock (f : Nat) : Nat := if f = 0 then 0x10000 else fnSpace f + 0x2000
/-- The queue pair block (R373). -/
def qpBlock (f q : Nat) : Nat := (if f = 0 then 0x100000 else fnSpace f + 0x10000) + q * 0x40
/-- The interrupt block (R470). -/
def irqBlock (f : Nat) : Nat := fnSpace f + 0x1000
/-- The MSI-X table (R364). -/
def msixBlock (f : Nat) : Nat := if f = 0 then 0xE0000 else fnSpace f + 0x80000
/-- The ranger space (R438). -/
def rangerBase : Nat := 0x10000000000

/-- TILE_FITNESS (R23) -/
def TILE_FITNESS (a : Nat) : Nat := 0x1000000 + a * 0x10000
/-- TILE_SITE (R32) -/
def TILE_SITE (a : Nat) : Nat := 0x1000004 + a * 0x10000
/-- MAP_EPOCH (R33) -/
def MAP_EPOCH (a : Nat) : Nat := 0x1000008 + a * 0x10000
/-- TILE_POWER (R34) -/
def TILE_POWER (a : Nat) : Nat := 0x100000C + a * 0x10000
/-- MESH_FLITS (R35), 64 bits -/
def MESH_FLITS (a b : Nat) : Nat := 0x1000040 + a * 0x10000 + b * 8
/-- MESH_WAIT (R35), 64 bits -/
def MESH_WAIT (a b : Nat) : Nat := 0x1000070 + a * 0x10000 + b * 8
/-- MESH_CAUSE (R36) -/
def MESH_CAUSE (a : Nat) : Nat := 0x10000A0 + a * 0x10000
/-- MESH_MASK (R36) -/
def MESH_MASK (a : Nat) : Nat := 0x10000A4 + a * 0x10000
/-- MESH_CORRECTED (R37) -/
def MESH_CORRECTED (a : Nat) : Nat := 0x10000A8 + a * 0x10000
/-- CALLER_STATUS (R141) -/
def CALLER_STATUS (a : Nat) : Nat := 0x1000100 + a * 0x10000
/-- CALLER_CAUSE (R142) -/
def CALLER_CAUSE (a : Nat) : Nat := 0x1000104 + a * 0x10000
/-- CALLER_MASK (R142) -/
def CALLER_MASK (a : Nat) : Nat := 0x1000108 + a * 0x10000
/-- STALL_LIMIT (R143) -/
def STALL_LIMIT (a : Nat) : Nat := 0x100010C + a * 0x10000
/-- VEC_SAT (R140) -/
def VEC_SAT (a : Nat) : Nat := 0x1000110 + a * 0x10000
/-- VEC_NONFINITE (R140) -/
def VEC_NONFINITE (a : Nat) : Nat := 0x1000114 + a * 0x10000
/-- FIG_CORRECTED (R140) -/
def FIG_CORRECTED (a : Nat) : Nat := 0x1000118 + a * 0x10000
/-- LATE_WAKES (R140) -/
def LATE_WAKES (a : Nat) : Nat := 0x100011C + a * 0x10000
/-- FIGURES_ISSUED (R140), 64 bits -/
def FIGURES_ISSUED (a : Nat) : Nat := 0x1000120 + a * 0x10000
/-- HOLD_CYCLES (R140), 64 bits -/
def HOLD_CYCLES (a : Nat) : Nat := 0x1000128 + a * 0x10000
/-- SWITCH_CYCLES (R140), 64 bits -/
def SWITCH_CYCLES (a : Nat) : Nat := 0x1000130 + a * 0x10000
/-- SWITCHES (R140) -/
def SWITCHES (a : Nat) : Nat := 0x1000138 + a * 0x10000
/-- CTX_ID (R144) -/
def CTX_ID (a b : Nat) : Nat := 0x1000140 + a * 0x10000 + b * 0x10
/-- CTX_STATE (R144) -/
def CTX_STATE (a b : Nat) : Nat := 0x1000144 + a * 0x10000 + b * 0x10
/-- CTX_STEPS (R144) -/
def CTX_STEPS (a b : Nat) : Nat := 0x1000148 + a * 0x10000 + b * 0x10
/-- CTX_FLAGS (R144) -/
def CTX_FLAGS (a b : Nat) : Nat := 0x100014C + a * 0x10000 + b * 0x10
/-- ARR_BEATS (R65), 64 bits -/
def ARR_BEATS (a b : Nat) : Nat := 0x1000200 + a * 0x10000 + b * 0x40
/-- ARR_LOADS (R65), 64 bits -/
def ARR_LOADS (a b : Nat) : Nat := 0x1000208 + a * 0x10000 + b * 0x40
/-- ARR_BUSY (R65), 64 bits -/
def ARR_BUSY (a b : Nat) : Nat := 0x1000210 + a * 0x10000 + b * 0x40
/-- OUT_SAT (R65), 64 bits -/
def OUT_SAT (a b : Nat) : Nat := 0x1000218 + a * 0x10000 + b * 0x40
/-- ACC_SAT (R65) -/
def ACC_SAT (a b : Nat) : Nat := 0x1000220 + a * 0x10000 + b * 0x40
/-- ACC_NONFINITE (R65) -/
def ACC_NONFINITE (a b : Nat) : Nat := 0x1000224 + a * 0x10000 + b * 0x40
/-- UNDERFLOW (R65) -/
def UNDERFLOW (a b : Nat) : Nat := 0x1000228 + a * 0x10000 + b * 0x40
/-- ARR_STATUS (R66) -/
def ARR_STATUS (a b : Nat) : Nat := 0x100022C + a * 0x10000 + b * 0x40
/-- ARR_CAUSE (R68) -/
def ARR_CAUSE (a b : Nat) : Nat := 0x1000230 + a * 0x10000 + b * 0x40
/-- ARR_MASK (R68) -/
def ARR_MASK (a b : Nat) : Nat := 0x1000234 + a * 0x10000 + b * 0x40
/-- SAT_LIMIT (R69) -/
def SAT_LIMIT (a b : Nat) : Nat := 0x1000238 + a * 0x10000 + b * 0x40
/-- ARR_CORRECTED (R65) -/
def ARR_CORRECTED (a b : Nat) : Nat := 0x100023C + a * 0x10000 + b * 0x40
/-- MEM_STATUS (R178) -/
def MEM_STATUS : Nat := 0x200000
/-- MEM_CAUSE (R182) -/
def MEM_CAUSE : Nat := 0x200004
/-- MEM_MASK (R182) -/
def MEM_MASK : Nat := 0x200008
/-- GROUP_ADVANCE (R180) -/
def GROUP_ADVANCE : Nat := 0x20000C
/-- BAR2_BASE (R181), 64 bits -/
def BAR2_BASE : Nat := 0x200010
/-- TICKET_NOW (R181) -/
def TICKET_NOW : Nat := 0x200018
/-- SCRUB_CONTROL (R181) -/
def SCRUB_CONTROL : Nat := 0x20001C
/-- STACK_STATUS (R179) -/
def STACK_STATUS (a : Nat) : Nat := 0x200020 + a * 4
/-- HBM_CORRECTED (R177) -/
def HBM_CORRECTED (a : Nat) : Nat := 0x200040 + a * 4
/-- HBM_POISONED (R177) -/
def HBM_POISONED (a : Nat) : Nat := 0x200060 + a * 4
/-- MEM_WAIT_MAX (R177) -/
def MEM_WAIT_MAX (a : Nat) : Nat := 0x200080 + a * 4
/-- MEM_OVERDUE (R177) -/
def MEM_OVERDUE (a : Nat) : Nat := 0x2000A0 + a * 4
/-- TS_CORRECTED (R177) -/
def TS_CORRECTED : Nat := 0x2000C0
/-- MIGRATING (R177) -/
def MIGRATING : Nat := 0x2000C4
/-- PAGES_MIGRATED (R177), 64 bits -/
def PAGES_MIGRATED : Nat := 0x2000C8
/-- SPARE_CANDIDATES (R177) -/
def SPARE_CANDIDATES : Nat := 0x2000D0
/-- SCRUB_PASSES (R177) -/
def SCRUB_PASSES : Nat := 0x2000D4
/-- CODEC_STATUS (R213) -/
def CODEC_STATUS (a : Nat) : Nat := 0x300000 + a * 0x100
/-- CODEC_CAUSE (R214) -/
def CODEC_CAUSE (a : Nat) : Nat := 0x300004 + a * 0x100
/-- CODEC_MASK (R214) -/
def CODEC_MASK (a : Nat) : Nat := 0x300008 + a * 0x100
/-- IN_BYTES (R211), 64 bits -/
def IN_BYTES (a : Nat) : Nat := 0x300010 + a * 0x100
/-- OUT_BYTES (R211), 64 bits -/
def OUT_BYTES (a : Nat) : Nat := 0x300018 + a * 0x100
/-- PACKS_EXPANDED (R211), 64 bits -/
def PACKS_EXPANDED (a : Nat) : Nat := 0x300020 + a * 0x100
/-- PACKS_PACKED (R211), 64 bits -/
def PACKS_PACKED (a : Nat) : Nat := 0x300028 + a * 0x100
/-- LATE_BYTES (R211), 64 bits -/
def LATE_BYTES (a : Nat) : Nat := 0x300030 + a * 0x100
/-- ESCAPES (R211) -/
def ESCAPES (a : Nat) : Nat := 0x300038 + a * 0x100
/-- LATE_PACKS (R211) -/
def LATE_PACKS (a : Nat) : Nat := 0x30003C + a * 0x100
/-- CHECK_FAILS (R211) -/
def CHECK_FAILS (a : Nat) : Nat := 0x300040 + a * 0x100
/-- AUTH_FAILS (R211) -/
def AUTH_FAILS (a : Nat) : Nat := 0x300044 + a * 0x100
/-- TABLE_CORRECTED (R211) -/
def TABLE_CORRECTED (a : Nat) : Nat := 0x300048 + a * 0x100
/-- CODEC_RECORDS (R215) -/
def CODEC_RECORDS : Nat := 0x300800
/-- SWEEP_STATUS (R267) -/
def SWEEP_STATUS (a : Nat) : Nat := 0x400000 + a * 0x100
/-- SWEEP_CAUSE (R268) -/
def SWEEP_CAUSE (a : Nat) : Nat := 0x400004 + a * 0x100
/-- SWEEP_MASK (R268) -/
def SWEEP_MASK (a : Nat) : Nat := 0x400008 + a * 0x100
/-- PARAMS_SWEPT (R266), 64 bits -/
def PARAMS_SWEPT (a : Nat) : Nat := 0x400010 + a * 0x100
/-- SWEEP_BUSY (R266), 64 bits -/
def SWEEP_BUSY (a : Nat) : Nat := 0x400018 + a * 0x100
/-- FAR_READ_BYTES (R266), 64 bits -/
def FAR_READ_BYTES (a : Nat) : Nat := 0x400020 + a * 0x100
/-- FAR_WRITE_BYTES (R266), 64 bits -/
def FAR_WRITE_BYTES (a : Nat) : Nat := 0x400028 + a * 0x100
/-- SWEEP_NONFINITE (R266) -/
def SWEEP_NONFINITE (a : Nat) : Nat := 0x400030 + a * 0x100
/-- FAR_UNPLANNED (R266) -/
def FAR_UNPLANNED (a : Nat) : Nat := 0x400034 + a * 0x100
/-- SWEEP_CORRECTED (R266) -/
def SWEEP_CORRECTED (a : Nat) : Nat := 0x400038 + a * 0x100
/-- VOTE_STRAYS (R265) -/
def VOTE_STRAYS : Nat := 0x400800
/-- VOTE_CAUSE (R268) -/
def VOTE_CAUSE : Nat := 0x400804
/-- VOTE_MASK (R268) -/
def VOTE_MASK : Nat := 0x400808
/-- STEP_STATE (R270) -/
def STEP_STATE (a : Nat) : Nat := 0x401000 + a * 0x40
/-- LOSS_SCALE (R269) -/
def LOSS_SCALE (a : Nat) : Nat := 0x401004 + a * 0x40
/-- GOOD_STEPS (R269) -/
def GOOD_STEPS (a : Nat) : Nat := 0x401008 + a * 0x40
/-- SKIPS (R269) -/
def SKIPS (a : Nat) : Nat := 0x40100C + a * 0x40
/-- STEP (R269), 64 bits -/
def STEP (a : Nat) : Nat := 0x401010 + a * 0x40
/-- DELTA_BYTES (R269), 64 bits -/
def DELTA_BYTES (a : Nat) : Nat := 0x401018 + a * 0x40
/-- DELTA_WAIT (R269), 64 bits -/
def DELTA_WAIT (a : Nat) : Nat := 0x401020 + a * 0x40
/-- VOTE_TIME (R269) -/
def VOTE_TIME (a : Nat) : Nat := 0x401028 + a * 0x40
/-- VOTE_MAX (R269) -/
def VOTE_MAX (a : Nat) : Nat := 0x40102C + a * 0x40
/-- CTX_SWEEP_CAUSE (R271) -/
def CTX_SWEEP_CAUSE (a : Nat) : Nat := 0x401030 + a * 0x40
/-- CTX_SWEEP_MASK (R271) -/
def CTX_SWEEP_MASK (a : Nat) : Nat := 0x401034 + a * 0x40
/-- PEG_POOL (R299) -/
def PEG_POOL : Nat := 0xC0000
/-- POOL_RESERVED (R299) -/
def POOL_RESERVED : Nat := 0xC0004
/-- SERVE_STATE (R301) -/
def SERVE_STATE (a : Nat) : Nat := 0xC1000 + a * 0x80
/-- SERVE_CAUSE (R302) -/
def SERVE_CAUSE (a : Nat) : Nat := 0xC1004 + a * 0x80
/-- SERVE_MASK (R302) -/
def SERVE_MASK (a : Nat) : Nat := 0xC1008 + a * 0x80
/-- PEGS (R300) -/
def PEGS (a : Nat) : Nat := 0xC100C + a * 0x80
/-- BATCHES_ACCEPTED (R300), 64 bits -/
def BATCHES_ACCEPTED (a : Nat) : Nat := 0xC1010 + a * 0x80
/-- BATCHES_DONE (R300), 64 bits -/
def BATCHES_DONE (a : Nat) : Nat := 0xC1018 + a * 0x80
/-- REQUESTS_DONE (R300), 64 bits -/
def REQUESTS_DONE (a : Nat) : Nat := 0xC1020 + a * 0x80
/-- COMMIT_SEQ (R300), 64 bits -/
def COMMIT_SEQ (a : Nat) : Nat := 0xC1028 + a * 0x80
/-- WINDOWS_BOUND (R300), 64 bits -/
def WINDOWS_BOUND (a : Nat) : Nat := 0xC1030 + a * 0x80
/-- BATCHES_REFUSED (R300) -/
def BATCHES_REFUSED (a : Nat) : Nat := 0xC1038 + a * 0x80
/-- PEG_EXPIRIES (R300) -/
def PEG_EXPIRIES (a : Nat) : Nat := 0xC103C + a * 0x80
/-- COMMIT_TIME (R300) -/
def COMMIT_TIME (a : Nat) : Nat := 0xC1040 + a * 0x80
/-- START_MAX (R300) -/
def START_MAX (a : Nat) : Nat := 0xC1044 + a * 0x80
/-- MEDIA_STATUS (R334) -/
def MEDIA_STATUS : Nat := 0x500000
/-- MEDIA_CAUSE (R337) -/
def MEDIA_CAUSE : Nat := 0x500004
/-- MEDIA_MASK (R337) -/
def MEDIA_MASK : Nat := 0x500008
/-- DECODE_EPOCH (R333) -/
def DECODE_EPOCH : Nat := 0x50000C
/-- PICTURES_DECODED (R333), 64 bits -/
def PICTURES_DECODED : Nat := 0x500010
/-- PICTURES_DROPPED (R333), 64 bits -/
def PICTURES_DROPPED : Nat := 0x500018
/-- SAMPLES_WRITTEN (R333), 64 bits -/
def SAMPLES_WRITTEN : Nat := 0x500020
/-- TS_PACKETS (R333), 64 bits -/
def TS_PACKETS : Nat := 0x500028
/-- TS_DISCARDED (R333) -/
def TS_DISCARDED : Nat := 0x500030
/-- SECTIONS_BAD (R333) -/
def SECTIONS_BAD : Nat := 0x500034
/-- CLIPS_DISCARDED (R333) -/
def CLIPS_DISCARDED : Nat := 0x500038
/-- TOK_SAT (R333) -/
def TOK_SAT : Nat := 0x50003C
/-- REPORTS_LOST (R333) -/
def REPORTS_LOST : Nat := 0x500040
/-- ENGINE_CORRECTED (R333) -/
def ENGINE_CORRECTED : Nat := 0x500044
/-- DROPS_BY_REASON (R333) -/
def DROPS_BY_REASON (a : Nat) : Nat := 0x500060 + a * 4
/-- DECODE_FITNESS (R335) -/
def DECODE_FITNESS (a : Nat) : Nat := 0x500100 + a * 4
/-- ENGINE_STATUS (R336) -/
def ENGINE_STATUS (a : Nat) : Nat := 0x500200 + a * 0x20
/-- ENGINE_PICTURES (R333), 64 bits -/
def ENGINE_PICTURES (a : Nat) : Nat := 0x500208 + a * 0x20
/-- ENGINE_BUSY (R333), 64 bits -/
def ENGINE_BUSY (a : Nat) : Nat := 0x500210 + a * 0x20
/-- ENGINE_DROPS (R333) -/
def ENGINE_DROPS (a : Nat) : Nat := 0x500218 + a * 0x20
/-- CHANNEL_STATE (R339) -/
def CHANNEL_STATE (a : Nat) : Nat := 0x501000 + a * 0x20
/-- CHANNEL_CAUSE (R340) -/
def CHANNEL_CAUSE (a : Nat) : Nat := 0x501004 + a * 0x20
/-- CHANNEL_MASK (R340) -/
def CHANNEL_MASK (a : Nat) : Nat := 0x501008 + a * 0x20
/-- DROPS (R338) -/
def DROPS (a : Nat) : Nat := 0x50100C + a * 0x20
/-- SAMPLES (R338), 64 bits -/
def SAMPLES (a : Nat) : Nat := 0x501010 + a * 0x20
/-- RELEASED (R338), 64 bits -/
def RELEASED (a : Nat) : Nat := 0x501018 + a * 0x20
/-- RANDOM_STATUS (R360) -/
def RANDOM_STATUS : Nat := 0x600000
/-- RANDOM_CAUSE (R361) -/
def RANDOM_CAUSE : Nat := 0x600004
/-- RANDOM_MASK (R361) -/
def RANDOM_MASK : Nat := 0x600008
/-- ENTROPY_CUTOFFS (R360) -/
def ENTROPY_CUTOFFS : Nat := 0x60000C
/-- ENTROPY_FAILS (R359) -/
def ENTROPY_FAILS : Nat := 0x600010
/-- DRBG_RESEEDS (R359) -/
def DRBG_RESEEDS : Nat := 0x600014
/-- DRBG_BYTES (R359), 64 bits -/
def DRBG_BYTES : Nat := 0x600018
/-- SHUFFLE_BYTES (R359), 64 bits -/
def SHUFFLE_BYTES : Nat := 0x600020
/-- DECK_STATE (R362) -/
def DECK_STATE (a : Nat) : Nat := 0x601000 + a * 0x40
/-- DECK_CAUSE (R362) -/
def DECK_CAUSE (a : Nat) : Nat := 0x601004 + a * 0x40
/-- DECK_MASK (R362) -/
def DECK_MASK (a : Nat) : Nat := 0x601008 + a * 0x40
/-- WINDOW (R362), 64 bits -/
def WINDOW (a : Nat) : Nat := 0x601010 + a * 0x40
/-- POSITION (R362), 64 bits -/
def POSITION (a : Nat) : Nat := 0x601018 + a * 0x40
/-- FN_STATUS (R371) -/
def FN_STATUS (f : Nat) : Nat := fnBlock f + 0
/-- HOST_PROTOCOL (R371) -/
def HOST_PROTOCOL (f : Nat) : Nat := fnBlock f + 4
/-- ACCESS_LOG (R371) -/
def ACCESS_LOG (f : Nat) : Nat := fnBlock f + 8
/-- LATE_DISCARDS (R371) -/
def LATE_DISCARDS (f : Nat) : Nat := fnBlock f + 0xC
/-- STALE_COMMANDS (R371) -/
def STALE_COMMANDS (f : Nat) : Nat := fnBlock f + 0x10
/-- FN_CAUSE (R371) -/
def FN_CAUSE (f : Nat) : Nat := fnBlock f + 0x14
/-- FN_MASK (R371) -/
def FN_MASK (f : Nat) : Nat := fnBlock f + 0x18
/-- POOL_TILES (R370) -/
def POOL_TILES : Nat := 0x10100
/-- POOL_DECODE_LO (R370) -/
def POOL_DECODE_LO : Nat := 0x10104
/-- POOL_DECODE_HI (R370) -/
def POOL_DECODE_HI : Nat := 0x10108
/-- POOL_GRANULES_LO (R370) -/
def POOL_GRANULES_LO : Nat := 0x1010C
/-- POOL_GRANULES_HI (R370) -/
def POOL_GRANULES_HI : Nat := 0x10110
/-- POOL_QP_PEG (R372) -/
def POOL_QP_PEG : Nat := 0x10114
/-- INST_STATE (R372) -/
def INST_STATE (i : Nat) : Nat := 0x11000 + i * 0x40
/-- INST_TILES (R370) -/
def INST_TILES (i : Nat) : Nat := 0x11004 + i * 0x40
/-- INST_DECODE_LO (R370) -/
def INST_DECODE_LO (i : Nat) : Nat := 0x11008 + i * 0x40
/-- INST_DECODE_HI (R370) -/
def INST_DECODE_HI (i : Nat) : Nat := 0x1100C + i * 0x40
/-- INST_GRANULES_LO (R370) -/
def INST_GRANULES_LO (i : Nat) : Nat := 0x11010 + i * 0x40
/-- INST_GRANULES_HI (R370) -/
def INST_GRANULES_HI (i : Nat) : Nat := 0x11014 + i * 0x40
/-- INST_QP_PEG (R372) -/
def INST_QP_PEG (i : Nat) : Nat := 0x11018 + i * 0x40
/-- INST_LATE (R370) -/
def INST_LATE (i : Nat) : Nat := 0x1101C + i * 0x40
/-- SQ_BASE (R373), 64 bits -/
def SQ_BASE (f q : Nat) : Nat := qpBlock f q + 0
/-- CQ_BASE (R373), 64 bits -/
def CQ_BASE (f q : Nat) : Nat := qpBlock f q + 8
/-- QP_CONFIG (R373) -/
def QP_CONFIG (f q : Nat) : Nat := qpBlock f q + 0x10
/-- QP_STATUS (R373) -/
def QP_STATUS (f q : Nat) : Nat := qpBlock f q + 0x14
/-- SQ_TAIL (R373) -/
def SQ_TAIL (f q : Nat) : Nat := qpBlock f q + 0x18
/-- CQ_HEAD (R373) -/
def CQ_HEAD (f q : Nat) : Nat := qpBlock f q + 0x1C
/-- FAB_STATUS (R404) -/
def FAB_STATUS : Nat := 0x700000
/-- FAB_CAUSE (R408) -/
def FAB_CAUSE : Nat := 0x700004
/-- FAB_MASK (R408) -/
def FAB_MASK : Nat := 0x700008
/-- FABRIC_ID (R404) -/
def FABRIC_ID : Nat := 0x70000C
/-- FAB_VERSIONS (R404) -/
def FAB_VERSIONS : Nat := 0x700010
/-- FWD_DROPS (R403) -/
def FWD_DROPS : Nat := 0x700014
/-- FAB_STRAYS (R403) -/
def FAB_STRAYS : Nat := 0x700018
/-- TRANSIT_FLITS (R403), 64 bits -/
def TRANSIT_FLITS : Nat := 0x700020
/-- PORT_STATUS (R406) -/
def PORT_STATUS (a : Nat) : Nat := 0x700100 + a * 0x80
/-- PORT_CONTROL (R406) -/
def PORT_CONTROL (a : Nat) : Nat := 0x700104 + a * 0x80
/-- PORT_CAUSE (R408) -/
def PORT_CAUSE (a : Nat) : Nat := 0x700108 + a * 0x80
/-- PORT_MASK (R408) -/
def PORT_MASK (a : Nat) : Nat := 0x70010C + a * 0x80
/-- LANE_MAP (R406) -/
def LANE_MAP (a : Nat) : Nat := 0x700110 + a * 0x80
/-- PEER (R406) -/
def PEER (a : Nat) : Nat := 0x700114 + a * 0x80
/-- RETRIES (R405) -/
def RETRIES (a : Nat) : Nat := 0x700118 + a * 0x80
/-- CRC_ERRORS (R405) -/
def CRC_ERRORS (a : Nat) : Nat := 0x70011C + a * 0x80
/-- FLITS_TX (R405), 64 bits -/
def FLITS_TX (a : Nat) : Nat := 0x700120 + a * 0x80
/-- FLITS_RX (R405), 64 bits -/
def FLITS_RX (a : Nat) : Nat := 0x700128 + a * 0x80
/-- PAYLOAD_TX (R405), 64 bits -/
def PAYLOAD_TX (a : Nat) : Nat := 0x700130 + a * 0x80
/-- PAYLOAD_RX (R405), 64 bits -/
def PAYLOAD_RX (a : Nat) : Nat := 0x700138 + a * 0x80
/-- FEC_CORRECTED (R405), 64 bits -/
def FEC_CORRECTED (a : Nat) : Nat := 0x700140 + a * 0x80
/-- FEC_UNCORR (R405) -/
def FEC_UNCORR (a : Nat) : Nat := 0x700148 + a * 0x80
/-- RETRAINS (R405) -/
def RETRAINS (a : Nat) : Nat := 0x70014C + a * 0x80
/-- FWD_TABLE (R407) -/
def FWD_TABLE (a : Nat) : Nat := 0x708000 + a * 4
/-- RANGER_STATUS (R439) -/
def RANGER_STATUS : Nat := rangerBase + 0
/-- BANK_A_STATUS (R439) -/
def BANK_A_STATUS : Nat := rangerBase + 4
/-- BANK_B_STATUS (R439) -/
def BANK_B_STATUS : Nat := rangerBase + 8
/-- MAINT_HOLDERS (R440) -/
def MAINT_HOLDERS : Nat := rangerBase + 0xC
/-- MGMT_CAUSE (R441) -/
def MGMT_CAUSE : Nat := rangerBase + 0x10
/-- MGMT_MASK (R441) -/
def MGMT_MASK : Nat := rangerBase + 0x14
/-- RANGER_RESTARTS (R438) -/
def RANGER_RESTARTS : Nat := rangerBase + 0x18
/-- AUTH_FAILURES (R438) -/
def AUTH_FAILURES : Nat := rangerBase + 0x1C
/-- KEY_LOADED (R438) -/
def KEY_LOADED (a : Nat) : Nat := rangerBase + 0x20 + a * 4
/-- PITCH_KEYS (R438) -/
def PITCH_KEYS : Nat := rangerBase + 0x40
/-- FW_KEYS (R438) -/
def FW_KEYS : Nat := rangerBase + 0x44
/-- KEY_OWNER (R427) -/
def KEY_OWNER (a : Nat) : Nat := rangerBase + 0x100 + a * 4
/-- KEY_KCV (R427) -/
def KEY_KCV (a : Nat) : Nat := rangerBase + 0x500 + a * 4
/-- TRAY_STATUS (R458) -/
def TRAY_STATUS : Nat := 0x880000
/-- TRAY_CONTROL (R458) -/
def TRAY_CONTROL : Nat := 0x880004
/-- TRAY_CONFIG (R458) -/
def TRAY_CONFIG : Nat := 0x880008
/-- TRAY_CAUSE (R459) -/
def TRAY_CAUSE : Nat := 0x88000C
/-- TRAY_MASK (R459) -/
def TRAY_MASK : Nat := 0x880010
/-- TRAY_MEMBERS (R458) -/
def TRAY_MEMBERS : Nat := 0x880014
/-- TRAY_POWER (R458) -/
def TRAY_POWER : Nat := 0x880018
/-- TRAY_ERRORS (R458) -/
def TRAY_ERRORS : Nat := 0x88001C
/-- FRAMES_TX (R457) -/
def FRAMES_TX : Nat := 0x880020
/-- FRAMES_RX (R457) -/
def FRAMES_RX : Nat := 0x880024
/-- FRAMES_IGNORED (R457) -/
def FRAMES_IGNORED : Nat := 0x880028
/-- ROUNDS (R457) -/
def ROUNDS : Nat := 0x88002C
/-- ROUND_ABORTS (R457) -/
def ROUND_ABORTS : Nat := 0x880030
/-- SUMMARY (R471) -/
def SUMMARY : Nat := 0x1000
/-- ALERT_MASK (R471) -/
def ALERT_MASK : Nat := 0x1004
/-- FAULT_STATUS (R472) -/
def FAULT_STATUS : Nat := 0x1010
/-- FAULT_CODE (R465) -/
def FAULT_CODE : Nat := 0x1014
/-- FAULT_TIME (R470), 64 bits -/
def FAULT_TIME : Nat := 0x1018
/-- FAULT_COUNT (R470) -/
def FAULT_COUNT : Nat := 0x1020
/-- FAULT_CONTROL (R472) -/
def FAULT_CONTROL : Nat := 0x1024
/-- RECOVERY_REPORT (R472) -/
def RECOVERY_REPORT : Nat := 0x1028
/-- GROUP_VECTOR (R470) -/
def GROUP_VECTOR (f j : Nat) : Nat := irqBlock f + 0x40 + j * 4
/-- TILE_PENDING (R470) -/
def TILE_PENDING (a b : Nat) : Nat := 0x1100 + a * 0x20 + b * 4
/-- UNIT_PENDING (R470) -/
def UNIT_PENDING : Nat := 0x1180
/-- CTX_PENDING (R470) -/
def CTX_PENDING (a : Nat) : Nat := 0x11C0 + a * 4
/-- FN_PENDING (R470) -/
def FN_PENDING : Nat := 0x11C8
/-- CHANNEL_PENDING (R470) -/
def CHANNEL_PENDING (a : Nat) : Nat := 0x1200 + a * 4
/-- POWER_STATE (R500) -/
def POWER_STATE : Nat := 0x800000
/-- POWER_CAUSE (R503) -/
def POWER_CAUSE : Nat := 0x800004
/-- POWER_MASK (R503) -/
def POWER_MASK : Nat := 0x800008
/-- POWER_CONTROL (R500) -/
def POWER_CONTROL : Nat := 0x80000C
/-- CLOCK_STATUS (R501) -/
def CLOCK_STATUS : Nat := 0x800010
/-- POWER_LIMIT (R501) -/
def POWER_LIMIT : Nat := 0x800014
/-- PKG_POWER (R501) -/
def PKG_POWER : Nat := 0x800018
/-- DIE_TEMP (R501) -/
def DIE_TEMP : Nat := 0x80001C
/-- BASECAMP_REASON (R502) -/
def BASECAMP_REASON : Nat := 0x800020
/-- RESET_CAUSE (R502) -/
def RESET_CAUSE : Nat := 0x800024
/-- FAILED_STARTS (R499) -/
def FAILED_STARTS : Nat := 0x800028
/-- DIP_COUNT (R499) -/
def DIP_COUNT : Nat := 0x80002C
/-- DIP_WEAR (R499) -/
def DIP_WEAR : Nat := 0x800030
/-- CDC_TIMEOUTS (R499) -/
def CDC_TIMEOUTS : Nat := 0x800034
/-- CDC_LAST (R499) -/
def CDC_LAST : Nat := 0x800038
/-- DOZE_EXITS (R499) -/
def DOZE_EXITS : Nat := 0x80003C
/-- TIME_BASE (R474), 64 bits -/
def TIME_BASE : Nat := 0x800040
/-- CYCLE_COUNT (R474), 64 bits -/
def CYCLE_COUNT : Nat := 0x800048
/-- EARLY_MS (R499) -/
def EARLY_MS : Nat := 0x800050
/-- FULL_MS (R499) -/
def FULL_MS : Nat := 0x800054
/-- HUB_TEMP (R501) -/
def HUB_TEMP : Nat := 0x800058
/-- DIP_LOG (R499), 64 bits -/
def DIP_LOG (a : Nat) : Nat := 0x800100 + a * 0x10
/-- DEVICE_ID (R505) -/
def DEVICE_ID : Nat := 0
/-- REVISION (R505) -/
def REVISION : Nat := 4
/-- SERIAL (R505) -/
def SERIAL (a : Nat) : Nat := 0x10 + a * 4
/-- VER_HOST_QUEUE (R506) -/
def VER_HOST_QUEUE : Nat := 0x20
/-- VER_JAREX_LINK (R506) -/
def VER_JAREX_LINK : Nat := 0x24
/-- VER_PITCH_FORMAT (R506) -/
def VER_PITCH_FORMAT : Nat := 0x28
/-- VER_DELTA_STREAM (R506) -/
def VER_DELTA_STREAM : Nat := 0x2C
/-- VER_STATE_IMAGE (R506) -/
def VER_STATE_IMAGE : Nat := 0x30
/-- VER_MGMT (R506) -/
def VER_MGMT : Nat := 0x34
/-- VER_ADAPTER_IMAGE (R506) -/
def VER_ADAPTER_IMAGE : Nat := 0x38
/-- VER_CALLER_FORMAT (R506) -/
def VER_CALLER_FORMAT : Nat := 0x3C
/-- CONTRACT (R505) -/
def CONTRACT : Nat := 0x40
/-- FW_VERSION (R505) -/
def FW_VERSION : Nat := 0x44
/-- MSIX_TABLE (R364) -/
def MSIX_TABLE (f v : Nat) : Nat := msixBlock f + v * 16
/-- MSIX_PBA (R364) -/
def MSIX_PBA (a : Nat) : Nat := 0xF0000 + a * 4

end Sys2Proof.Machine.Reg

namespace Sys2Proof.Machine

/-- One register of the map: where its copies lie (`cnt1` at stride `str1`, each with `cnt2` at stride `str2`), its
width in bits, its reset value, and the bits of each access code (R5): RW, W1C, W1S, WO and RWL. Bits of no mask
are RO or Reserved. -/
structure RegRow where
  base : Nat
  cnt1 : Nat
  str1 : Nat
  cnt2 : Nat
  str2 : Nat
  width : Nat
  reset : Nat
  rw : Nat
  w1c : Nat
  w1s : Nat
  wo : Nat
  rwl : Nat
  deriving DecidableEq, Repr

/-- Rows of the block `tile`. -/
def rows_tile : List RegRow := [
  ⟨0x1000000, 0x240, 0x10000, 1, 0, 0x20, 0xC0000000, 0, 0, 0, 0, 0⟩,
  ⟨0x1000004, 0x240, 0x10000, 1, 0, 0x20, 0, 0, 0, 0, 0, 0⟩,
  ⟨0x1000008, 0x240, 0x10000, 1, 0, 0x20, 0, 0, 0, 0, 0, 0⟩,
  ⟨0x100000C, 0x240, 0x10000, 1, 0, 0x20, 4, 0, 0, 0, 0, 0⟩,
  ⟨0x1000040, 0x240, 0x10000, 6, 8, 0x40, 0, 0, 0, 0, 0, 0⟩,
  ⟨0x1000070, 0x240, 0x10000, 6, 8, 0x40, 0, 0, 0, 0, 0, 0⟩,
  ⟨0x10000A0, 0x240, 0x10000, 1, 0, 0x20, 0, 0, 7, 0, 0, 0⟩,
  ⟨0x10000A4, 0x240, 0x10000, 1, 0, 0x20, 7, 7, 0, 0, 0, 0⟩,
  ⟨0x10000A8, 0x240, 0x10000, 1, 0, 0x20, 0, 0, 0, 0, 0, 0⟩,
  ⟨0x1000100, 0x240, 0x10000, 1, 0, 0x20, 0, 0, 0, 0, 0, 0⟩,
  ⟨0x1000104, 0x240, 0x10000, 1, 0, 0x20, 0, 0, 0xF, 0, 0, 0⟩,
  ⟨0x1000108, 0x240, 0x10000, 1, 0, 0x20, 0xF, 0xF, 0, 0, 0, 0⟩,
  ⟨0x100010C, 0x240, 0x10000, 1, 0, 0x20, 0, 0xFFFFFFFF, 0, 0, 0, 0⟩,
  ⟨0x1000110, 0x240, 0x10000, 1, 0, 0x20, 0, 0, 0, 0, 0, 0⟩,
  ⟨0x1000114, 0x240, 0x10000, 1, 0, 0x20, 0, 0, 0, 0, 0, 0⟩,
  ⟨0x1000118, 0x240, 0x10000, 1, 0, 0x20, 0, 0, 0, 0, 0, 0⟩,
  ⟨0x100011C, 0x240, 0x10000, 1, 0, 0x20, 0, 0, 0, 0, 0, 0⟩,
  ⟨0x1000120, 0x240, 0x10000, 1, 0, 0x40, 0, 0, 0, 0, 0, 0⟩,
  ⟨0x1000128, 0x240, 0x10000, 1, 0, 0x40, 0, 0, 0, 0, 0, 0⟩,
  ⟨0x1000130, 0x240, 0x10000, 1, 0, 0x40, 0, 0, 0, 0, 0, 0⟩,
  ⟨0x1000138, 0x240, 0x10000, 1, 0, 0x20, 0, 0, 0, 0, 0, 0⟩,
  ⟨0x1000140, 0x240, 0x10000, 4, 0x10, 0x20, 0, 0, 0, 0, 0, 0⟩,
  ⟨0x1000144, 0x240, 0x10000, 4, 0x10, 0x20, 0, 0, 0, 0, 0, 0⟩,
  ⟨0x1000148, 0x240, 0x10000, 4, 0x10, 0x20, 0, 0, 0, 0, 0, 0⟩,
  ⟨0x100014C, 0x240, 0x10000, 4, 0x10, 0x20, 0, 0, 0, 0, 0, 0⟩,
  ⟨0x1000200, 0x240, 0x10000, 4, 0x40, 0x40, 0, 0, 0, 0, 0, 0⟩,
  ⟨0x1000208, 0x240, 0x10000, 4, 0x40, 0x40, 0, 0, 0, 0, 0, 0⟩,
  ⟨0x1000210, 0x240, 0x10000, 4, 0x40, 0x40, 0, 0, 0, 0, 0, 0⟩,
  ⟨0x1000218, 0x240, 0x10000, 4, 0x40, 0x40, 0, 0, 0, 0, 0, 0⟩,
  ⟨0x1000220, 0x240, 0x10000, 4, 0x40, 0x20, 0, 0, 0, 0, 0, 0⟩,
  ⟨0x1000224, 0x240, 0x10000, 4, 0x40, 0x20, 0, 0, 0, 0, 0, 0⟩,
  ⟨0x1000228, 0x240, 0x10000, 4, 0x40, 0x20, 0, 0, 0, 0, 0, 0⟩,
  ⟨0x100022C, 0x240, 0x10000, 4, 0x40, 0x20, 7, 0, 0, 0, 0, 0⟩,
  ⟨0x1000230, 0x240, 0x10000, 4, 0x40, 0x20, 0, 0, 0x7F, 0, 0, 0⟩,
  ⟨0x1000234, 0x240, 0x10000, 4, 0x40, 0x20, 0x7F, 0x7F, 0, 0, 0, 0⟩,
  ⟨0x1000238, 0x240, 0x10000, 4, 0x40, 0x20, 0, 0xFFFFFFFF, 0, 0, 0, 0⟩,
  ⟨0x100023C, 0x240, 0x10000, 4, 0x40, 0x20, 0, 0, 0, 0, 0, 0⟩]
/-- Rows of the block `b20`. -/
def rows_b20 : List RegRow := [
  ⟨0x200000, 1, 0, 1, 0, 0x20, 0, 0, 0, 0, 0, 0⟩,
  ⟨0x200004, 1, 0, 1, 0, 0x20, 0, 0, 0x7FF, 0, 0, 0⟩,
  ⟨0x200008, 1, 0, 1, 0, 0x20, 0x7FF, 0x7FF, 0, 0, 0, 0⟩,
  ⟨0x20000C, 1, 0, 1, 0, 0x20, 0x1640228, 0xFFFFFFFF, 0, 0, 0, 0⟩,
  ⟨0x200010, 1, 0, 1, 0, 0x40, 0, 0xFFFFFFFFE00000, 0, 0, 0, 0⟩,
  ⟨0x200018, 1, 0, 1, 0, 0x20, 0, 0, 0, 0, 0, 0⟩,
  ⟨0x20001C, 1, 0, 1, 0, 0x20, 0x18, 0, 0, 0, 0, 0⟩,
  ⟨0x200020, 8, 4, 1, 0, 0x20, 0, 0, 0, 0, 0, 0⟩,
  ⟨0x200040, 8, 4, 1, 0, 0x20, 0, 0, 0, 0, 0, 0⟩,
  ⟨0x200060, 8, 4, 1, 0, 0x20, 0, 0, 0, 0, 0, 0⟩,
  ⟨0x200080, 8, 4, 1, 0, 0x20, 0, 0, 0, 0, 0, 0⟩,
  ⟨0x2000A0, 8, 4, 1, 0, 0x20, 0, 0, 0, 0, 0, 0⟩,
  ⟨0x2000C0, 1, 0, 1, 0, 0x20, 0, 0, 0, 0, 0, 0⟩,
  ⟨0x2000C4, 1, 0, 1, 0, 0x20, 0, 0, 0, 0, 0, 0⟩,
  ⟨0x2000C8, 1, 0, 1, 0, 0x40, 0, 0, 0, 0, 0, 0⟩,
  ⟨0x2000D0, 1, 0, 1, 0, 0x20, 0, 0, 0, 0, 0, 0⟩,
  ⟨0x2000D4, 1, 0, 1, 0, 0x20, 0, 0, 0, 0, 0, 0⟩]
/-- Rows of the block `b30`. -/
def rows_b30 : List RegRow := [
  ⟨0x300000, 8, 0x100, 1, 0, 0x20, 0, 0, 0, 0, 0, 0⟩,
  ⟨0x300004, 8, 0x100, 1, 0, 0x20, 0, 0, 0x3FF, 0, 0, 0⟩,
  ⟨0x300008, 8, 0x100, 1, 0, 0x20, 0x3FF, 0x3FF, 0, 0, 0, 0⟩,
  ⟨0x300010, 8, 0x100, 1, 0, 0x40, 0, 0, 0, 0, 0, 0⟩,
  ⟨0x300018, 8, 0x100, 1, 0, 0x40, 0, 0, 0, 0, 0, 0⟩,
  ⟨0x300020, 8, 0x100, 1, 0, 0x40, 0, 0, 0, 0, 0, 0⟩,
  ⟨0x300028, 8, 0x100, 1, 0, 0x40, 0, 0, 0, 0, 0, 0⟩,
  ⟨0x300030, 8, 0x100, 1, 0, 0x40, 0, 0, 0, 0, 0, 0⟩,
  ⟨0x300038, 8, 0x100, 1, 0, 0x20, 0, 0, 0, 0, 0, 0⟩,
  ⟨0x30003C, 8, 0x100, 1, 0, 0x20, 0, 0, 0, 0, 0, 0⟩,
  ⟨0x300040, 8, 0x100, 1, 0, 0x20, 0, 0, 0, 0, 0, 0⟩,
  ⟨0x300044, 8, 0x100, 1, 0, 0x20, 0, 0, 0, 0, 0, 0⟩,
  ⟨0x300048, 8, 0x100, 1, 0, 0x20, 0, 0, 0, 0, 0, 0⟩,
  ⟨0x300800, 1, 0, 1, 0, 0x20, 0, 0, 0, 0, 0, 0⟩]
/-- Rows of the block `b40`. -/
def rows_b40 : List RegRow := [
  ⟨0x400000, 8, 0x100, 1, 0, 0x20, 0, 0, 0, 0, 0, 0⟩,
  ⟨0x400004, 8, 0x100, 1, 0, 0x20, 0, 0, 0xF, 0, 0, 0⟩,
  ⟨0x400008, 8, 0x100, 1, 0, 0x20, 0xF, 0xF, 0, 0, 0, 0⟩,
  ⟨0x400010, 8, 0x100, 1, 0, 0x40, 0, 0, 0, 0, 0, 0⟩,
  ⟨0x400018, 8, 0x100, 1, 0, 0x40, 0, 0, 0, 0, 0, 0⟩,
  ⟨0x400020, 8, 0x100, 1, 0, 0x40, 0, 0, 0, 0, 0, 0⟩,
  ⟨0x400028, 8, 0x100, 1, 0, 0x40, 0, 0, 0, 0, 0, 0⟩,
  ⟨0x400030, 8, 0x100, 1, 0, 0x20, 0, 0, 0, 0, 0, 0⟩,
  ⟨0x400034, 8, 0x100, 1, 0, 0x20, 0, 0, 0, 0, 0, 0⟩,
  ⟨0x400038, 8, 0x100, 1, 0, 0x20, 0, 0, 0, 0, 0, 0⟩,
  ⟨0x400800, 1, 0, 1, 0, 0x20, 0, 0, 0, 0, 0, 0⟩,
  ⟨0x400804, 1, 0, 1, 0, 0x20, 0, 0, 1, 0, 0, 0⟩,
  ⟨0x400808, 1, 0, 1, 0, 0x20, 1, 1, 0, 0, 0, 0⟩,
  ⟨0x401000, 0x40, 0x40, 1, 0, 0x20, 0, 0, 0, 0, 0, 0⟩,
  ⟨0x401004, 0x40, 0x40, 1, 0, 0x20, 0, 0, 0, 0, 0, 0⟩,
  ⟨0x401008, 0x40, 0x40, 1, 0, 0x20, 0, 0, 0, 0, 0, 0⟩,
  ⟨0x40100C, 0x40, 0x40, 1, 0, 0x20, 0, 0, 0, 0, 0, 0⟩,
  ⟨0x401010, 0x40, 0x40, 1, 0, 0x40, 0, 0, 0, 0, 0, 0⟩,
  ⟨0x401018, 0x40, 0x40, 1, 0, 0x40, 0, 0, 0, 0, 0, 0⟩,
  ⟨0x401020, 0x40, 0x40, 1, 0, 0x40, 0, 0, 0, 0, 0, 0⟩,
  ⟨0x401028, 0x40, 0x40, 1, 0, 0x20, 0, 0, 0, 0, 0, 0⟩,
  ⟨0x40102C, 0x40, 0x40, 1, 0, 0x20, 0, 0, 0, 0, 0, 0⟩,
  ⟨0x401030, 0x40, 0x40, 1, 0, 0x20, 0, 0, 0x3F, 0, 0, 0⟩,
  ⟨0x401034, 0x40, 0x40, 1, 0, 0x20, 0x3F, 0x3F, 0, 0, 0, 0⟩]
/-- Rows of the block `bC`. -/
def rows_bC : List RegRow := [
  ⟨0xC0000, 1, 0, 1, 0, 0x20, 0, 0, 0, 0, 0, 0⟩,
  ⟨0xC0004, 1, 0, 1, 0, 0x20, 0, 0, 0, 0, 0, 0⟩,
  ⟨0xC1000, 0x40, 0x80, 1, 0, 0x20, 0, 0, 0, 0, 0, 0⟩,
  ⟨0xC1004, 0x40, 0x80, 1, 0, 0x20, 0, 0, 0x1F, 0, 0, 0⟩,
  ⟨0xC1008, 0x40, 0x80, 1, 0, 0x20, 0x1F, 0x1F, 0, 0, 0, 0⟩,
  ⟨0xC100C, 0x40, 0x80, 1, 0, 0x20, 0, 0, 0, 0, 0, 0⟩,
  ⟨0xC1010, 0x40, 0x80, 1, 0, 0x40, 0, 0, 0, 0, 0, 0⟩,
  ⟨0xC1018, 0x40, 0x80, 1, 0, 0x40, 0, 0, 0, 0, 0, 0⟩,
  ⟨0xC1020, 0x40, 0x80, 1, 0, 0x40, 0, 0, 0, 0, 0, 0⟩,
  ⟨0xC1028, 0x40, 0x80, 1, 0, 0x40, 0, 0, 0, 0, 0, 0⟩,
  ⟨0xC1030, 0x40, 0x80, 1, 0, 0x40, 0, 0, 0, 0, 0, 0⟩,
  ⟨0xC1038, 0x40, 0x80, 1, 0, 0x20, 0, 0, 0, 0, 0, 0⟩,
  ⟨0xC103C, 0x40, 0x80, 1, 0, 0x20, 0, 0, 0, 0, 0, 0⟩,
  ⟨0xC1040, 0x40, 0x80, 1, 0, 0x20, 0, 0, 0, 0, 0, 0⟩,
  ⟨0xC1044, 0x40, 0x80, 1, 0, 0x20, 0, 0, 0, 0, 0, 0⟩]
/-- Rows of the block `b50`. -/
def rows_b50 : List RegRow := [
  ⟨0x500000, 1, 0, 1, 0, 0x20, 0, 0, 0, 0, 0, 0⟩,
  ⟨0x500004, 1, 0, 1, 0, 0x20, 0, 0, 0x3F, 0, 0, 0⟩,
  ⟨0x500008, 1, 0, 1, 0, 0x20, 0x3F, 0x3F, 0, 0, 0, 0⟩,
  ⟨0x50000C, 1, 0, 1, 0, 0x20, 0, 0, 0, 0, 0, 0⟩,
  ⟨0x500010, 1, 0, 1, 0, 0x40, 0, 0, 0, 0, 0, 0⟩,
  ⟨0x500018, 1, 0, 1, 0, 0x40, 0, 0, 0, 0, 0, 0⟩,
  ⟨0x500020, 1, 0, 1, 0, 0x40, 0, 0, 0, 0, 0, 0⟩,
  ⟨0x500028, 1, 0, 1, 0, 0x40, 0, 0, 0, 0, 0, 0⟩,
  ⟨0x500030, 1, 0, 1, 0, 0x20, 0, 0, 0, 0, 0, 0⟩,
  ⟨0x500034, 1, 0, 1, 0, 0x20, 0, 0, 0, 0, 0, 0⟩,
  ⟨0x500038, 1, 0, 1, 0, 0x20, 0, 0, 0, 0, 0, 0⟩,
  ⟨0x50003C, 1, 0, 1, 0, 0x20, 0, 0, 0, 0, 0, 0⟩,
  ⟨0x500040, 1, 0, 1, 0, 0x20, 0, 0, 0, 0, 0, 0⟩,
  ⟨0x500044, 1, 0, 1, 0, 0x20, 0, 0, 0, 0, 0, 0⟩,
  ⟨0x500060, 0xB, 4, 1, 0, 0x20, 0, 0, 0, 0, 0, 0⟩,
  ⟨0x500100, 0x34, 4, 1, 0, 0x20, 0xC0000000, 0, 0, 0, 0, 0⟩,
  ⟨0x500200, 0x34, 0x20, 1, 0, 0x20, 0, 0, 0, 0, 0, 0⟩,
  ⟨0x500208, 0x34, 0x20, 1, 0, 0x40, 0, 0, 0, 0, 0, 0⟩,
  ⟨0x500210, 0x34, 0x20, 1, 0, 0x40, 0, 0, 0, 0, 0, 0⟩,
  ⟨0x500218, 0x34, 0x20, 1, 0, 0x20, 0, 0, 0, 0, 0, 0⟩,
  ⟨0x501000, 0x1000, 0x20, 1, 0, 0x20, 0x1FFF, 0, 0, 0, 0, 0⟩,
  ⟨0x501004, 0x1000, 0x20, 1, 0, 0x20, 0, 0, 0xF, 0, 0, 0⟩,
  ⟨0x501008, 0x1000, 0x20, 1, 0, 0x20, 0xF, 0xF, 0, 0, 0, 0⟩,
  ⟨0x50100C, 0x1000, 0x20, 1, 0, 0x20, 0, 0, 0, 0, 0, 0⟩,
  ⟨0x501010, 0x1000, 0x20, 1, 0, 0x40, 0, 0, 0, 0, 0, 0⟩,
  ⟨0x501018, 0x1000, 0x20, 1, 0, 0x40, 0, 0, 0, 0, 0, 0⟩]
/-- Rows of the block `b60`. -/
def rows_b60 : List RegRow := [
  ⟨0x600000, 1, 0, 1, 0, 0x20, 0, 0, 0, 0, 0, 0⟩,
  ⟨0x600004, 1, 0, 1, 0, 0x20, 0, 0, 7, 0, 0, 0⟩,
  ⟨0x600008, 1, 0, 1, 0, 0x20, 7, 7, 0, 0, 0, 0⟩,
  ⟨0x60000C, 1, 0, 1, 0, 0x20, 0x2980, 0, 0, 0, 0, 0⟩,
  ⟨0x600010, 1, 0, 1, 0, 0x20, 0, 0, 0, 0, 0, 0⟩,
  ⟨0x600014, 1, 0, 1, 0, 0x20, 0, 0, 0, 0, 0, 0⟩,
  ⟨0x600018, 1, 0, 1, 0, 0x40, 0, 0, 0, 0, 0, 0⟩,
  ⟨0x600020, 1, 0, 1, 0, 0x40, 0, 0, 0, 0, 0, 0⟩,
  ⟨0x601000, 0x40, 0x40, 1, 0, 0x20, 0, 0, 0, 0, 0, 0⟩,
  ⟨0x601004, 0x40, 0x40, 1, 0, 0x20, 0, 0, 7, 0, 0, 0⟩,
  ⟨0x601008, 0x40, 0x40, 1, 0, 0x20, 7, 7, 0, 0, 0, 0⟩,
  ⟨0x601010, 0x40, 0x40, 1, 0, 0x40, 0, 0, 0, 0, 0, 0⟩,
  ⟨0x601018, 0x40, 0x40, 1, 0, 0x40, 0, 0, 0, 0, 0, 0⟩]
/-- Rows of the block `fn`. -/
def rows_fn : List RegRow := [
  ⟨0, 1, 0, 1, 0, 0x20, 0, 0, 0, 0, 0, 0⟩,
  ⟨4, 1, 0, 1, 0, 0x20, 0x1020000, 0xFF00, 0, 0, 0, 0⟩,
  ⟨8, 1, 0, 1, 0, 0x20, 0, 0, 0x80000000, 0, 0, 0⟩,
  ⟨0xC, 1, 0, 1, 0, 0x20, 0, 0, 0, 0, 0, 0⟩,
  ⟨0x10, 1, 0, 1, 0, 0x20, 0, 0, 0, 0, 0, 0⟩,
  ⟨0x14, 1, 0, 1, 0, 0x20, 0, 0, 0xF, 0, 0, 0⟩,
  ⟨0x18, 1, 0, 1, 0, 0x20, 0xF, 0xF, 0, 0, 0, 0⟩]
/-- Rows of the block `b1`. -/
def rows_b1 : List RegRow := [
  ⟨0x10100, 1, 0, 1, 0, 0x20, 0xFFFFFFFF, 0, 0, 0, 0, 0⟩,
  ⟨0x10104, 1, 0, 1, 0, 0x20, 0xFFFFFFFF, 0, 0, 0, 0, 0⟩,
  ⟨0x10108, 1, 0, 1, 0, 0x20, 0xFFFF, 0, 0, 0, 0, 0⟩,
  ⟨0x1010C, 1, 0, 1, 0, 0x20, 0x3B3B3B3B, 0, 0, 0, 0, 0⟩,
  ⟨0x10110, 1, 0, 1, 0, 0x20, 0x3B3B3B3B, 0, 0, 0, 0, 0⟩,
  ⟨0x10114, 1, 0, 1, 0, 0x20, 0x8010000, 0, 0, 0, 0, 0⟩,
  ⟨0x11040, 0x1F, 0x40, 1, 0, 0x20, 0, 0, 0, 0, 0, 0⟩,
  ⟨0x11044, 0x1F, 0x40, 1, 0, 0x20, 0, 0, 0, 0, 0, 0⟩,
  ⟨0x11048, 0x1F, 0x40, 1, 0, 0x20, 0, 0, 0, 0, 0, 0⟩,
  ⟨0x1104C, 0x1F, 0x40, 1, 0, 0x20, 0, 0, 0, 0, 0, 0⟩,
  ⟨0x11050, 0x1F, 0x40, 1, 0, 0x20, 0, 0, 0, 0, 0, 0⟩,
  ⟨0x11054, 0x1F, 0x40, 1, 0, 0x20, 0, 0, 0, 0, 0, 0⟩,
  ⟨0x11058, 0x1F, 0x40, 1, 0, 0x20, 0, 0, 0, 0, 0, 0⟩,
  ⟨0x1105C, 0x1F, 0x40, 1, 0, 0x20, 0, 0, 0, 0, 0, 0⟩]
/-- Rows of the block `qp`. -/
def rows_qp : List RegRow := [
  ⟨0, 1, 0, 1, 0, 0x40, 0, 0xFFFFFFFFFFFFF000, 0, 0, 0, 0⟩,
  ⟨8, 1, 0, 1, 0, 0x40, 0, 0xFFFFFFFFFFFFF000, 0, 0, 0, 0⟩,
  ⟨0x10, 1, 0, 1, 0, 0x20, 0x606, 0xC0FFFFFF, 0, 0, 0, 0⟩,
  ⟨0x14, 1, 0, 1, 0, 0x20, 0, 0, 0, 0, 0, 0⟩,
  ⟨0x18, 1, 0, 1, 0, 0x20, 0, 0, 0, 0, 0xFFFF, 0⟩,
  ⟨0x1C, 1, 0, 1, 0, 0x20, 0, 0, 0, 0, 0xFFFF, 0⟩]
/-- Rows of the block `b70`. -/
def rows_b70 : List RegRow := [
  ⟨0x700000, 1, 0, 1, 0, 0x20, 0, 0, 0, 0, 0, 0⟩,
  ⟨0x700004, 1, 0, 1, 0, 0x20, 0, 0, 0xF, 0, 0, 0⟩,
  ⟨0x700008, 1, 0, 1, 0, 0x20, 0xF, 0xF, 0, 0, 0, 0⟩,
  ⟨0x70000C, 1, 0, 1, 0, 0x20, 0, 0xFFFF, 0, 0, 0, 0⟩,
  ⟨0x700010, 1, 0, 1, 0, 0x20, 0x1030F0F, 0, 0, 0, 0, 0xFF⟩,
  ⟨0x700014, 1, 0, 1, 0, 0x20, 0, 0, 0, 0, 0, 0⟩,
  ⟨0x700018, 1, 0, 1, 0, 0x20, 0, 0, 0, 0, 0, 0⟩,
  ⟨0x700020, 1, 0, 1, 0, 0x40, 0, 0, 0, 0, 0, 0⟩,
  ⟨0x700100, 8, 0x80, 1, 0, 0x20, 0, 0, 0, 0, 0, 0⟩,
  ⟨0x700104, 8, 0x80, 1, 0, 0x20, 0x80000000, 0xC0000000, 0, 0, 0, 0⟩,
  ⟨0x700108, 8, 0x80, 1, 0, 0x20, 0, 0, 0x3F, 0, 0, 0⟩,
  ⟨0x70010C, 8, 0x80, 1, 0, 0x20, 0x3F, 0x3F, 0, 0, 0, 0⟩,
  ⟨0x700110, 8, 0x80, 1, 0, 0x20, 0x8000, 0, 0, 0, 0, 0⟩,
  ⟨0x700114, 8, 0x80, 1, 0, 0x20, 0, 0, 0, 0, 0, 0⟩,
  ⟨0x700118, 8, 0x80, 1, 0, 0x20, 0, 0, 0, 0, 0, 0⟩,
  ⟨0x70011C, 8, 0x80, 1, 0, 0x20, 0, 0, 0, 0, 0, 0⟩,
  ⟨0x700120, 8, 0x80, 1, 0, 0x40, 0, 0, 0, 0, 0, 0⟩,
  ⟨0x700128, 8, 0x80, 1, 0, 0x40, 0, 0, 0, 0, 0, 0⟩,
  ⟨0x700130, 8, 0x80, 1, 0, 0x40, 0, 0, 0, 0, 0, 0⟩,
  ⟨0x700138, 8, 0x80, 1, 0, 0x40, 0, 0, 0, 0, 0, 0⟩,
  ⟨0x700140, 8, 0x80, 1, 0, 0x40, 0, 0, 0, 0, 0, 0⟩,
  ⟨0x700148, 8, 0x80, 1, 0, 0x20, 0, 0, 0, 0, 0, 0⟩,
  ⟨0x70014C, 8, 0x80, 1, 0, 0x20, 0, 0, 0, 0, 0, 0⟩,
  ⟨0x708000, 0x2000, 4, 1, 0, 0x20, 0xFFFFFFFF, 0xFFFFFFFF, 0, 0, 0, 0⟩]
/-- Rows of the block `rs`. -/
def rows_rs : List RegRow := [
  ⟨0, 1, 0, 1, 0, 0x20, 0, 0, 0, 0, 0, 0⟩,
  ⟨4, 1, 0, 1, 0, 0x20, 0, 0, 0, 0, 0, 0⟩,
  ⟨8, 1, 0, 1, 0, 0x20, 0, 0, 0, 0, 0, 0⟩,
  ⟨0xC, 1, 0, 1, 0, 0x20, 0, 0, 0, 0, 0, 0⟩,
  ⟨0x10, 1, 0, 1, 0, 0x20, 0, 0, 0xFF, 0, 0, 0⟩,
  ⟨0x14, 1, 0, 1, 0, 0x20, 0xFF, 0xFF, 0, 0, 0, 0⟩,
  ⟨0x18, 1, 0, 1, 0, 0x20, 0, 0, 0, 0, 0, 0⟩,
  ⟨0x1C, 1, 0, 1, 0, 0x20, 0, 0, 0, 0, 0, 0⟩,
  ⟨0x20, 8, 4, 1, 0, 0x20, 0, 0, 0, 0, 0, 0⟩,
  ⟨0x40, 1, 0, 1, 0, 0x20, 0, 0, 0, 0, 0, 0⟩,
  ⟨0x44, 1, 0, 1, 0, 0x20, 0, 0, 0, 0, 0, 0⟩,
  ⟨0x100, 0x100, 4, 1, 0, 0x20, 0, 0, 0, 0, 0, 0⟩,
  ⟨0x500, 0x100, 4, 1, 0, 0x20, 0, 0, 0, 0, 0, 0⟩]
/-- Rows of the block `b88`. -/
def rows_b88 : List RegRow := [
  ⟨0x880000, 1, 0, 1, 0, 0x20, 0, 0, 0, 0, 0, 0⟩,
  ⟨0x880004, 1, 0, 1, 0, 0x20, 0, 0x20000000, 0, 0xC0000000, 0, 0⟩,
  ⟨0x880008, 1, 0, 1, 0, 0x20, 0xFFFB403, 0xFF02, 0, 0, 0, 0xFFF0001⟩,
  ⟨0x88000C, 1, 0, 1, 0, 0x20, 0, 0, 0x7F, 0, 0, 0⟩,
  ⟨0x880010, 1, 0, 1, 0, 0x20, 0x7F, 0x7F, 0, 0, 0, 0⟩,
  ⟨0x880014, 1, 0, 1, 0, 0x20, 0, 0, 0, 0, 0, 0⟩,
  ⟨0x880018, 1, 0, 1, 0, 0x20, 0xFFFB400, 0, 0, 0, 0, 0⟩,
  ⟨0x88001C, 1, 0, 1, 0, 0x20, 0, 0, 0, 0, 0, 0⟩,
  ⟨0x880020, 1, 0, 1, 0, 0x20, 0, 0, 0, 0, 0, 0⟩,
  ⟨0x880024, 1, 0, 1, 0, 0x20, 0, 0, 0, 0, 0, 0⟩,
  ⟨0x880028, 1, 0, 1, 0, 0x20, 0, 0, 0, 0, 0, 0⟩,
  ⟨0x88002C, 1, 0, 1, 0, 0x20, 0, 0, 0, 0, 0, 0⟩,
  ⟨0x880030, 1, 0, 1, 0, 0x20, 0, 0, 0, 0, 0, 0⟩]
/-- Rows of the block `b0`. -/
def rows_b0 : List RegRow := [
  ⟨0x1000, 1, 0, 1, 0, 0x20, 0, 0, 0, 0, 0, 0⟩,
  ⟨0x1004, 1, 0, 1, 0, 0x20, 0x3FFE, 0x3FFE, 0, 0, 0, 0⟩,
  ⟨0x1010, 1, 0, 1, 0, 0x20, 0, 0, 1, 0, 0, 0⟩,
  ⟨0x1014, 1, 0, 1, 0, 0x20, 0, 0, 0, 0, 0, 0⟩,
  ⟨0x1018, 1, 0, 1, 0, 0x40, 0, 0, 0, 0, 0, 0⟩,
  ⟨0x1020, 1, 0, 1, 0, 0x20, 0, 0, 0, 0, 0, 0⟩,
  ⟨0x1024, 1, 0, 1, 0, 0x20, 0, 0xFFFF, 0, 0x80000000, 0, 0⟩,
  ⟨0x1028, 1, 0, 1, 0, 0x20, 0, 0, 0x20000000, 0, 0, 0⟩,
  ⟨0x1100, 4, 0x20, 5, 4, 0x20, 0, 0, 0, 0, 0, 0⟩,
  ⟨0x1180, 1, 0, 1, 0, 0x20, 0, 0, 0, 0, 0, 0⟩,
  ⟨0x11C0, 2, 4, 1, 0, 0x20, 0, 0, 0, 0, 0, 0⟩,
  ⟨0x11C8, 1, 0, 1, 0, 0x20, 0, 0, 0, 0, 0, 0⟩,
  ⟨0x1200, 0x80, 4, 1, 0, 0x20, 0, 0, 0, 0, 0, 0⟩,
  ⟨0, 1, 0, 1, 0, 0x20, 0x8401F2B, 0, 0, 0, 0, 0⟩,
  ⟨4, 1, 0, 1, 0, 0x20, 0xA101, 0, 0, 0, 0, 0⟩,
  ⟨0x10, 4, 4, 1, 0, 0x20, 0, 0, 0, 0, 0, 0⟩,
  ⟨0x20, 1, 0, 1, 0, 0x20, 0x1020100, 0, 0, 0, 0, 0⟩,
  ⟨0x24, 1, 0, 1, 0, 0x20, 0x1030100, 0, 0, 0, 0, 0⟩,
  ⟨0x28, 1, 0, 1, 0, 0x20, 0x1000100, 0, 0, 0, 0, 0⟩,
  ⟨0x2C, 1, 0, 1, 0, 0x20, 0x1010100, 0, 0, 0, 0, 0⟩,
  ⟨0x30, 1, 0, 1, 0, 0x20, 0x1000100, 0, 0, 0, 0, 0⟩,
  ⟨0x34, 1, 0, 1, 0, 0x20, 0x1000100, 0, 0, 0, 0, 0⟩,
  ⟨0x38, 1, 0, 1, 0, 0x20, 0x1000100, 0, 0, 0, 0, 0⟩,
  ⟨0x3C, 1, 0, 1, 0, 0x20, 0x1000100, 0, 0, 0, 0, 0⟩,
  ⟨0x40, 1, 0, 1, 0, 0x20, 0x10100, 0, 0, 0, 0, 0⟩,
  ⟨0x44, 1, 0, 1, 0, 0x20, 0, 0, 0, 0, 0, 0⟩]
/-- Rows of the block `gv`. -/
def rows_gv : List RegRow := [
  ⟨0x40, 4, 4, 1, 0, 0x20, 0, 0x7F7F7F7F, 0, 0, 0, 0⟩]
/-- Rows of the block `b80`. -/
def rows_b80 : List RegRow := [
  ⟨0x800000, 1, 0, 1, 0, 0x20, 0x4000000, 0, 0, 0, 0, 0⟩,
  ⟨0x800004, 1, 0, 1, 0, 0x20, 0, 0, 0x3FF, 0, 0, 0⟩,
  ⟨0x800008, 1, 0, 1, 0, 0x20, 0x3FF, 0x3FF, 0, 0, 0, 0⟩,
  ⟨0x80000C, 1, 0, 1, 0, 0x20, 0x40000000, 0xC0000000, 0, 0, 0, 0⟩,
  ⟨0x800010, 1, 0, 1, 0, 0x20, 0, 0, 0, 0, 0, 0⟩,
  ⟨0x800014, 1, 0, 1, 0, 0x20, 0xB4, 0, 0, 0, 0, 0xFFF0000⟩,
  ⟨0x800018, 1, 0, 1, 0, 0x20, 0, 0, 0, 0, 0, 0⟩,
  ⟨0x80001C, 1, 0, 1, 0, 0x20, 0, 0, 0, 0, 0, 0⟩,
  ⟨0x800020, 1, 0, 1, 0, 0x20, 0, 0, 0, 0, 0, 0⟩,
  ⟨0x800024, 1, 0, 1, 0, 0x20, 1, 0, 0xF, 0, 0, 0⟩,
  ⟨0x800028, 1, 0, 1, 0, 0x20, 0, 0, 0, 0, 0, 0⟩,
  ⟨0x80002C, 1, 0, 1, 0, 0x20, 0, 0, 0, 0, 0, 0⟩,
  ⟨0x800030, 1, 0, 1, 0, 0x20, 0, 0, 0, 0, 0, 0⟩,
  ⟨0x800034, 1, 0, 1, 0, 0x20, 0, 0, 0, 0, 0, 0⟩,
  ⟨0x800038, 1, 0, 1, 0, 0x20, 0, 0, 0, 0, 0, 0⟩,
  ⟨0x80003C, 1, 0, 1, 0, 0x20, 0, 0, 0, 0, 0, 0⟩,
  ⟨0x800040, 1, 0, 1, 0, 0x40, 0, 0, 0, 0, 0, 0⟩,
  ⟨0x800048, 1, 0, 1, 0, 0x40, 0, 0, 0, 0, 0, 0⟩,
  ⟨0x800050, 1, 0, 1, 0, 0x20, 0, 0, 0, 0, 0, 0⟩,
  ⟨0x800054, 1, 0, 1, 0, 0x20, 0, 0, 0, 0, 0, 0⟩,
  ⟨0x800058, 1, 0, 1, 0, 0x20, 0, 0, 0, 0, 0, 0⟩,
  ⟨0x800100, 0x10, 0x10, 1, 0, 0x40, 0, 0, 0, 0, 0, 0⟩,
  ⟨0x800108, 0x10, 0x10, 1, 0, 0x20, 0, 0, 0, 0, 0, 0⟩,
  ⟨0x80010C, 0x10, 0x10, 1, 0, 0x20, 0, 0, 0, 0, 0, 0⟩]
/-- Rows of the block `msix`. -/
def rows_msix : List RegRow := [
  ⟨0, 0x80, 0x10, 1, 0, 0x20, 0, 0xFFFFFFFC, 0, 0, 0, 0⟩,
  ⟨4, 0x80, 0x10, 1, 0, 0x20, 0, 0xFFFFFFFF, 0, 0, 0, 0⟩,
  ⟨8, 0x80, 0x10, 1, 0, 0x20, 0, 0xFFFFFFFF, 0, 0, 0, 0⟩,
  ⟨0xC, 0x80, 0x10, 1, 0, 0x20, 1, 1, 0, 0, 0, 0⟩]

/-- The rows of the block a key lies in, and the key's offset within that block's numbering. -/
def rowsOf (key : Nat) : List RegRow × Nat :=
  if Reg.rangerBase ≤ key then (rows_rs, key - Reg.rangerBase)
  else if 0x100000000 ≤ key then
    let o := key % 0x100000000
    if o < 0x2000 then (rows_gv, o - 0x1000)
    else if o < 0x3000 then (rows_fn, o - 0x2000)
    else if 0x10000 ≤ o ∧ o < 0x11000 then (rows_qp, (o - 0x10000) % 0x40)
    else if 0x80000 ≤ o ∧ o < 0x80200 then (rows_msix, o - 0x80000)
    else ([], 0)
  else if 0x1000000 ≤ key then (rows_tile, key)
  else if 0x10000 ≤ key ∧ key < 0x10040 then (rows_fn, key - 0x10000)
  else if 0x100000 ≤ key ∧ key < 0x110000 then (rows_qp, (key - 0x100000) % 0x40)
  else if 0xE0000 ≤ key ∧ key < 0xE0800 then (rows_msix, key - 0xE0000)
  else if 0x1040 ≤ key ∧ key < 0x1050 then (rows_gv, key - 0x1000)
  else (match key / 0x10000 with

    | 0x20 => rows_b20
    | 0x30 => rows_b30
    | 0x40 => rows_b40
    | 0xC => rows_bC
    | 0x60 => rows_b60
    | 0x1 => rows_b1
    | 0x70 => rows_b70
    | 0x88 => rows_b88
    | 0x0 => rows_b0
    | 0x80 => rows_b80
    | _ => if 0x500000 ≤ key ∧ key < 0x530000 then rows_b50 else [], key)

/-- Whether a row covers a key, as the start of one of its copies (`part` 0) or as the high half of a 64-bit
copy (`part` 4). -/
def RegRow.covers (r : RegRow) (part key : Nat) : Bool :=
  if key < r.base + part then false
  else
    let d := key - r.base - part
    let i := if r.cnt1 ≤ 1 then 0 else d / r.str1
    let e := d - (if r.cnt1 ≤ 1 then 0 else i * r.str1)
    let j := if r.cnt2 ≤ 1 then 0 else e / r.str2
    let g := e - (if r.cnt2 ≤ 1 then 0 else j * r.str2)
    decide (i < max r.cnt1 1 ∧ j < max r.cnt2 1 ∧ g = 0) && (part == 0 || r.width == 64)

/-- The row of the register that starts at a key. -/
def rowAt (key : Nat) : Option RegRow := let (l, o) := rowsOf key; l.find? (fun r => r.covers 0 o)

/-- The 32-bit word at a key: its register's row and start, and whether the word is the high half. -/
def wordAt (key : Nat) : Option (RegRow × Nat × Bool) :=
  match rowAt key with
  | some r => some (r, key, false)
  | none =>
    let (l, o) := rowsOf key
    (l.find? (fun r => r.covers 4 o)).map (fun r => (r, key - 4, true))

/-- The reset value of the register at a key; 0 where no register lies. -/
def resetOf (key : Nat) : Nat := ((rowAt key).map (·.reset)).getD 0

/-- The width of the register at a key. -/
def widthOf (key : Nat) : Nat := ((rowAt key).map (·.width)).getD 32

end Sys2Proof.Machine
end

