-- ==== Sys2Proof/Machine/Crypto.lean ====
section
/-! DEFINITION. The published algorithms that the spec names: CRC-32C (R196), SHA-384 and ECDSA P-384 (R95), AES-256
and AES-256-GCM (R197), and the CTR_DRBG of SP 800-90A with AES-256 and the derivation function (R354). Words are
natural numbers, blocks are 128-bit numbers whose first byte is the most significant. -/

namespace Sys2Proof.Machine

/-! ### CRC-32C (R196) -/

/-- One bit step of the reflected polynomial 0x1EDC6F41. -/
def crcStep (c : Nat) : Nat := if c % 2 = 1 then (c / 2) ^^^ 0x82F63B78 else c / 2

/-- One byte. -/
def crcByte (c : Nat) (b : Byte) : Nat :=
  crcStep (crcStep (crcStep (crcStep (crcStep (crcStep (crcStep (crcStep (c ^^^ b.toNat))))))))

/-- CRC-32C: initial value and final XOR 0xFFFFFFFF. -/
def crc32c (bs : Bytes) : Nat := bs.foldl crcByte 0xFFFFFFFF ^^^ 0xFFFFFFFF

/-! ### SHA-384 -/

def sha512k0 : List Nat := [
  0x428A2F98D728AE22, 0x7137449123EF65CD, 0xB5C0FBCFEC4D3B2F, 0xE9B5DBA58189DBBC,
  0x3956C25BF348B538, 0x59F111F1B605D019, 0x923F82A4AF194F9B, 0xAB1C5ED5DA6D8118,
  0xD807AA98A3030242, 0x12835B0145706FBE, 0x243185BE4EE4B28C, 0x550C7DC3D5FFB4E2,
  0x72BE5D74F27B896F, 0x80DEB1FE3B1696B1, 0x9BDC06A725C71235, 0xC19BF174CF692694,
  0xE49B69C19EF14AD2, 0xEFBE4786384F25E3, 0x0FC19DC68B8CD5B5, 0x240CA1CC77AC9C65]
def sha512k1 : List Nat := [
  0x2DE92C6F592B0275, 0x4A7484AA6EA6E483, 0x5CB0A9DCBD41FBD4, 0x76F988DA831153B5,
  0x983E5152EE66DFAB, 0xA831C66D2DB43210, 0xB00327C898FB213F, 0xBF597FC7BEEF0EE4,
  0xC6E00BF33DA88FC2, 0xD5A79147930AA725, 0x06CA6351E003826F, 0x142929670A0E6E70,
  0x27B70A8546D22FFC, 0x2E1B21385C26C926, 0x4D2C6DFC5AC42AED, 0x53380D139D95B3DF,
  0x650A73548BAF63DE, 0x766A0ABB3C77B2A8, 0x81C2C92E47EDAEE6, 0x92722C851482353B]
def sha512k2 : List Nat := [
  0xA2BFE8A14CF10364, 0xA81A664BBC423001, 0xC24B8B70D0F89791, 0xC76C51A30654BE30,
  0xD192E819D6EF5218, 0xD69906245565A910, 0xF40E35855771202A, 0x106AA07032BBD1B8,
  0x19A4C116B8D2D0C8, 0x1E376C085141AB53, 0x2748774CDF8EEB99, 0x34B0BCB5E19B48A8,
  0x391C0CB3C5C95A63, 0x4ED8AA4AE3418ACB, 0x5B9CCA4F7763E373, 0x682E6FF3D6B2B8A3,
  0x748F82EE5DEFB2FC, 0x78A5636F43172F60, 0x84C87814A1F0AB72, 0x8CC702081A6439EC]
def sha512k3 : List Nat := [
  0x90BEFFFA23631E28, 0xA4506CEBDE82BDE9, 0xBEF9A3F7B2C67915, 0xC67178F2E372532B,
  0xCA273ECEEA26619C, 0xD186B8C721C0C207, 0xEADA7DD6CDE0EB1E, 0xF57D4F7FEE6ED178,
  0x06F067AA72176FBA, 0x0A637DC5A2C898A6, 0x113F9804BEF90DAE, 0x1B710B35131C471B,
  0x28DB77F523047D84, 0x32CAAB7B40C72493, 0x3C9EBE0A15C9BEBC, 0x431D67C49C100D4C,
  0x4CC5D4BECB3E42B6, 0x597F299CFC657E2A, 0x5FCB6FAB3AD6FAEC, 0x6C44198C4A475817]

/-- The round constants. -/
def sha512k : List Nat := sha512k0 ++ sha512k1 ++ sha512k2 ++ sha512k3

/-- The initial hash value of SHA-384. -/
def sha384iv : List Nat := [
  0xCBBB9D5DC1059ED8, 0x629A292A367CD507, 0x9159015A3070DD17, 0x152FECD8F70E5939,
  0x67332667FFC00B31, 0x8EB44A8768581511, 0xDB0C2E0D64F98FA7, 0x47B5481DBEFA4FA4]

/-- A right rotation of a 64-bit word. -/
def ror64 (x n : Nat) : Nat := x / 2 ^ n ||| (x * 2 ^ (64 - n)) % 2 ^ 64

/-- The message schedule: `n` more words, the newest first. -/
def shaSched : Nat → List Nat → List Nat
  | 0, w => w
  | n + 1, w =>
    let w2 := nth w 1
    let w15 := nth w 14
    let s1 := ror64 w2 19 ^^^ ror64 w2 61 ^^^ (w2 / 2 ^ 6)
    let s0 := ror64 w15 1 ^^^ ror64 w15 8 ^^^ (w15 / 2 ^ 7)
    shaSched n ((s1 + nth w 6 + s0 + nth w 15) % 2 ^ 64 :: w)

/-- One round. -/
def shaRound (v : List Nat) (kw : Nat × Nat) : List Nat :=
  match v with
  | [a, b, c, d, e, f, g, h] =>
    let t1 := h + (ror64 e 14 ^^^ ror64 e 18 ^^^ ror64 e 41) + ((e &&& f) ^^^ ((0xFFFFFFFFFFFFFFFF ^^^ e) &&& g)) + kw.1 + kw.2
    let t2 := (ror64 a 28 ^^^ ror64 a 34 ^^^ ror64 a 39) + ((a &&& b) ^^^ (a &&& c) ^^^ (b &&& c))
    [(t1 + t2) % 2 ^ 64, a, b, c, (d + t1) % 2 ^ 64, e, f, g]
  | _ => v

/-- One 128-byte block. -/
def shaBlock (h : List Nat) (blk : Bytes) : List Nat :=
  let w0 := (List.range 16).map (fun i => beNat (slice blk (8 * i) 8))
  let w := (shaSched 64 w0.reverse).reverse
  let v := (List.zip sha512k w).foldl shaRound h
  (List.zip h v).map (fun p => (p.1 + p.2) % 2 ^ 64)

/-- SHA-384: 48 bytes. -/
def sha384 (m : Bytes) : Bytes :=
  let z := (128 - (m.length + 17) % 128) % 128
  let padded := m ++ [0x80#8] ++ List.replicate z 0#8 ++ natBe 16 (m.length * 8)
  let h := (List.range (padded.length / 128)).foldl (fun h i => shaBlock h ((padded.drop (128 * i)).take 128)) sha384iv
  (h.take 6).flatMap (natBe 8)

/-! ### ECDSA P-384 -/

def p384p : Nat := 0xFFFFFFFFFFFFFFFFFFFFFFFFFFFFFFFFFFFFFFFFFFFFFFFFFFFFFFFFFFFFFFFEFFFFFFFF0000000000000000FFFFFFFF
def p384n : Nat := 0xFFFFFFFFFFFFFFFFFFFFFFFFFFFFFFFFFFFFFFFFFFFFFFFFC7634D81F4372DDF581A0DB248B0A77AECEC196ACCC52973
def p384b : Nat := 0xB3312FA7E23EE7E4988E056BE3F82D19181D9C6EFE8141120314088F5013875AC656398D8A2ED19D2A85C8EDD3EC2AEF
def p384x : Nat := 0xAA87CA22BE8B05378EB1C71EF320AD746E1D3B628BA79B9859F741E082542A385502F25DBF55296C3A545E3872760AB7
def p384y : Nat := 0x3617DE4A96262C6F5D9E98BF9292DC29F8F41DBD289A147CE9DA3113B5F0B8C00A60B1CE1D7E819D7A431D7C90EA0E5F

/-- `b ^ e mod m`, over the low `k` bits of `e`. -/
def powMod (m b : Nat) : Nat → Nat → Nat
  | 0, _ => 1 % m
  | k + 1, e => let r := powMod m (b * b % m) k (e / 2); if e % 2 = 1 then r * b % m else r

/-- The inverse modulo a prime. -/
def invMod (m a : Nat) : Nat := powMod m (a % m) 384 (m - 2)

/-- Subtraction modulo p. -/
def subP (a b : Nat) : Nat := (a + p384p - b % p384p) % p384p

/-- Point addition; none is the point at infinity. -/
def p384add : Option (Nat × Nat) → Option (Nat × Nat) → Option (Nat × Nat)
  | none, q => q
  | p, none => p
  | some (x1, y1), some (x2, y2) =>
    if x1 = x2 ∧ (y1 + y2) % p384p = 0 then none
    else
      let l := if x1 = x2 then (subP (3 * x1 * x1) 3) * invMod p384p (2 * y1) % p384p
        else subP y2 y1 * invMod p384p (subP x2 x1) % p384p
      let x3 := subP (subP (l * l) x1) x2
      some (x3, subP (l * subP x1 x3) y1)

/-- Scalar multiplication over the low `k` bits. -/
def p384mul : Nat → Nat → Option (Nat × Nat) → Option (Nat × Nat)
  | 0, _, _ => none
  | k + 1, e, q => let r := p384mul k (e / 2) (p384add q q); if e % 2 = 1 then p384add r q else r

/-- ECDSA verification of a digest under a public key given as x and y, 48 bytes each, big-endian. -/
def ecdsaVerify (key digest : Bytes) (r s : Nat) : Bool :=
  let qx := beNat (slice key 0 48)
  let qy := beNat (slice key 48 48)
  let onCurve := qx < p384p && qy < p384p && qy * qy % p384p == (subP (qx * qx * qx + p384b) (3 * qx))
  if onCurve && 0 < r && r < p384n && 0 < s && s < p384n then
    let w := invMod p384n s
    let u1 := beNat digest * w % p384n
    let u2 := r * w % p384n
    match p384add (p384mul 384 u1 (some (p384x, p384y))) (p384mul 384 u2 (some (qx, qy))) with
    | none => false
    | some (x, _) => x % p384n == r
  else false

/-! ### AES-256 -/

def aesS0 : Nat := 0x75B227EBE28012079A059618C323C7041531D871F1E5A534CCF73F362693FDB7C072A49CAFA2D4ADF04759FA7DC982CA76ABD7FE2B670130C56F6BF27B777C63
def aesS1 : Nat := 0xD2F3FF1021DAB6BCF5389D928F40A351A89F3C507F02F94585334D43FBAAEFD0CF584C4A39BECB6A5BB1FC20ED00D153842FE329B3D63B52A05A6E1B1A2C8309
def aesS2 : Nat := 0x08AE7A65EAF4566CA94ED58D6D37C8E779E4959162ACD3C25C2406490A3A32E0DB0B5EDE14B8EE4688902A22DC4F816073195D643D7EA7C41744975FEC130CCD
def aesS3 : Nat := 0x16BB54B00F2D99416842E6BF0D89A18CDF2855CEE9871E9B948ED9691198F8E19E1DC186B95735610EF6034866B53E708A8BBD4B1F74DDE8C6B4A61C2E2578BA

/-- The S-box. -/
def aesS (x : Nat) : Nat :=
  let t := if x < 64 then aesS0 else if x < 128 then aesS1 else if x < 192 then aesS2 else aesS3
  t / 2 ^ (8 * (x % 64)) % 256

/-- Multiplication by x in GF(2^8). -/
def xtime (a : Nat) : Nat := if a < 128 then 2 * a else (2 * a) % 256 ^^^ 0x1B

/-- Byte i of a 128-bit block, the first byte 0. -/
def blkByte (b i : Nat) : Nat := b / 2 ^ (8 * (15 - i)) % 256

/-- A block from its bytes. -/
def blkOf (l : List Nat) : Nat := l.foldl (fun a b => a * 256 + b) 0

/-- The S-box on each byte of a 32-bit word. -/
def subWord (w : Nat) : Nat :=
  aesS (w / 2 ^ 24) * 2 ^ 24 + aesS (w / 2 ^ 16 % 256) * 2 ^ 16 + aesS (w / 2 ^ 8 % 256) * 2 ^ 8 + aesS (w % 256)

/-- The key schedule: words newest first; `i` is the index of the next word, `rc` the next round constant. -/
def aesExpand : Nat → Nat → Nat → List Nat → List Nat
  | 0, _, _, w => w
  | n + 1, i, rc, w =>
    let t := nth w 0
    let u := if i % 8 = 0 then subWord ((t * 256) % 2 ^ 32 + t / 2 ^ 24) ^^^ (rc * 2 ^ 24)
      else if i % 8 = 4 then subWord t else t
    aesExpand n (i + 1) (if i % 8 = 0 then xtime rc else rc) ((nth w 7 ^^^ u) :: w)

/-- The fifteen round keys of a 256-bit key. -/
def aesKeys (key : Nat) : List Nat :=
  let w0 := (List.range 8).map (fun i => key / 2 ^ (32 * (7 - i)) % 2 ^ 32)
  let w := (aesExpand 52 8 1 w0.reverse).reverse
  (List.range 15).map (fun r => (List.range 4).foldl (fun a i => a * 2 ^ 32 + nth w (4 * r + i)) 0)

/-- ShiftRows after SubBytes. -/
def subShift (b : Nat) : List Nat := (List.range 16).map (fun i => aesS (blkByte b ((i + 4 * (i % 4)) % 16)))

/-- MixColumns on one column. -/
def mixCol (a b c d : Nat) : List Nat :=
  let t := a ^^^ b ^^^ c ^^^ d
  [a ^^^ t ^^^ xtime (a ^^^ b), b ^^^ t ^^^ xtime (b ^^^ c), c ^^^ t ^^^ xtime (c ^^^ d), d ^^^ t ^^^ xtime (d ^^^ a)]

/-- MixColumns. -/
def mixCols : List Nat → List Nat
  | a :: b :: c :: d :: t => mixCol a b c d ++ mixCols t
  | _ => []

/-- Encrypt one block under the round keys. -/
def aesBlock (ks : List Nat) (b : Nat) : Nat :=
  let mid := ((ks.drop 1).take 13).foldl (fun x k => blkOf (mixCols (subShift x)) ^^^ k) (b ^^^ nth ks 0)
  blkOf (subShift mid) ^^^ nth ks 14

/-! ### GCM (SP 800-38D) -/

/-- Multiplication in GF(2^128): over the bits of `x` from the first down. -/
def gfMul : Nat → Nat → Nat → Nat → Nat
  | 0, _, _, z => z
  | k + 1, x, v, z =>
    gfMul k x (if v % 2 = 1 then (v / 2) ^^^ (0xE1 * 2 ^ 120) else v / 2) (if x.testBit k then z ^^^ v else z)

/-- The 16-byte blocks of a string, the last padded with zeros. -/
def blocks16 (bs : Bytes) : List Nat := (List.range (ceilDiv bs.length 16)).map (fun i => beNat (slice bs (16 * i) 16))

/-- GHASH. -/
def ghash (h : Nat) (xs : List Nat) : Nat := xs.foldl (fun y x => gfMul 128 (y ^^^ x) h 0) 0

/-- The counter stream over data from counter block `iv || c`. -/
def gcmCtr (ks : List Nat) (iv : Nat) (bs : Bytes) : Bytes :=
  ((List.range (ceilDiv bs.length 16)).flatMap (fun i =>
    natBe 16 (beNat (slice bs (16 * i) 16) ^^^ aesBlock ks (iv * 2 ^ 32 + i + 2)))).take bs.length

/-- The tag of a ciphertext with its additional data. -/
def gcmTag (ks : List Nat) (iv : Nat) (aad ct : Bytes) : Bytes :=
  let s := ghash (aesBlock ks 0) (blocks16 aad ++ blocks16 ct ++ [aad.length * 8 * 2 ^ 64 + ct.length * 8])
  natBe 16 (s ^^^ aesBlock ks (iv * 2 ^ 32 + 1))

/-- AES-256-GCM encryption: ciphertext and tag. -/
def gcmSeal (key : Bytes) (iv : Nat) (aad pt : Bytes) : Bytes × Bytes :=
  let ks := aesKeys (beNat key)
  let ct := gcmCtr ks iv pt
  (ct, gcmTag ks iv aad ct)

/-- AES-256-GCM decryption; none when the tag does not match. -/
def gcmOpen (key : Bytes) (iv : Nat) (aad ct tag : Bytes) : Option Bytes :=
  let ks := aesKeys (beNat key)
  if gcmTag ks iv aad ct = tag then some (gcmCtr ks iv ct) else none

/-! ### CTR_DRBG (SP 800-90A) with AES-256 and the derivation function -/

/-- The working state. -/
structure Drbg where
  key : Nat
  v : Nat
  deriving DecidableEq, Repr

/-- The CBC-MAC chain of Block_Cipher_df. -/
def bcc (ks : List Nat) (bs : Bytes) : Nat := (blocks16 bs).foldl (fun c b => aesBlock ks (c ^^^ b)) 0

/-- Block_Cipher_df to 48 bytes. -/
def drbgDf (input : Bytes) : Bytes :=
  let s := natBe 4 input.length ++ natBe 4 48 ++ input ++ [0x80#8]
  let k0 := aesKeys (beNat ((List.range 32).map (fun i => BitVec.ofNat 8 i)))
  let t := fun i => bcc k0 (natBe 4 i ++ List.replicate 12 0#8 ++ padTo 16 s)
  let ks := aesKeys (t 0 * 2 ^ 128 + t 1)
  let x1 := aesBlock ks (t 2)
  let x2 := aesBlock ks x1
  natBe 16 x1 ++ natBe 16 x2 ++ natBe 16 (aesBlock ks x2)

/-- CTR_DRBG_Update. -/
def drbgUpdate (d : Drbg) (data : Bytes) : Drbg :=
  let ks := aesKeys d.key
  let t := fun i => aesBlock ks ((d.v + i) % 2 ^ 128)
  let x := (t 1 * 2 ^ 256 + t 2 * 2 ^ 128 + t 3) ^^^ beNat (slice data 0 48)
  { key := x / 2 ^ 128, v := x % 2 ^ 128 }

/-- Instantiation from entropy input and nonce together, with a personalisation string. -/
def drbgInstantiate (entropy pers : Bytes) : Drbg := drbgUpdate { key := 0, v := 0 } (drbgDf (entropy ++ pers))

/-- Reseeding. -/
def drbgReseed (d : Drbg) (entropy : Bytes) : Drbg := drbgUpdate d (drbgDf entropy)

/-- One generate request of `n` bytes. -/
def drbgGenerate (d : Drbg) (n : Nat) : Bytes × Drbg :=
  let ks := aesKeys d.key
  let k := ceilDiv n 16
  let out := (List.range k).flatMap (fun i => natBe 16 (aesBlock ks ((d.v + i + 1) % 2 ^ 128)))
  (out.take n, drbgUpdate { d with v := (d.v + k) % 2 ^ 128 } [])

end Sys2Proof.Machine
end

