-- ==== Sys2Proof/Machine/State.lean ====
section
/-! DEFINITION. The state of the block as plain data, its reset value, and the names of its stops. Registers of the
register map live in `State.regs`, a sparse file in which a register that is not listed holds its Reset value (R6,
R508); everything else that the spec gives the part has a field of its own. -/

namespace Sys2Proof.Machine

/-- The stops called faults. No meaning raises one: every fault of this part is state (R465-R468), so the type is
here only because the interface names it. Safe. -/
inductive Fault where
  /-- Raised by no meaning. Safe. -/
  | none
  deriving DecidableEq, Repr

/-- The stops called refusals. -/
inductive Refusal where
  /-- Raised by `exec` alone, for a command that has no meaning yet. Safe. -/
  | notModelled (mnemonic : String)
  deriving DecidableEq, Repr

/-- What leaves the part, oldest first in `State.out`. -/
inductive Output where
  /-- an MSI-X message of a function on a vector (R464) -/
  | msix (fn vector : Nat)
  /-- the data that a register, BAR2 or management read returns, first byte first (R366, R148, R420) -/
  | readData (data : Bytes)
  /-- a read that is completed with Completer Abort status (R366) -/
  | completerAbort
  /-- a fabric message towards a device on a port: type, hop count, destination, body (R389, R398) -/
  | fabric (port type hops dest : Nat) (body : Bytes)
  /-- a data flit put on a port's lanes: FSEQ and bytes (R387) -/
  | flit (port fseq : Nat) (data : Bytes)
  /-- the control flit that a port sends in training: version mask, fabric identifier, lanes in use, credit grants by class,
  QUIET_OK (R394) -/
  | training (port mask id lanes : Nat) (credits : List Nat) (quiet : Bool)
  /-- a tray bus frame: TYPE and data bytes (R444) -/
  | tray (type : Nat) (data : Bytes)
  /-- a management response: session, request number, status, payload (R418, R422) -/
  | mgmt (session id status : Nat) (data : Bytes)
  /-- an AVSBus write of a set point in mV (R512) -/
  | avs (mv : Nat)
  /-- a session closes (R416) -/
  | sessionClosed (session : Nat)
  deriving DecidableEq, Repr

/-- The pins and straps (R443, R514, R517) and the links they feed. -/
structure Pins where
  aon : Bool          -- the always-on supply is present
  supplyOk : Bool
  perstN : Bool
  fabClk : Bool
  pcieClk : Bool
  slotId : Nat
  portMode : Nat
  deriving DecidableEq, Repr

/-- A dip event under way (R490): when it began, the last fall below VWARN, and whether it fell more than once. -/
structure Dip where
  began : Nat
  lastFall : Nat
  again : Bool
  deriving DecidableEq, Repr

/-- The part states of R481 that software cannot read elsewhere. -/
inductive Rest where
  | awake
  | doze
  | nap
  | leavingNap
  | sleep
  | waking (undone : Bool)    -- `undone`: the wake cause came during the entry, which it undoes (R485)
  deriving DecidableEq, Repr

/-- The power controller and supply monitors (R486, R490, R512). -/
structure Power where
  rest : Rest
  restAt : Nat              -- AON time of the last change of `rest`
  quietSince : Nat          -- AON time since which the DOZE conditions hold (R482)
  dip : Option Dip
  slew : Option Bool        -- a 100 MHz step under way: true is up
  nextTick : Nat            -- AON time of the end of the millisecond under way
  hot : Nat                 -- what read at or above its throttle temperature: dies at bits 0-4, stacks at 8-15 (R486, R519)
  overMs : Nat
  underMs : Nat
  msMean : Nat              -- mean of the last completed 1 ms, 0.125 W
  winSum : Nat
  winCount : Nat
  winMean : Nat             -- mean of the last completed 100 ms, 0.125 W
  allowance : Nat           -- the tray allowance in 10 W units (R454)
  avsLimited : Bool         -- an AVSBus write was not acknowledged (R512)
  saved : Option (Tbl W64)  -- the registers that the ranger saved for SLEEP (R485)
  deriving DecidableEq, Repr

/-- Start-up (R493-R497). -/
structure Startup where
  inReset : Bool            -- part reset is held
  running : Bool            -- a start is under way
  t0 : Nat                  -- AON time of the end of the part reset
  began : Nat               -- AON time at which this start began
  fromCamp : Bool           -- this start began in base camp
  toCamp : Option (Nat × Nat)   -- base camp is entered when the reset ends: code and DETAIL
  thermalWait : Bool        -- waits for the dies to cool (R488)
  deriving DecidableEq, Repr

/-- The phase of a chip-fault sequence (R466, R468). -/
inductive FaultPhase where
  | none
  | sequence      -- steps 1-5
  | quiesced
  | recovering
  | restarting    -- recovery failed: QUIESCED while a new start runs
  deriving DecidableEq, Repr

/-- The fault sequence. -/
structure FaultSeq where
  phase : FaultPhase
  since : Nat               -- AON time at which the phase began
  deriving DecidableEq, Repr

/-- The queue-pair state that no register shows (R373, R374). -/
structure Qp where
  sqTail : Nat
  cqTail : Nat
  cqHead : Nat
  phase : Bool
  deriving DecidableEq, Repr

/-- A completion that is owed (R374, R376): the command's header, the SQ_HEAD after it was taken, how many
completions that are not events are still to come, whether the first has been posted, and whether an event may
follow. -/
structure Owed where
  hdr : CmdHdr
  sqHead : Nat
  left : Nat
  first : Bool
  event : Bool
  deriving DecidableEq, Repr

/-- The tile-store port of a GATED tile that is opening or open (R28): `openNow`, when it began to open or was last
used in tile cycles, the requests that the router holds while it opens (at most 4), and those that wait behind them in the
column. A closed port has no entry. -/
structure StorePort where
  openNow : Bool
  at_ : Nat
  held : List Instr
  behind : List Instr
  deriving DecidableEq, Repr

/-! #### Pitches and contexts (R89-R113) -/

/-- A route record (R97). -/
structure Route where
  id : Nat
  src : Nat
  dst : Nat
  path : Nat
  slotMask : Nat
  flits : Nat
  deadline : Nat
  deriving DecidableEq, Repr

/-- An array record (R100). -/
structure ArrRec where
  tile : Nat
  arr : Nat
  modes : Nat
  accBase : Nat
  accCount : Nat
  chBase : Nat
  chCount : Nat
  deriving DecidableEq, Repr

/-- An object record (R101). -/
structure ObjRec where
  id : Nat
  kind : Nat
  oflags : Nat
  keySlot : Nat
  format : Nat
  size : Nat
  tile : Nat
  banks : Nat
  offset : Nat
  tier : Nat
  stackMask : Nat
  deriving DecidableEq, Repr

/-- A codec budget record (R103). -/
structure BudgetRec where
  id : Nat
  mode : Nat
  budget : Nat
  deriving DecidableEq, Repr

/-- A sweep record (R104): its six OBJECT_IDs are high half, low half, gradient, error term, first and second moment. -/
structure SweepRec where
  group : Nat
  rule : Nat
  gflags : Nat
  params : Nat
  objs : List Nat
  constIndex : Nat
  constSteps : Nat
  deriving DecidableEq, Repr

/-- The sweep section (R104). -/
structure SweepPlan where
  lossScale : Nat
  growth : Nat
  recs : List SweepRec
  consts : Bytes
  deriving DecidableEq, Repr

/-- A vote record (R105). -/
structure VoteRec where
  id : Nat
  device : Nat
  jobDevices : Nat
  parent : Nat
  parentPort : Nat
  children : Nat
  timeout : Nat
  deriving DecidableEq, Repr

/-- A pitch as loaded (R91-R106). `figures` holds each used logical tile's words. -/
structure Pitch where
  flags : Nat
  pitchId : Nat
  seed : Nat
  tileMap : Bytes
  routes : List Route
  arrays : List ArrRec
  objs : List ObjRec
  figures : Tbl (List Nat)
  budgets : List BudgetRec
  sweep : Option SweepPlan
  votes : List VoteRec
  engines : Nat
  deriving DecidableEq, Repr

/-- A recorded LOAD (R136): mode, variant, whether it carries scales, and its three addresses. -/
structure LoadRec where
  mode : Nat
  wvar : Bool
  scales : Bool
  pack1 : Nat
  pack2 : Nat
  scaleAddr : Nat
  deriving DecidableEq, Repr

/-- How a parked context is resumed (R134): a token and its count, or a cycle. -/
inductive Park where
  | token (t count : Nat)
  | time (cycle : Nat)
  deriving DecidableEq, Repr

/-- What one context holds on one tile (R116, R130-R136). STATE, CTX_STEPS and CTX_FLAGS stand in the registers of its
slot (R144). -/
structure TileCtx where
  slot : Nat
  g : Tbl Nat                 -- G0-G15, those that are not 0
  t : Tbl Nat                 -- T0-T31, those that are not 0
  loops : List (Nat × Nat × Nat)   -- open REPEAT bodies, inner first: first figure, figure after, runs left
  stepStart : Nat
  opIndex : Nat               -- stochastic operations issued in the step (R343)
  park : Option Park
  vote : Option (Nat × Option Nat × Bool)   -- a VOTE that waits: VOTE_ID, the token to post, the tile's flag
  sleep : Option Nat          -- a SLEEP that waits: its wake cycle
  loads : Tbl LoadRec         -- the last LOAD by array
  votesDone : Nat             -- votes completed in the step
  steps : Nat                 -- END_STEP figures completed since the start (R343)
  bodyAt : Nat                -- the figure at which the step under way began
  atEnd : Bool                -- nothing has issued since the start or the last END_STEP (R112)
  deriving DecidableEq, Repr

/-- A resident context (R107-R113). -/
structure Ctx where
  fn : Nat
  hdr : CmdHdr                -- the LOAD_PITCH or REPLACE that loaded it
  addr : Nat
  len : Nat
  digest : Bytes
  pitch : Pitch
  started : Bool
  ended : Bool                -- its end event has been posted (R376)
  unload : Option (Nat × List CmdHdr)   -- a pending UNLOAD: mode, and the commands that wait for it
  replacedBy : List Nat       -- the contexts that take over when this one has drained (R113)
  replaces : Option Nat
  handles : List Nat          -- by object record: the handle in the function's placement table, 0 for KIND 0
  freezing : Bool             -- runs to its freeze point, or stands there (R382)
  tiles : Tbl TileCtx         -- by site
  deriving DecidableEq, Repr

/-! #### Tiles at work (R39-R69, R124-R136) -/

/-- The block that an array has latched (R40, R44): its context, mode, variant, weights by input index, and the column
scales of slot 0 and slot 1. -/
structure Latch where
  ctx : Nat
  mode : Nat
  wvar : Bool
  scales : Bool
  w : List (List Nat)
  cs : List Nat
  deriving DecidableEq, Repr

/-- A row of an accumulator file that is not empty (R52, R53). -/
structure AccRow where
  int : Bool
  lanes : List Nat
  deriving DecidableEq, Repr

/-- One array (R39-R69). -/
structure Arr where
  latch : Option Latch
  rows : Tbl AccRow
  entries : Tbl (Nat × Nat)   -- rescale entries: scale and offset, those that are not both 0
  feedUntil : Nat             -- tile cycle from which the feeder is free (R42)
  stepSat : Nat               -- R69
  satRaised : Bool            -- SAT_OVER has been set in this step
  deriving DecidableEq, Repr

/-- The state of a FETCH or STORE (R162, R203): the object's handle, first pack, pack count, tile-store word, the packs that
have still to pass the codec, the charged input so far, the largest running excess, whether any pack was a variant, the
base and factor bytes read for prediction, and since when the next pack waits for a salt (R198). -/
structure Move where
  handle : Nat
  first : Nat
  packs : Nat
  word : Nat
  left : List Nat
  sum : Nat
  excess : Nat
  variant : Bool
  extra : Nat
  waits : Option Nat
  deriving DecidableEq, Repr

/-- A stream that takes its beats from the LOCAL port (R43, R59, R127): its figure and frame, its route, the beats that it takes and those
that have come, the mode latched in the arrays, the rescale entries of each array as they were at its issue, the rows that it has emitted,
and the cycle in which each beat left the feeder. -/
structure PortStream where
  fig : Fig
  args : List Nat
  route : Nat
  need : Nat
  got : Nat
  mode : Nat
  ents : Tbl (Tbl (Nat × Nat))
  writes : List (Nat × Bytes)
  fed : List Nat
  deriving DecidableEq, Repr

/-- The work of a figure in flight (R126). A stream keeps the rescale entries that it uses: array, first entry, count (R57). -/
inductive Work where
  | load (arr : Nat) (latch : Latch)
  | table (arr first : Nat) (vals : List (Nat × Nat))
  | stream (arrs : List Nat) (beats : Nat) (writes : List (Nat × Bytes)) (uses : List (Nat × Nat × Nat))
  | portStream (p : PortStream)
  | vector (writes : List (Nat × Bytes))
  | send (route : Nat) (flits : List Bytes)
  | receive (route dst need : Nat) (got : Nat)
  | fetch (rec : Nat) (m : Move)
  | store (rec : Nat) (m : Move)
  | remotePost (route token : Nat)
  deriving DecidableEq, Repr

/-- A figure in flight: its number, context, work, the earliest cycle of its completion, its read and write marks as
word ranges (R125), and the token it posts. -/
structure Flight where
  id : Nat
  ctx : Nat
  work : Work
  due : Nat
  reads : List (Nat × Nat)
  writes : List (Nat × Nat)
  post : Option Nat
  deriving DecidableEq, Repr

/-- A hold of a caller (R141): its code, the cycle it began, and whether STALL_LONG was set for it. -/
structure Hold where
  kind : Nat
  since : Nat
  raised : Bool
  deriving DecidableEq, Repr

/-- One site's caller and units. -/
structure Site where
  active : Option Nat         -- the context that holds the tile
  lastYield : Nat             -- the context from which the order of R134 counts
  yieldF : Nat                -- its figures still in flight when it yielded (R135)
  busyUntil : Nat             -- the cycle at which a switch under way ends (R135)
  hold : Option Hold
  vecUntil : Nat              -- the cycle from which the vector unit accepts (R124)
  flights : List Flight
  nextId : Nat
  buffer : List (Nat × Nat × Bytes)   -- the LOCAL-port buffer: context, route, flit (R127)
  draining : List Nat         -- the cycles in which flits that a figure has claimed leave the buffer (R127)
  upUntil : Nat               -- the cycle before which a token keeps the tile out of DOZE (R130)
  arrs : Tbl Arr
  deriving DecidableEq, Repr

/-- A flit on the mesh: its context, route, and payload; a token post carries the token instead (R128). -/
structure MeshFlit where
  ctx : Nat
  route : Nat
  payload : Bytes
  deriving DecidableEq, Repr

/-- A load in the loader's queue (R111): the command, the image, the context that it replaces while that is resident, and whether it is a
REPLACE; `at_` is the AON time at which the command ran. -/
structure LoadReq where
  hdr : CmdHdr
  at_ : Nat
  addr : Nat
  len : Nat
  replaces : Option Nat
  takesOver : Bool
  deriving DecidableEq, Repr

/-- The load under way (R107, R110): the request, the verdict of its checks, the parsed pitch, its digest, and when it
began. -/
structure Loading where
  req : LoadReq
  code : Nat
  sect : Nat
  detail : Nat
  pitch : Option Pitch
  digest : Bytes
  began : Nat
  deriving DecidableEq, Repr

/-! #### Objects and codec records (R145-R215) -/

/-- Where a page of object space lies (R147): a frame of a stack, or a registered host page by its place in the
function's list. -/
inductive PageLoc where
  | near (stack frame : Nat)
  | far (j : Nat)
  deriving DecidableEq, Repr

/-- A variant binding (R193). -/
structure Binding where
  base : Nat
  factors : Nat
  rank : Nat
  orient : Nat
  packCols : Nat
  deriving DecidableEq, Repr

/-- A table slot of a codec record (R205): 272 code lengths, and the binding under which packs are coded with it. -/
structure CodecSlot where
  lens : List Nat
  bind : Option Binding
  deriving DecidableEq, Repr

/-- A codec record (R205): two table slots, the slot in use, the binding, MEAN_INPUT, MAX_INPUT. -/
structure CodecRec where
  slot0 : Option CodecSlot
  slot1 : Option CodecSlot
  cur : Nat
  bind : Option Binding
  mean : Nat
  max : Nat
  deriving DecidableEq, Repr

/-- A device object (R147, R163). `users` are the resident contexts that use it; `freed` holds for an object that was
freed while it was frozen (R195). -/
structure Obj where
  fn : Nat
  handle : Nat
  id : Nat
  owner : Nat
  oflags : Nat
  keySlot : Nat
  format : Nat
  size : Nat
  first : Nat
  pages : List PageLoc
  state : Nat
  doneSeq : Nat
  result : Nat
  users : List Nat
  freed : Bool
  record : Option CodecRec
  deriving DecidableEq, Repr

/-- A placement request (R164-R168): the REQ fields as its PLACE read them, whether it has been checked or still waits in
command order, its page moves that have not begun, those in copy (page, target, the number of its unscheduled request),
and whether a later PLACE took over. -/
structure PlaceReq where
  hdr : CmdHdr
  fn : Nat
  handle : Nat
  tier : Nat
  mask : Nat
  seq : Nat
  checked : Bool
  moves : List (Nat × PageLoc)
  copying : List (Nat × PageLoc × Nat)
  superseded : Bool
  deriving DecidableEq, Repr

/-- The path of an unscheduled request (R173): the near store, a tile store, or one that reaches the far store. -/
inductive ReqPath where
  | near
  | tile
  | far
  deriving DecidableEq, Repr

/-- An unscheduled request (R169, R171): its number, source group, function, ticket, whether it is overdue, its path, the
pseudo-channels and tile-store banks that it reaches, and whether it is one 64-byte request or less. -/
structure Unsched where
  id : Nat
  group : Fin 8
  fn : Nat
  ticket : Nat
  overdue : Bool
  path : ReqPath
  keys : List Nat
  whole : Bool
  deriving DecidableEq, Repr

/-- A DMA under way (R380). -/
structure Dma where
  hdr : CmdHdr
  dir : Nat
  len : Nat
  src : Nat
  dst : Nat
  req : Nat
  deriving DecidableEq, Repr

/-- A coding run under way (R206): its command, target and source, whether its table is built, the packs that are still to leave
the slot not in use (R207), those that the coding pass has still to write, since when a write waits for a salt (R198), and the
code and pack index that its passes ended with. -/
structure CodingRun where
  hdr : CmdHdr
  fn : Nat
  handle : Nat
  source : Nat
  built : Bool
  pre : List Nat
  left : List Nat
  waits : Option Nat
  code : Nat
  pack : Nat
  deriving DecidableEq, Repr

/-! #### Fabric ports (R384-R402) -/

/-- A data flit as it waits or is kept for replay (R388, R390): class, whether it begins and ends its message, its
payload; and, once sent, its FSEQ, when it was last sent, and how often it was replayed in succession. -/
structure TxFlit where
  cls : Nat
  first : Bool
  last : Bool
  body : Bytes
  fseq : Nat
  sentAt : Nat
  replays : Nat
  deriving DecidableEq, Repr

/-- One port: flits that wait to be sent, the replay buffer, the next FSEQ to send and to receive, later flits held
past a gap, bytes of the message in assembly by class, whole messages that the hub has not yet taken, credits to return
and credits held by class, JOB flits since the last DELTA flit (R393), when replays were sent, when the last data flit
crossed, and the quiet settings that training exchanged (R401). -/
structure FabPort where
  txq : List TxFlit
  replay : List TxFlit
  nextSeq : Nat
  rxNext : Nat
  ahead : List TxFlit
  asm : Tbl Bytes
  inbox : List (Nat × Bytes)
  owe : Tbl Nat
  credits : Tbl Nat
  turn : Nat
  replayTimes : List Nat
  lastData : Nat
  quietBoth : Bool
  sentQuiet : Bool
  sentMask : Nat
  deriving DecidableEq, Repr

/-! #### Training and the delta stream (R216-R271) -/

/-- The vote that a context is in or takes next (R242, R246): its chip flag and when it was formed, and the UP flags
held by child port. -/
structure VoteRun where
  flag : Option (Bool × Nat)
  ups : Tbl Bool
  deriving DecidableEq, Repr

/-- A task of a sweep: group index, pack, pass (0, of Adafactor 1 to 3, and 4 where a skipped step reads the error term for the delta
stream), engine. -/
structure SweepTask where
  group : Nat
  pack : Nat
  pass : Nat
  engine : Nat
  deriving DecidableEq, Repr

/-- What an engine keeps of an Adafactor group between passes (R258): row and column sums, the new accumulators, their
mean, the sum of squares, the step. -/
structure Factors where
  group : Nat
  rs : Tbl Nat
  cs : Tbl Nat
  r : Tbl Nat
  k : Tbl Nat
  rbar : Nat
  uu : Nat
  step : Nat
  deriving DecidableEq, Repr

/-- A record that a stream has still to send (R226). A PACKS record has got the delivered bytes of some of its packs (pack, raw pack,
scale block), and a STEP_END the loss scale and good-step count after its step. -/
inductive DeltaJob where
  | start (state : Nat)
  | packs (state group form first count : Nat) (got : List (Nat × Bytes × Bytes))
  | stepEnd (state result : Nat) (after : Option (Nat × Nat))
  | endRec (reason : Nat)
  deriving DecidableEq, Repr

/-- A delta stream (R224-R232): version 1.1 or 1.0, destination, ring or port and device, lag, identifier; the next SEQ;
ring offsets; the records still to send and, of those sent to a fabric destination, the SEQ, state, bytes and
STREAM_ID of each not yet accepted; the last state whose STEP_END was sent; records, first SEQ and bytes of the state in progress; when an ACK last
advanced; whether it is broken; whether its snapshot is still owed, or under way. -/
structure Stream where
  minor : Nat
  dest : Nat
  ring : Nat
  size : Nat
  port : Nat
  device : Nat
  lag : Nat
  id : Nat
  seq : Nat
  tail : Nat
  head : Nat
  jobs : List DeltaJob
  sent : List (Nat × Nat × Nat × Nat)
  lastStep : Option Nat
  records : Nat
  firstSeq : Nat
  bytes : Nat
  ackAt : Nat
  broken : Bool
  snapOwed : Bool
  snapState : Option Nat
  deriving DecidableEq, Repr

/-- The training state of a context (R236-R249): figure at which its step body began on its first used tile, votes
completed in the step, the vote in or next, the result of the last vote, the tasks of the sweep and the group number of
Adafactor state, when its sweep began and the engines that have taken a pack of it, the stream, a stream that waits to replace it, the wait under way:
its start and whether DELTA_WAIT was raised for it; and by engine, since when a pack of its sweep waits for a salt (R198). -/
structure Train where
  body : Nat
  votesDone : Nat
  vote : VoteRun
  result : Option Bool
  tasks : List SweepTask
  fac : List Factors
  began : Nat
  took : List Nat
  stream : Option Stream
  next : Option Stream
  wait : Option (Nat × Bool)
  salt : Tbl Nat
  deriving DecidableEq, Repr

/-- The END of a stream that ended while its ring lacked room for it (R226, R233): the context's number, its function and pitch, the
stream, the record. -/
structure Ending where
  ctx : Nat
  fn : Nat
  pitch : Pitch
  stream : Stream
  record : Bytes
  deriving DecidableEq, Repr

/-! #### Serving (R277-R302) -/

/-- A peg (R284-R288): its adapter and slot, its expiry in AON cycles where it has one, whether it is ending, and the
UNPEG that waits for its end. -/
structure Peg where
  adapter : Nat
  slot : Nat
  expiry : Option Nat
  ending : Bool
  hdr : Option CmdHdr
  deriving DecidableEq, Repr

/-- A PEG whose copy is under way (R284). -/
structure PegCopy where
  hdr : CmdHdr
  adapter : Nat
  slot : Nat
  source : Nat
  expiry : Option Nat
  req : Nat
  deriving DecidableEq, Repr

/-- A batch accepted and not complete (R282, R283): BATCH_SEQ, requests, the slot that each segment resolved. -/
structure Batch where
  hdr : CmdHdr
  seq : Nat
  requests : Nat
  slots : List (Option Nat)
  deriving DecidableEq, Repr

/-- A commit under way (R292): its command, its commit point, and when it was taken. -/
structure CacheTurn where
  hdr : CmdHdr
  seq : Nat
  began : Nat
  deriving DecidableEq, Repr

/-- Serving on a context (R277-R294): the arguments, the shape that R280 computes from the target list (SHAPE_ID,
IMAGE_PAGES, LENGTH), the pool's frames slot by slot, pegs and copies, batches accepted and not complete, the next
batch to start, the slots that windows are bound to, staged sources by target, the commit and close under way, since
when the next batch's conditions hold, and the step that serves batch 0. -/
structure Serve where
  a : ServeArgs
  shape : Nat
  pages : Nat
  length : Nat
  frames : List PageLoc
  pegs : List Peg
  copies : List PegCopy
  batches : List Batch
  nextStart : Nat
  binds : Tbl Nat
  staged : Tbl Nat
  turn : Option CacheTurn
  closing : Option (List CmdHdr)
  ready : Option Nat
  base : Nat
  deriving DecidableEq, Repr

/-! #### The media front end (R303-R340) -/

/-- A feed (R307): its command, the bytes still to copy and where they lie, its FLAGS, and whether its copy has begun. -/
structure Feed where
  hdr : CmdHdr
  addr : Nat
  left : Nat
  flags : Nat
  begun : Bool
  deriving DecidableEq, Repr

/-- A run of elementary-stream bytes in the input buffer: those of one PES packet, or of one feed. `header` holds the bytes of a
PES header that is not yet whole, `openEnd` while its PES packet goes on, with the bytes still to come where PES_packet_length gives
them. `disc` marks a break: what follows does not continue what stands before, of which, with `damaged`, a partial picture was
discarded (R308, R310). -/
structure EsRun where
  data : Bytes
  header : Bytes
  openEnd : Bool
  left : Option Nat
  damaged : Bool
  scrambled : Bool
  disc : Bool
  pts : Option Nat
  codec : Nat
  deriving DecidableEq, Repr

/-- Demultiplexing (R310, R311): synchronisation, the bytes skipped since it was lost, the sections in assembly, the
programmes of the PAT by number and PID, the versions in force, the video PID with its codec, and the continuity counter last seen by
PID with whether a duplicate was discarded. -/
structure Demux where
  synced : Bool
  lost : Bool
  skipped : Nat
  patBuf : Bytes
  pmtBuf : Bytes
  pat : List (Nat × Nat)
  patVer : Option Nat
  pmtVer : Option Nat
  video : Option (Nat × Nat)
  cc : Tbl (Nat × Bool)
  deriving DecidableEq, Repr

/-- A decoded or dropped picture that has not yet left its decoder in output order (R315): decode index, PTS, codec, its place in
output order, the breaks before it, the pictures to output, and the places in output order that it takes. -/
structure HeldPic where
  index : Nat
  pts : Option Nat
  codec : Nat
  order : Nat
  epoch : Nat
  pics : List Picture
  places : Nat
  deriving DecidableEq, Repr

/-- A picture taken into the sample in assembly (R328). -/
structure Taken where
  index : Nat
  pts : Option Nat
  codec : Nat
  pic : Picture
  deriving DecidableEq, Repr

/-- A channel (R303-R332): its owner and arguments, its profile's 64 bytes, its feeds, the bytes of the input buffer not yet
demultiplexed (each run with whether a discontinuity precedes it), the elementary stream, whether END has been fed, whether a
picture has begun, the pictures decoded, the decode index from which references may come and those dropped since, the breaks
passed, the pictures held, the next output index, the size, structure and break count of the last picture output, the pictures
that wait for a free slot (none where a gap stands), the sample in assembly (pictures, and the token rows of whole tubelets with
their scales), the metadata areas of whole samples not yet counted, whether the work object was written by host software, a
run of MISSING_REF drops (first index, PTS, codec, count), the report ring's TAIL, the HEAD last read and when, a close in DRAIN
mode, and ENDED. -/
structure Channel where
  fn : Nat
  a : MediaArgs
  profile : Bytes
  feeds : List Feed
  raw : List (Bool × Bytes)
  demux : Demux
  es : List EsRun
  endFed : Bool
  begun : Bool
  codec : Nat
  decoded : Nat
  floor : Nat
  lost : List Nat
  epoch : Nat
  held : List HeldPic
  outIndex : Nat
  shape : Option (Nat × Nat × Bool × Nat)
  queue : List (Option Taken)
  asm : List Taken
  rows : List (List Nat × List Nat)
  ready : List Bytes
  spoiled : Bool
  run : Option (Nat × Option Nat × Nat × Nat)
  tail : Nat
  head : Nat
  headAt : Option Nat
  closing : Option (List CmdHdr)
  ended : Bool
  deriving DecidableEq, Repr

/-- A decode engine (R317): the channel it served last, whether it decodes, and whether it began on a whole access unit. -/
structure Engine where
  last : Nat
  busy : Bool
  whole : Bool
  deriving DecidableEq, Repr

/-! #### Decks (R345-R352) -/

/-- A channel of a deck: its number, pool and slot run, and its SAMPLES once it has closed. -/
structure DeckChan where
  num : Nat
  pool : Nat
  first : Nat
  count : Nat
  closed : Option Nat
  deriving DecidableEq, Repr

/-- A deck: owner, arguments, channels, SLOT_BYTES, next position, the window under way or awaited and whether it has begun, the
step of START, and whether it halted or starved. -/
structure Deck where
  fn : Nat
  a : ShuffleArgs
  chans : List DeckChan
  slotBytes : Nat
  pos : Nat
  window : Nat
  begun : Bool
  started : Option Nat
  halted : Bool
  starved : Bool
  deriving DecidableEq, Repr

/-! #### Instances (R369, R378, R382) -/

/-- What a spill object holds of a frozen instance (R382): accumulator rows and rescale entries by tile * 4 + array, the
training state, serving, channels, decks, coding runs, the contexts' pages of the peg pool's slots, what each context holds on
each logical tile, codec records by handle, and the registers of the context, channel and deck blocks. -/
structure Spill where
  rows : Tbl (Tbl AccRow × Tbl (Nat × Nat))
  train : Tbl Train
  serves : Tbl Serve
  pools : Tbl (Tbl Byte)
  chans : Tbl Channel
  decks : Tbl Deck
  runs : List CodingRun
  tiles : Tbl (Tbl TileCtx)
  records : Tbl CodecRec
  regs : Tbl W64
  deriving DecidableEq, Repr

/-- A frozen instance: its spill object's handle; once an image was restored into it, the saved generation, the
contexts' numbers at the source with those here, and the queue pairs (number, SQ head, CQ tail, phase). -/
structure Frozen where
  spill : Nat
  gen : Nat
  restored : Option (List (Nat × Nat))
  qps : List (Nat × Nat × Nat × Bool)
  deriving DecidableEq, Repr

/-! #### The ranger (R409-R437) -/

/-- A management session (R416-R418): its role (1 OBSERVE, 2 MAINTAIN, 3 ADMIN), whether it is one of installation mode,
whether HELLO has selected a version, its last request, and how far its SPDM negotiation is (R424). -/
structure Session where
  role : Nat
  install : Bool
  hello : Bool
  last : Nat
  spdm : Nat
  deriving DecidableEq, Repr

/-- A firmware bank (R411, R439): its state, versions and signing key, and the digest of its image. -/
structure Bank where
  state : Nat
  svn : Nat
  major : Nat
  minor : Nat
  key : Nat
  digest : Bytes
  deriving DecidableEq, Repr

/-- The nonvolatile store and the fuses (R174, R176, R410-R417, R430): banks A and B, the preferred bank, the operator anchors (role
and certificate), the deny list, the network settings, SEAL_AT_START, the rollback counter, the revoked vendor keys, the
rows that scrub has logged as spare-row candidates and those replaced by hard repair (stack, pseudo-channel, row). -/
structure Store where
  bankA : Bank
  bankB : Bank
  prefer : Nat
  anchors : Tbl (Nat × Bytes)
  deny : Tbl Nat
  net : Option (Nat × Bytes)
  sealAtStart : Bool
  counter : Nat
  revoked : Nat
  spareLog : List (Nat × Nat × Nat)
  hardRows : List (Nat × Nat × Nat)
  deriving DecidableEq, Repr

/-- A bank that is being written (R414). -/
structure FwWrite where
  session : Nat
  bank : Nat
  data : Bytes
  deriving DecidableEq, Repr

/-! #### The tray bus (R442-R456) -/

/-- Another slot of the tray (R445, R454): when a frame last came, whether its latest PRESENCE had FLAGS[0] clear, and its
latest CAP and REQUEST. -/
structure Member where
  seen : Nat
  present : Bool
  budget : Option (Nat × Nat)
  deriving DecidableEq, Repr

/-- An open round (R446-R450): its number, whether this node proposed it, the MEMBERS mask, the end of its PROPOSE, this
node's vote, whether a no was cast, the slots whose yes the proposer holds, and the opening of last call. -/
structure Round where
  num : Nat
  mine : Bool
  mask : Nat
  began : Nat
  vote : Option Bool
  no : Bool
  yes : Nat
  window : Option Nat
  deriving DecidableEq, Repr

/-- The tray bus controller: the other slots, the open round, frames that wait to be sent (type and payload), the last ROUND
seen, when it joined the bus, when BUDGET and PRESENCE are next sent, a slot conflict, and the next retry while alone. -/
structure Tray where
  others : Tbl Member
  round : Option Round
  txq : List (Nat × Bytes)
  lastRound : Nat
  joined : Option Nat
  budgetAt : Nat
  presenceAt : Nat
  mute : Bool
  retryAt : Nat
  deriving DecidableEq, Repr

/-- The state of the block. -/
structure State where
  pending : List Instr
  freeCtr : Nat
  out : List Output
  timeBase : Nat                 -- R474
  cycle : Nat                    -- R474
  regs : Tbl W64
  latch : Tbl (Nat × Nat)        -- by reader: the register latched and its high half (R367)
  held : Tbl Nat                 -- by reader and register: the low half that is held (R367)
  host : Tbl Byte                -- host memory, by function and bus address (R158, R373)
  hostDead : List Nat            -- 4 KiB pages of host memory that answer with an error (R159, R374)
  pba : List (Nat × Nat)         -- MSI-X pending bits (R364)
  msixOff : List Nat             -- functions whose MSI-X is disabled in configuration space (R364)
  vfEnable : Bool                -- R369
  linkUp : Bool                  -- the PCIe link (R363)
  pins : Pins
  power : Power
  start : Startup
  faultSeq : FaultSeq
  qps : Tbl Qp                   -- by function * 1024 + pair
  taken : List Instr             -- commands fetched and not yet executed (R376)
  owed : List Owed
  ctxFn : Tbl Nat                -- the function that last loaded each context number (R110, R365)
  chanFn : Tbl Nat               -- the function that opened each channel (R306)
  sample : Tbl W64               -- coarsened registers at the last 1 ms boundary (R432)
  siteMap : Tbl Nat              -- logical tile to physical site (R18, R20)
  diesOn : Nat                   -- bit d: die Td is powered (R34)
  ports : Tbl StorePort          -- by site (R28)
  bar2q : List Instr             -- BAR2 reads that wait for an earlier BAR2 write, and what follows them (R148)
  ctxs : Tbl Ctx
  sites : Tbl Site
  mesh : List MeshFlit           -- flits on their way to a LOCAL port, oldest first
  loads : List LoadReq
  loading : Option Loading
  tileStore : Tbl Byte           -- by logical tile * 4 MiB + byte (R149)
  errs : List (ErrPlace × Bool)  -- soft errors not yet met; true where they cannot be corrected
  near : Tbl Byte                -- near store by stack * 2^40 + frame * 2 MiB + byte (R155)
  poison : List Nat              -- poisoned sectors, by near-store address / 64 (R154)
  farPoison : List Nat           -- sectors of far pages that migration wrote as poison, by host key / 64 (R167)
  farUnits : Nat                 -- units that take far-store packs by the assignment in force (R184)
  softRows : List (Nat × Nat × Nat) -- rows replaced by soft repair at this start: stack, pseudo-channel, row (R176)
  granOwner : Tbl Nat            -- by stack * 64 + granule: the instance that holds it; unlisted: the pool (R368)
  objs : Tbl Obj                 -- by function * 32768 + handle (R163)
  ptab : Tbl Byte                -- the bytes of placement tables that host software writes, by function * 2 MiB + byte
  places : List PlaceReq         -- in the order of their PLACE commands (R166)
  farPool : Tbl (List Nat)       -- by function: its registered host pages (R158)
  uns : List Unsched
  nextUns : Nat
  dmas : List Dma
  runs : List CodingRun
  lastUnit : Tbl (Nat × Nat)     -- by part-wide pool: when a command last took a unit of it, and that command's pair (R383)
  salts : Tbl (List Nat)         -- by codec unit: its pool (R198)
  keys : Tbl Bytes               -- by slot: tenant keys (R427)
  drbg : Option Drbg             -- the DRBG while it serves (R354)
  drbgReqs : Nat                 -- generate requests since the last reseed
  drbgAt : Nat                   -- AON time of the last reseed
  pitchKeys : Tbl Bytes          -- by slot: pitch-signing keys, x and y (R95, R429)
  fab : Tbl FabPort              -- by port (R384)
  train : Tbl Train              -- by training context (R236)
  endings : List Ending          -- ENDs that wait for room in their ring (R233)
  serves : Tbl Serve             -- by context (R277)
  chans : Tbl Channel            -- by channel number (R303)
  engines : Tbl Engine           -- by physical engine (R317)
  decks : Tbl Deck               -- by context (R345)
  instCmd : Tbl (List CmdHdr)    -- by instance: commands that wait for its reset, destruction or freeze
  spills : Tbl Spill             -- spill objects' contents by number (R382)
  frozen : Tbl Frozen            -- by frozen instance (R382)
  sessions : Tbl Session         -- open management sessions (R416)
  store : Store
  fw : Option FwWrite
  tray : Tray
  waiting : List Instr           -- accesses that came in SLEEP and wait until the part is ACTIVE (R485)
  deriving DecidableEq, Repr

/-- The machine right after an always-on power-up: part reset is held until SUPPLY_OK and PERST_N have risen. -/
def State.reset : State where
  pending := []
  freeCtr := 0
  out := []
  timeBase := 0
  cycle := 0
  regs := []
  latch := []
  held := []
  host := []
  hostDead := []
  pba := []
  msixOff := []
  vfEnable := true
  linkUp := false
  pins := { aon := true, supplyOk := false, perstN := false, fabClk := true, pcieClk := true, slotId := 0, portMode := 0 }
  power := { rest := .awake, restAt := 0, quietSince := 0, dip := none, slew := none, nextTick := 0, hot := 0, overMs := 0,
             underMs := 0, msMean := 0, winSum := 0, winCount := 0, winMean := 0, allowance := 180, avsLimited := false,
             saved := none }
  start := { inReset := true, running := false, t0 := 0, began := 0, fromCamp := false, toCamp := none, thermalWait := false }
  faultSeq := { phase := .none, since := 0 }
  qps := []
  taken := []
  owed := []
  ctxFn := []
  chanFn := []
  sample := []
  siteMap := []
  diesOn := 0
  ports := []
  bar2q := []
  ctxs := []
  sites := []
  mesh := []
  loads := []
  loading := none
  tileStore := []
  errs := []
  near := []
  poison := []
  farPoison := []
  farUnits := 0
  softRows := []
  granOwner := []
  objs := []
  ptab := []
  places := []
  farPool := []
  uns := []
  nextUns := 0
  dmas := []
  runs := []
  lastUnit := []
  salts := []
  keys := []
  drbg := none
  drbgReqs := 0
  drbgAt := 0
  pitchKeys := []
  fab := []
  train := []
  endings := []
  serves := []
  chans := []
  engines := []
  decks := []
  instCmd := []
  spills := []
  frozen := []
  sessions := []
  store := { bankA := { state := 1, svn := 0, major := 1, minor := 0, key := 0, digest := [] },
             bankB := { state := 0, svn := 0, major := 0, minor := 0, key := 0, digest := [] },
             prefer := 0, anchors := [], deny := [], net := none, sealAtStart := true, counter := 0, revoked := 0,
             spareLog := [], hardRows := [] }
  fw := none
  tray := { others := [], round := none, txq := [], lastRound := 0, joined := none, budgetAt := 0, presenceAt := 0,
            mute := false, retryAt := 0 }
  waiting := []

end Sys2Proof.Machine
end

