-- ==== Sys2Proof/Machine/Ops.lean ====
section
/-! DEFINITION. The shared operations over State: registers and their fields, counters, cause bits, the interrupt
tree, free values, host memory, completions, chip faults. -/

namespace Sys2Proof.Machine

/-- The three outcomes of a command. -/
abbrev Out := Host.Outcome State Fault Refusal

/-- Apply `f` when `b` holds; otherwise leave the state as it is. -/
def onlyIf (b : Bool) (f : State → State) (s : State) : State := if b then f s else s

/-- `old` with bits `hi` to `lo` replaced by `v`. -/
def setBits (old hi lo v : Nat) : Nat :=
  old - bitsOf old hi lo * 2 ^ lo + (v % 2 ^ (hi + 1 - lo)) * 2 ^ lo

/-! ### Registers -/

/-- The value a register holds (R5, R6). -/
def getR (s : State) (k : Nat) : Nat := ((tget s.regs k).map (·.toNat)).getD (resetOf k)

/-- Set a register, keeping the file's canonical form. -/
def setR (s : State) (k v : Nat) : State :=
  let w := v % 2 ^ widthOf k
  { s with regs := if w = resetOf k then tdel s.regs k else tput s.regs k (BitVec.ofNat 64 w) }

/-- A field of a register. -/
def fld (s : State) (k hi lo : Nat) : Nat := bitsOf (getR s k) hi lo

/-- Set a field of a register. -/
def setF (s : State) (k hi lo v : Nat) : State := setR s k (setBits (getR s k) hi lo v)

/-- One bit of a register. -/
def bitR (s : State) (k b : Nat) : Bool := (getR s k).testBit b

/-- Set one bit of a register. -/
def setB (s : State) (k b : Nat) (v : Bool) : State := setF s k b b (if v then 1 else 0)

/-- The number whose bit i is `p i`, for i below `w`. -/
def maskOf (w : Nat) (p : Nat → Bool) : Nat := ((List.range w).map (fun i => if p i then 2 ^ i else 0)).foldl (· + ·) 0

/-- Set the bits of a mask. -/
def orR (s : State) (k m : Nat) : State := setR s k (getR s k ||| m)

/-- Return a register to its Reset value (R6). -/
def resetR (s : State) (k : Nat) : State := { s with regs := tdel s.regs k }

/-- Return every register whose key lies from `a` up to but not including `b` to its Reset value (R508). -/
def resetRange (s : State) (a b : Nat) : State :=
  { s with regs := s.regs.filter (fun e => e.1 < a || b ≤ e.1) }

/-- Add to a 64-bit counter. -/
def addR (s : State) (k n : Nat) : State := setR s k (getR s k + n)

/-- Add to a 32-bit event counter, which saturates (R65). -/
def satR (s : State) (k n : Nat) : State := setR s k (min (getR s k + n) 0xFFFFFFFF)

/-- Raise a high-water mark. -/
def maxR (s : State) (k n : Nat) : State := setR s k (max (getR s k) n)

/-- The next free value: what the spec leaves open, as `w` bits (log entry 3). -/
def freshVal (s : State) (w : Nat) : Nat × State :=
  (Config.freeValue s.freeCtr % 2 ^ w, { s with freeCtr := s.freeCtr + 1 })

/-- Record something that leaves the part. -/
def emit (s : State) (o : Output) : State := { s with out := s.out ++ [o] }

/-! ### Service states -/

/-- Early service (R494). -/
def early (s : State) : Bool := bitR s Reg.POWER_STATE 25
/-- Full service (R493). -/
def full (s : State) : Bool := bitR s Reg.POWER_STATE 24
/-- Base camp (R497). -/
def baseCamp (s : State) : Bool := bitR s Reg.POWER_STATE 23
/-- The part offers service of either kind, outside base camp and part reset. -/
def inService (s : State) : Bool := (early s || full s) && !baseCamp s && !s.start.inReset
/-- NAP, or the wake from it: the compute units of tiles outside a resident reserved set are gated (R483). -/
def napping (s : State) : Bool := s.power.rest == .nap || s.power.rest == .leavingNap
/-- The part is awake: neither in DOZE nor in any phase of SLEEP (R481). -/
def awake (s : State) : Bool := s.power.rest == .awake || napping s
/-- The part is in SLEEP or on its way in or out (R485). -/
def sleeping (s : State) : Bool :=
  match s.power.rest with
  | .sleep => true
  | .waking _ => true
  | _ => false
/-- The ranger runs: after start-up step 4 (R493). -/
def rangerUp (s : State) : Bool := !s.start.inReset && (fld s Reg.POWER_STATE 28 26 == 0 || 4 < fld s Reg.POWER_STATE 28 26)
/-- The sealed state of RWL fields (R430). -/
def isSealed (s : State) : Bool := bitR s Reg.RANGER_STATUS 28
/-- QUIESCED reads 1 (R472). -/
def quiescedNow (s : State) : Bool := bitR s Reg.FAULT_STATUS 31
/-- No chip fault keeps contexts from running: callers issue and engines take work (R466). -/
def healthy (s : State) : Bool := s.faultSeq.phase == .none && inService s

/-! ### The cause tree (R461, R462) -/

/-- Whose view a leaf belongs to besides the physical function's (R464). -/
inductive LeafOwner where
  | part
  | ctx (c : Nat)
  | chan (n : Nat)
  | fn (f : Nat)
  deriving DecidableEq, Repr

/-- The group of a cause register, the key of its mask register, and its owner; none for any other key. -/
def leafOf (k : Nat) : Option (Nat × Nat × LeafOwner) :=
  if 0x100000000 ≤ k then
    if k = Reg.MGMT_CAUSE then some (11, Reg.MGMT_MASK, .part)
    else if k < Reg.rangerBase ∧ k % 0x100000000 = 0x2014 then some (10, k + 4, .fn (k / 0x100000000))
    else none
  else if 0x1000000 ≤ k then
    let o := k % 0x10000
    if o = 0xA0 ∨ o = 0x104 then some (1, k + 4, .part)
    else if 0x200 ≤ o ∧ o < 0x300 ∧ o % 0x40 = 0x30 then some (1, k + 4, .part)
    else none
  else if k = 0x10014 then some (10, k + 4, .fn 0)
  else if k = Reg.MEM_CAUSE then some (2, k + 4, .part)
  else if 0x300000 ≤ k ∧ k < 0x300800 ∧ k % 0x100 = 4 then some (3, k + 4, .part)
  else if 0x400000 ≤ k ∧ k < 0x400800 ∧ k % 0x100 = 4 then some (4, k + 4, .part)
  else if k = Reg.VOTE_CAUSE then some (4, k + 4, .part)
  else if 0x401000 ≤ k ∧ k < 0x402000 ∧ k % 0x40 = 0x30 then some (5, k + 4, .ctx ((k - 0x401000) / 0x40))
  else if 0xC1000 ≤ k ∧ k < 0xC3000 ∧ k % 0x80 = 4 then some (5, k + 4, .ctx ((k - 0xC1000) / 0x80))
  else if 0x601000 ≤ k ∧ k < 0x602000 ∧ k % 0x40 = 4 then some (5, k + 4, .ctx ((k - 0x601000) / 0x40))
  else if k = Reg.MEDIA_CAUSE then some (6, k + 4, .part)
  else if 0x501000 ≤ k ∧ k < 0x521000 ∧ k % 0x20 = 4 then some (7, k + 4, .chan ((k - 0x501000) / 0x20))
  else if k = Reg.RANDOM_CAUSE then some (8, k + 4, .part)
  else if k = Reg.FAB_CAUSE then some (9, k + 4, .part)
  else if 0x700100 ≤ k ∧ k < 0x700500 ∧ k % 0x80 = 8 then some (9, k + 4, .part)
  else if k = Reg.TRAY_CAUSE then some (12, k + 4, .part)
  else if k = Reg.POWER_CAUSE then some (13, k + 4, .part)
  else none

/-- The function that loaded a context number last, whose view its blocks are in (R365, R464). -/
def ctxOwner (s : State) (c : Nat) : Option Nat := tget s.ctxFn c

/-- Whether a leaf lies in a function's view (R464). -/
def inView (s : State) (f : Nat) : LeafOwner → Bool
  | .part => f == 0
  | .ctx c => f == 0 || tget s.ctxFn c == some f
  | .chan n => f == 0 || tget s.chanFn n == some f
  | .fn g => f == 0 || g == f

/-- The pending bits of the cause register at a key (R461). -/
def pendingBits (s : State) (k : Nat) : Nat :=
  match leafOf k with
  | none => 0
  | some (_, m, _) => getR s k &&& (0xFFFFFFFF ^^^ getR s m)

/-- The groups pending in a function's view, bit g for group g (R461, R464). -/
def groupsOf (s : State) (f : Nat) : Nat :=
  let g0 := if bitR s Reg.FAULT_STATUS 0 || bitR s Reg.RECOVERY_REPORT 29 then 1 else 0
  s.regs.foldl (fun acc e => match leafOf e.1 with
    | none => acc
    | some (g, m, o) =>
      if inView s f o && (e.2.toNat &&& (0xFFFFFFFF ^^^ getR s m)) != 0 then acc ||| 2 ^ g else acc) g0

/-- The tree runs: the ranger has started it and the part is not in part reset (R463). -/
def treeUp (s : State) : Bool := rangerUp s

/-- ALERT_N is driven low (R463). -/
def alertLow (s : State) : Bool :=
  baseCamp s || (treeUp s && (groupsOf s 0 &&& (0xFFFFFFFF ^^^ getR s Reg.ALERT_MASK)) != 0)

/-- Send, or hold pending, a message on a vector (R464). -/
def msixTo (s : State) (f v : Nat) : State :=
  if f ∈ s.msixOff ∨ ¬ s.linkUp then s
  else if bitR s (Reg.MSIX_TABLE f v + 12) 0 then
    { s with pba := if (f, v) ∈ s.pba then s.pba else s.pba ++ [(f, v)] }
  else emit s (.msix f v)

/-- The vector of a group in a function (R470). -/
def groupVector (s : State) (f g : Nat) : Nat := bitsOf (getR s (Reg.GROUP_VECTOR f (g / 4))) (8 * (g % 4) + 7) (8 * (g % 4))

/-- The message of a group in a function (R464). -/
def groupMsg (f : Nat) (s : State) (g : Nat) : State := msixTo s f (groupVector s f g)

/-- The functions that exist: the physical function, and every instance that is not absent. -/
def liveFns (s : State) : List Nat :=
  0 :: (upFrom 1 31).filter (fun i => fld s (Reg.INST_STATE i) 2 0 != 0)

/-- Send a function's group messages for what became pending between two states, and for RECOVERED (R464). -/
def fnMsgs (s t : State) (u : State) (f : Nat) : State :=
  let was := groupsOf s f
  let now := groupsOf t f
  let rise := (List.range 14).filter (fun g => now.testBit g && !was.testBit g)
  let again := if now.testBit 0 && was.testBit 0 && bitR t Reg.RECOVERY_REPORT 29 && !bitR s Reg.RECOVERY_REPORT 29
    then [0] else []
  (rise ++ again).foldl (groupMsg f) u

/-! ### The end of every command -/

/-- A function's generation (R371, R372): an instance's stands in its record. -/
def genOf (s : State) (f : Nat) : Nat := if f = 0 then fld s (Reg.FN_STATUS 0) 31 16 else fld s (Reg.INST_STATE f) 31 16

/-! ### Chip faults (R465, R466) -/

/-- The part leaves DOZE (R482). -/
def leaveDoze (s : State) : State :=
  if s.power.rest = .doze then
    satR { s with power := { s.power with rest := .awake, restAt := s.timeBase } } Reg.DOZE_EXITS 1
  else s

/-! ### The tray bus controller's queue (R445, R451, R455) -/

/-- This node's slot. -/
def mySlot (s : State) : Nat := fld s Reg.TRAY_STATUS 27 24

/-- The controller is on the bus and may transmit (R445, R456). -/
def mayTransmit (s : State) : Bool := s.pins.aon && bitR s Reg.TRAY_STATUS 31 && !s.tray.mute

/-- Change the tray state. -/
def trayMod (f : Tray → Tray) (s : State) : State := { s with tray := f s.tray }

/-- Queue a frame; of PRESENCE and BUDGET only the newest stays queued (R455). -/
def queueFrame (ty : Nat) (data : List Nat) (s : State) : State :=
  if mayTransmit s then
    let b := slice (data.map (BitVec.ofNat 8)) 0 8
    trayMod (fun t => { t with txq := (if ty = 0x10 ∨ ty = 0x20 then t.txq.filter (fun e => e.1 != ty) else t.txq) ++ [(ty, b)] }) s
  else s

/-- The number of the open round, 0 without one. -/
def roundNum (s : State) : Nat := (s.tray.round.map (·.num)).getD 0

/-- WAKE is queued with a REASON (R451). -/
def queueWake (reason : Nat) (s : State) : State :=
  queueFrame 1 [reason, if reason = 3 ∨ reason = 4 then roundNum s else 0] s

/-! ### Wake causes (R482, R485) -/

/-- AON cycles in a millisecond and a microsecond (R473). -/
def msAon : Nat := 25000
def usAon : Nat := 25

/-- A wake cause of SLEEP arrives; `own` is a cause other than a tray WAKE, which wakes the peers too (R451). One that arrives within
the 5 ms of the entry undoes the entry. -/
def sleepWake (own : Bool) (s : State) : State :=
  if s.power.rest = .sleep then
    let s := if own && bitR s Reg.TRAY_CONFIG 1 then queueWake 2 s else s
    { s with power := { s.power with rest := .waking (s.timeBase < s.power.restAt + 5 * msAon), restAt := s.timeBase } }
  else s

/-- A TLP to the part, or an access of management to space 0: it ends DOZE; in SLEEP it starts the wake and waits until the part is
ACTIVE (R482, R485). -/
def access (i : Instr) (body : State → State) (s : State) : State :=
  if sleeping s then (fun t => { t with waiting := t.waiting ++ [i] }) (sleepWake true s) else body (leaveDoze s)

/-- The tiles of resident contexts that NAP gated are in RUN again (R26). -/
def ungate (s : State) : State :=
  (s.ctxs.flatMap (fun e => e.2.tiles.map (·.1))).foldl (fun s site =>
    if fld s (Reg.TILE_POWER site) 2 0 = 2 then setF s (Reg.TILE_POWER site) 2 0 0 else s) s

/-- A chip fault in DOZE or NAP wakes the part first (R498). -/
def wakeForFault (s : State) : State :=
  if s.power.rest = .doze then leaveDoze s
  else if napping s then
    ungate <| setF (setB { s with power := { s.power with rest := .awake, restAt := s.timeBase } } Reg.POWER_CONTROL 31 false)
      Reg.POWER_STATE 31 29 0
  else s

/-- Raise a chip fault with a code and its DETAIL. The fault that begins a sequence is recorded; every further one
counts and sets SECONDARY; of those of one AON cycle the lowest code is the one recorded. -/
def chipFault (code detail : Nat) (s : State) : State :=
  let rec' := fun (u : State) => setR (setR u Reg.FAULT_CODE (code * 0x1000000 + detail)) Reg.FAULT_TIME s.timeBase
  let s := wakeForFault (satR s Reg.FAULT_COUNT 1)
  if s.faultSeq.phase = .none then
    let u := setB (setB (rec' s) Reg.FAULT_STATUS 0 true) Reg.FAULT_STATUS 29 false
    { u with faultSeq := { phase := .sequence, since := s.timeBase } }
  else
    let s := setB s Reg.FAULT_STATUS 29 true
    if s.faultSeq.phase = .sequence ∧ s.faultSeq.since = s.timeBase ∧ code < fld s Reg.FAULT_CODE 31 24 then rec' s
    else s

/-! ### Host memory (R158, R373) -/

/-- Where a byte of host memory stands: the function that issues the access, and its bus address. -/
def hostKey (f a : Nat) : Nat := f * 2 ^ 64 + a % 2 ^ 64

/-- Every page of an access answers. -/
def hostOk (s : State) (f a n : Nat) : Bool :=
  s.hostDead.all (fun p => hostKey f a + n ≤ p * 4096 || (p + 1) * 4096 ≤ hostKey f a)

/-- Read host memory. -/
def hostRead (s : State) (f a n : Nat) : Bytes := mread s.host (hostKey f a) n

/-- Write host memory. -/
def hostWrite (s : State) (f a : Nat) (bs : Bytes) : State := { s with host := mwrite s.host (hostKey f a) bs }

/-! ### Queue pairs and completions (R373-R379) -/

/-- The queue pair's place in `State.qps`. -/
def qpKey (f q : Nat) : Nat := f * 1024 + q

/-- A queue pair's inner state; a pair that was never enabled holds zeros. -/
def qpGet (s : State) (f q : Nat) : Qp := tgetD s.qps (qpKey f q) { sqTail := 0, cqTail := 0, cqHead := 0, phase := true }

/-- Set a queue pair's inner state. -/
def qpPut (s : State) (f q : Nat) (p : Qp) : State := { s with qps := tput s.qps (qpKey f q) p }

/-- The queue pair is enabled and running (R373). -/
def qpEnabled (s : State) (f q : Nat) : Bool := bitR s (Reg.QP_STATUS f q) 31

/-- Stop a pair with FAULT and raise QUEUE_FAULT (R374). -/
def qpFault (s : State) (f q code : Nat) : State :=
  let s := setF (setB (setB s (Reg.QP_STATUS f q) 31 false) (Reg.QP_STATUS f q) 30 true) (Reg.QP_STATUS f q) 29 24 code
  orR s (Reg.FN_CAUSE f) 8

/-- Discard a late completion and count it (R377). -/
def lateDiscard (s : State) (f : Nat) : State :=
  let s := satR (orR s (Reg.FN_CAUSE f) 2) (Reg.LATE_DISCARDS f) 1
  if f = 0 then s else satR s (Reg.INST_LATE f) 1

/-- The 32 bytes of a completion (R376). -/
def cqeBytes (h : CmdHdr) (sqHead kflags status result extra : Nat) : Bytes :=
  natLe 2 h.cid ++ natLe 2 h.gen ++ natLe 2 sqHead ++ natLe 1 h.qp ++ natLe 1 kflags ++ natLe 1 status ++ natLe 3 0
    ++ natLe 4 result ++ natLe 8 h.tag ++ natLe 8 extra

/-- The number of CQ entries of a pair (R373). -/
def cqSize (s : State) (f q : Nat) : Nat := 2 ^ fld s (Reg.QP_CONFIG f q) 15 8
/-- The number of SQ entries of a pair (R373). -/
def sqSize (s : State) (f q : Nat) : Nat := 2 ^ fld s (Reg.QP_CONFIG f q) 7 0

/-- Once ENABLE is 0 and every fetched command has posted its completions, the pair stops, and the events that are
still owed are discarded and counted (R374). -/
def qpDrain (s : State) (f q : Nat) : State :=
  let mine := s.owed.filter (fun o => o.hdr.fn.val == f && o.hdr.qp == q)
  if qpEnabled s f q && !bitR s (Reg.QP_CONFIG f q) 31 && mine.all (fun o => o.left == 0) then
    let s := satR s (Reg.LATE_DISCARDS f) (mine.filter (·.event)).length
    let s := setB s (Reg.QP_STATUS f q) 31 false
    { s with owed := s.owed.filter (fun o => !(o.hdr.fn.val == f && o.hdr.qp == q)) }
  else s

/-- Write one completion to its CQ, flipping PHASE on a wrap, and raise the vector (R373, R374). -/
def postCqe (s : State) (h : CmdHdr) (sqHead kind status result extra : Nat) : State :=
  let f := h.fn.val
  let q := h.qp
  if !qpEnabled s f q then lateDiscard s f
  else
    let p := qpGet s f q
    let a := getR s (Reg.CQ_BASE f q) + p.cqTail * 32
    if !hostOk s f a 32 then qpFault s f q 3
    else
      let s := hostWrite s f a (cqeBytes h sqHead (kind * 2 + (if p.phase then 1 else 0)) status result extra)
      let t := (p.cqTail + 1) % cqSize s f q
      let s := qpPut s f q { p with cqTail := t, phase := if t = 0 then !p.phase else p.phase }
      if bitR s (Reg.QP_CONFIG f q) 30 && !h.noIrq then msixTo s f (fld s (Reg.QP_CONFIG f q) 23 16) else s

/-- Whether two headers name the same command. -/
def sameCmd (a b : CmdHdr) : Bool := a.fn == b.fn && a.qp == b.qp && a.cid == b.cid && a.gen == b.gen && a.tag == b.tag

/-- A completion of a command, subject to the generation check (R376, R377): `kind` 0 only or last, 1 acceptance with
a completion still to come, 2 event. -/
def complete (kind status result extra : Nat) (h : CmdHdr) (s : State) : State :=
  match s.owed.find? (fun o => sameCmd o.hdr h) with
  | none => s
  | some o =>
    let o' : Owed := { o with left := if kind = 0 then 0 else if kind = 1 then o.left - 1 else o.left, first := true,
                              event := o.event && kind == 1 }
    let rest := s.owed.erase o
    let s := { s with owed := if o'.left = 0 ∧ ¬ o'.event then rest else rest ++ [o'] }
    let s := if h.gen ≠ genOf s h.fn.val then lateDiscard s h.fn.val
      else postCqe s h o.sqHead kind status result extra
    qpDrain s h.fn.val h.qp

/-- The last completion of a command that was executed: DONE, with its result code and DETAIL (R376, R379). -/
def finish (h : CmdHdr) (code detail extra : Nat) (s : State) : State :=
  complete 0 0 (code * 0x1000000 + detail % 0x1000000) extra h s

/-- The completion of a command that was not executed, with an envelope STATUS (R379). -/
def reject (h : CmdHdr) (status : Nat) (s : State) : State := complete 0 status 0 0 h s

/-- The part-wide pools of R383. -/
inductive Pool where
  | contexts
  | channels
  | records
  deriving DecidableEq, Repr

/-- A pool's place in `State.lastUnit`. -/
def Pool.num : Pool → Nat
  | .contexts => 0
  | .channels => 1
  | .records => 2

/-- A command that came at AON time `t` has taken a unit of a part-wide pool. -/
def tookUnit (p : Pool) (t : Nat) (h : CmdHdr) (s : State) : State :=
  { s with lastUnit := tput s.lastUnit p.num (t, qpKey h.fn.val h.qp) }

/-- A command of another function or pair that came in the same AON cycle took the last unit of a pool (R383). -/
def lostTie (s : State) (p : Pool) (t : Nat) (h : CmdHdr) : Bool :=
  match tget s.lastUnit p.num with
  | some (u, k) => u == t && k != qpKey h.fn.val h.qp
  | none => false

/-- A command finds a part-wide pool empty: RETRY where it lost a tie-break, else its own code (R379, R383). -/
def poolEmpty (p : Pool) (t code : Nat) (h : CmdHdr) (s : State) : State :=
  if lostTie s p t h then reject h 7 s else finish h code 0 0 s

/-- An access error of a function: ACCESS_ERROR, and a capture in ACCESS_LOG unless one is held (R366, R371). -/
def accessError (f kind off : Nat) (s : State) : State :=
  let s := orR s (Reg.FN_CAUSE f) 1
  if bitR s (Reg.ACCESS_LOG f) 31 then s else setR s (Reg.ACCESS_LOG f) (2 ^ 31 + kind * 2 ^ 28 + off % 2 ^ 26)

/-! ### NAP (R483) -/

/-- Every used tile of a pitch lies in its reserved set. -/
def reservedOnly (p : Pitch) : Bool := p.tileMap.all (fun b => !b.toNat.testBit 0 || b.toNat.testBit 2)

/-- A context whose commands, batches and posts do not end NAP. -/
def napKeeps (s : State) (c : Nat) : Bool := match tget s.ctxs c with | some x => reservedOnly x.pitch | none => false

/-- An event that ends NAP has come: the part clears POWER_CONTROL.NAP, and NAP_EXIT follows. -/
def endNap (s : State) : State := if s.power.rest = .nap then setB s Reg.POWER_CONTROL 31 false else s

/-! ### The service order of unscheduled requests (R171) -/

/-- A request's age (R171). -/
def ageOf (s : State) (u : Unsched) : Nat := (s.timeBase + 65536 - u.ticket) % 65536

/-- An arbiter serves request `a` before `b` (R171): overdue requests first in order of their arrival, then the greatest age, then
the lower group, the lower function, and the one that entered first. -/
def servedBefore (s : State) (a b : Unsched) : Bool :=
  if a.overdue || b.overdue then a.overdue && (!b.overdue || a.id < b.id)
  else if ageOf s a != ageOf s b then ageOf s b < ageOf s a
  else if a.group != b.group then a.group < b.group
  else if a.fn != b.fn then a.fn < b.fn
  else a.id < b.id

/-- No waiting request that is served earlier meets a request of these pseudo-channels and banks (R171). A request of several
64-byte accesses holds back no other, since each of its accesses has a ticket of its own (log entry 90). -/
def mayServe (s : State) (id : Nat) : Bool :=
  match s.uns.find? (fun u => u.id == id) with
  | none => true
  | some u => s.uns.all (fun x => x.id == id || !x.whole || !x.keys.any u.keys.contains || !servedBefore s x u)

/-! ### Device conditions used everywhere -/

/-- Tile cycles that pass in one AON cycle: the tile frequency in force in units of 25 MHz, half of it while the
clocks are halved (R474, R475, R490). -/
def tileRate (s : State) : Nat :=
  let f := fld s Reg.CLOCK_STATUS 31 24
  if bitR s Reg.CLOCK_STATUS 15 then f / 2 else f

/-- The shape of a function: its tile groups, decode engines, pairs and peg slots (R368); the physical function's is
its pools. -/
def shapeTiles (s : State) (f : Nat) : Nat := if f = 0 then getR s Reg.POOL_TILES else getR s (Reg.INST_TILES f)
def shapeDecode (s : State) (f : Nat) : Nat :=
  if f = 0 then getR s Reg.POOL_DECODE_LO + getR s Reg.POOL_DECODE_HI * 2 ^ 32
  else getR s (Reg.INST_DECODE_LO f) + getR s (Reg.INST_DECODE_HI f) * 2 ^ 32
def shapeQps (s : State) (f : Nat) : Nat :=
  if f = 0 then fld s Reg.POOL_QP_PEG 27 17 else fld s (Reg.INST_QP_PEG f) 6 0
def shapePegs (s : State) (f : Nat) : Nat :=
  if f = 0 then fld s Reg.POOL_QP_PEG 16 0 else fld s (Reg.INST_QP_PEG f) 24 8

/-- A function is active: the physical function always, an instance in state 1 (R369). Its pairs are fetched, and its pages, channels, decks,
batches and coding runs may begin new work, which they do not while it is freezing or frozen (R382). -/
def fnActive (s : State) (f : Nat) : Bool := f == 0 || fld s (Reg.INST_STATE f) 2 0 == 1

end Sys2Proof.Machine
end

