-- ==== Sys2Proof/Machine/Settle.lean ====
section
/-! DEFINITION. The end of every command: the messages of the interrupt tree follow what the command changed (R462,
R464), and the time since which the DOZE conditions hold is kept (R482). -/

namespace Sys2Proof.Machine

/-- What a context does in its step stands still: no sweep task, no vote open (R482). -/
def trainIdle (t : Train) : Bool := t.tasks.isEmpty && t.vote.flag.isNone

/-- A move still has packs for a codec unit (R482). -/
def codecWork (f : Flight) : Bool :=
  match f.work with
  | .fetch _ m => !m.left.isEmpty
  | .store _ m => !m.left.isEmpty
  | _ => false

/-- A tile holds a timed wake within 4 us: a SLEEP that waits, or a park until a cycle (R482). -/
def wakesSoon (s : State) (t : TileCtx) : Bool :=
  let lim := s.cycle + 100 * tileRate s
  (match t.sleep with | some w => decide (w < lim) | none => false)
    || (match t.park with | some (.time w) => decide (w < lim) | _ => false)

/-- Every DOZE condition of R482 holds but the tile condition, R483's too. -/
def idleCond (s : State) : Bool :=
  s.taken.isEmpty && s.owed.all (fun o => o.left == 0)
    && s.runs.isEmpty && s.sites.all (fun e => e.2.flights.all (fun f => !codecWork f))
    && s.train.all (fun e => trainIdle e.2) && s.engines.all (fun e => !e.2.busy) && s.chans.all (fun e => e.2.ready.isEmpty)
    && s.decks.all (fun e => !e.2.begun || e.2.halted) && s.dmas.isEmpty && s.places.isEmpty
    && !bitR s Reg.MAINT_HOLDERS 0
    && s.ctxs.all (fun e => e.2.tiles.all (fun t => t.2.vote.isNone && !wakesSoon s t.2))
    && s.fab.all (fun e => e.2.txq.isEmpty && e.2.replay.isEmpty)
    && s.bar2q.isEmpty && s.ports.all (fun e => e.2.held.isEmpty && e.2.behind.isEmpty)

/-- The DOZE conditions of R482, but for the time they have held. -/
def dozeCond (s : State) : Bool :=
  idleCond s && s.ctxs.all (fun e => e.2.tiles.all (fun t => fld s (Reg.TILE_POWER t.1) 2 0 != 0))

/-- The DOZE timer: it stands at the present time while the conditions do not hold (R482). -/
def dozeTimer (s : State) : State :=
  if dozeCond s then s else { s with power := { s.power with quietSince := s.timeBase } }

/-- What follows every command, whose effect took `s` to `t`: MSI-X messages for the groups that became pending in
each function's view, and the DOZE timer. -/
def settle (s t : State) : State := dozeTimer ((liveFns t).foldl (fnMsgs s t) t)

/-- A command's outcome: the next state, once the tree has followed (R462). The queue is not the command's. -/
def commit (s t : State) : Out := .next { settle s t with pending := s.pending }

end Sys2Proof.Machine
end

