-- ==== Sys2Proof/Machine/HostCmd.lean ====
section
/-! DEFINITION. How the execution of a host command begins: it was fetched and waits (R376), and what a fault sequence
makes of it (R467). -/

namespace Sys2Proof.Machine

/-- What a command does while the part is QUIESCED (R467): it still runs, it has a code of its own for a chip fault, or
it completes with the envelope status QUIESCED. -/
inductive Quiet where
  | runs
  | code (n : Nat)
  | refused
  deriving DecidableEq, Repr

/-- A command that ends NAP when it is taken (R483). A batch's own context stands in its descriptor, so SUBMIT_BATCH ends it
in its own meaning. -/
def napEnds (s : State) : Instr → Bool
  | .loadPitch _ _ _ => true
  | .replace _ c _ _ => !napKeeps s c
  | .start _ a => !napKeeps s a.ctx
  | .unload _ c _ => !napKeeps s c
  | .post _ c _ _ _ => !napKeeps s c
  | .cacheCommit _ c => !napKeeps s c
  | _ => false

/-- The channel on which a command feeds or closes, with its function. -/
def mediaChan : Instr → Option (FnId × Nat)
  | .mediaFeed h n _ _ _ => some (h.fn, n)
  | .mediaClose h n _ => some (h.fn, n)
  | _ => none

/-- MEDIA_FEED and MEDIA_CLOSE of one channel take effect in the order in which they were taken (R307, R383). -/
def inTurn (s : State) (i : Instr) : Bool :=
  match mediaChan i with
  | none => true
  | some k => (s.taken.takeWhile (· != i)).all (fun j => mediaChan j != some k)

/-- Execute a fetched command once. During steps 1-5 of a fault sequence it stays outstanding until step 5 (R467); while
QUIESCED and in recovery it follows its `Quiet`. -/
def hostCmd (i : Instr) (h : CmdHdr) (q : Quiet) (body : State → State) (s : State) : State :=
  if i ∈ s.taken ∧ inTurn s i ∧ s.faultSeq.phase ≠ .sequence ∧ awake s then
    let s := { s with taken := s.taken.erase i }
    let s := if napEnds s i then endNap s else s
    if quiescedNow s then
      match q with
      | .runs => body s
      | .code n => finish h n 0 0 s
      | .refused => reject h 8 s
    else body s
  else s

end Sys2Proof.Machine
end

