-- ==== Sys2Proof/Machine/Entropy.lean ====
section
/-! DEFINITION. The entropy source and the DRBG (R353-R357). The source's samples are free values; those that are used pass the
health tests, or fail them. -/

namespace Sys2Proof.Machine

/-- The DRBG serves requests (R360). -/
def drbgOn (s : State) : Bool := bitR s Reg.RANDOM_STATUS 31

/-- 1,024 raw samples (R354). -/
def samples (s : State) : Bytes × State := let (v, s) := freshVal s 1024; (natBe 128 v, s)

/-- Samples as bits, in order. -/
def sampleBits (b : Bytes) : List Bool := b.flatMap (fun x => (List.range 8).map (fun i => x.toNat.testBit (7 - i)))

/-- The repetition count test: no run of 41 equal samples (R353). -/
def rctOk : Bool → Nat → List Bool → Bool
  | _, _, [] => true
  | last, n, b :: t => if b == last then (if 41 ≤ n + 1 then false else rctOk last (n + 1) t) else rctOk b 1 t

/-- The adaptive proportion test over one window: the first sample's value comes below the cutoff's number of times (R353). -/
def aptOk (l : List Bool) : Bool :=
  match l with
  | [] => true
  | b :: _ => l.count b < Config.aptCutoff

/-- 1,024 samples pass both health tests (R353). -/
def samplesOk (b : Bytes) : Bool := rctOk false 0 (sampleBits b) && aptOk (sampleBits b)

/-- The fused serial number as bytes, in the order of the SERIAL registers (R505, log entry 12). -/
def serialBytes : Bytes := natLe 16 Config.serial

/-- A health test fails: the DRBG stops serving and zeroises its state. In a restart of the source the next attempt begins, and after
the third the source is out of service until part reset and the token is released (R356, R357). -/
def healthFails (s : State) : State :=
  let s := setB { s with drbg := none, drbgReqs := 0 } Reg.RANDOM_STATUS 31 false
  let s := orR (satR s Reg.ENTROPY_FAILS 1) Reg.RANDOM_CAUSE 1
  if bitR s Reg.MAINT_HOLDERS 5 then
    let n := fld s Reg.RANDOM_STATUS 28 27
    if n < 3 then setF s Reg.RANDOM_STATUS 28 27 (n + 1)
    else
      let s := setF (setB s Reg.MAINT_HOLDERS 5 false) Reg.RANDOM_STATUS 28 27 0
      orR (setB (setB s Reg.RANDOM_STATUS 29 true) Reg.RANDOM_STATUS 30 false) Reg.RANDOM_CAUSE 4
  else s

/-- Instantiate the DRBG anew from samples that pass (R353, R354). -/
def instantiate (s : State) : State :=
  let (e, s) := samples s
  if samplesOk e then
    let s := { s with drbg := some (drbgInstantiate e serialBytes), drbgReqs := 0, drbgAt := s.timeBase }
    setB (satR s Reg.DRBG_RESEEDS 1) Reg.RANDOM_STATUS 31 true
  else healthFails s

/-- The source starts: its first 1,024 samples pass both tests, and the DRBG is instantiated from 1,024 more (R353, R357). -/
def startSource (e : Bytes) (s : State) : State := if samplesOk e then instantiate s else healthFails s

/-- Reseed from samples that pass (R353, R354). -/
def reseed (s : State) : State :=
  match s.drbg with
  | none => s
  | some d =>
    let (e, s) := samples s
    if samplesOk e then
      satR { s with drbg := some (drbgReseed d e), drbgReqs := 0, drbgAt := s.timeBase } Reg.DRBG_RESEEDS 1
    else healthFails s

/-- A reseed is due: 2^20 requests, or 1 s (R354). -/
def reseedDue (s : State) : Bool := 2 ^ 20 ≤ s.drbgReqs || s.drbgAt + 25000000 ≤ s.timeBase

/-- One generate request; no bytes when the DRBG does not serve, or stops in the reseed that the request asks for (R354, R356). -/
def draw (fresh : Bool) (n : Nat) (s : State) : State × Option Bytes :=
  if !drbgOn s then (s, none)
  else
    let s := if fresh || reseedDue s then reseed s else s
    match s.drbg with
    | none => (s, none)
    | some d =>
      let (b, d) := drbgGenerate d n
      (addR { s with drbg := some d, drbgReqs := s.drbgReqs + 1 } Reg.DRBG_BYTES n, some b)

/-- ENTROPY_FAIL: a health test reaches its cutoff while the source samples, whether or not the DRBG serves (R353, R356, R357). -/
def entropyFail (s : State) : State := if bitR s Reg.RANDOM_STATUS 30 then healthFails s else s

def execEntropyFail (s : State) : Out := commit s (entropyFail s)

/-- DRBG_RESEED (R354). -/
def execDrbgReseed (s : State) : Out := commit s (onlyIf (drbgOn s && reseedDue s) reseed s)

/-- The salts of a unit's pool (R198). -/
def saltsOf (s : State) (u : Nat) : List Nat := tgetD s.salts u []

/-- Set a unit's pool, with SALTS (R213). -/
def setSalts (s : State) (u : Nat) (l : List Nat) : State :=
  setF { s with salts := if l = [] then tdel s.salts u else tput s.salts u l } (Reg.CODEC_STATUS u) 10 0 l.length

/-- SALT_REFILL: a pool that is not full is filled to 1,024 salts of 32 bits (R198). -/
def saltRefill (u : Nat) (s : State) : State :=
  let have_ := saltsOf s u
  if 1024 ≤ have_.length ∨ !bitR s (Reg.CODEC_STATUS u) 31 then s
  else
    let n := 1024 - have_.length
    match draw false (4 * n) s with
    | (s, none) => s
    | (s, some b) => setSalts s u (have_ ++ (List.range n).map (fun i => beNat (slice b (4 * i) 4)))

def execSaltRefill (u : StackId) (s : State) : Out := commit s (saltRefill u.val s)

end Sys2Proof.Machine
end

