-- ==== Sys2Proof/Machine/Fp.lean ====
section
/-! DEFINITION. Number formats and rounding (R70-R86): exact values, decoding and encoding of every element format,
FP32 arithmetic with one rounding, block scales, and the table functions within the errors that R82 allows. -/

namespace Sys2Proof.Machine

/-- A value: NaN, an infinity, or exactly (-1)^neg × m × 2^e. Zero keeps its sign. -/
inductive Fp where
  | nan
  | inf (neg : Bool)
  | fin (neg : Bool) (m : Nat) (e : Int)
  deriving DecidableEq, Repr

/-- The element formats (R70); INT32 is the row form of R52. -/
inductive Elem where
  | f32 | bf16 | e5m2 | e4m3 | e2m1 | int8 | int4 | int32
  deriving DecidableEq, Repr

/-- Rounding modes (R77): nearest even, toward zero, and stochastic with a 16-bit random value (R78). -/
inductive Rnd where
  | rne
  | zero
  | stoch (r : Nat)
  deriving DecidableEq, Repr

/-- Width of an element in bits. -/
def Elem.bits : Elem → Nat
  | .f32 => 32 | .bf16 => 16 | .e5m2 => 8 | .e4m3 => 8 | .e2m1 => 4 | .int8 => 8 | .int4 => 4 | .int32 => 32

/-- Exponent bits, mantissa bits and bias of a floating format; zeros for the integer formats (R70). -/
def Elem.shape : Elem → Nat × Nat × Nat
  | .f32 => (8, 23, 127) | .bf16 => (8, 7, 127) | .e5m2 => (5, 2, 15) | .e4m3 => (4, 3, 7) | .e2m1 => (2, 1, 1)
  | _ => (0, 0, 0)

/-- The format has infinities, and its exponent field of all ones holds nothing else but NaNs (R70). -/
def Elem.ieee : Elem → Bool
  | .f32 => true | .bf16 => true | .e5m2 => true | _ => false

/-- An integer as a value. -/
def Fp.ofInt (i : Int) : Fp := .fin (decide (i < 0)) i.natAbs 0

/-- Two's complement of `w` bits. -/
def signedOf (w n : Nat) : Int := if n % 2 ^ w < 2 ^ (w - 1) then (n % 2 ^ w : Nat) else (n % 2 ^ w : Nat) - (2 ^ w : Nat)

/-- The low `w` bits of an integer in two's complement. -/
def ofSigned (w : Nat) (i : Int) : Nat := (i % (2 ^ w : Nat)).toNat

/-- Decode an element exactly (R70, R72). -/
def decode (f : Elem) (n : Nat) : Fp :=
  match f with
  | .int8 => .ofInt (signedOf 8 n)
  | .int4 => .ofInt (signedOf 4 n)
  | .int32 => .ofInt (signedOf 32 n)
  | _ =>
    let (eb, mb, bias) := f.shape
    let man := n % 2 ^ mb
    let ex := n / 2 ^ mb % 2 ^ eb
    let neg := (n / 2 ^ (mb + eb)) % 2 == 1
    if f.ieee && ex == 2 ^ eb - 1 then (if man = 0 then .inf neg else .nan)
    else if f = .e4m3 ∧ ex = 15 ∧ man = 7 then .nan
    else if ex = 0 then .fin neg man (1 - (bias : Int) - mb)
    else .fin neg (2 ^ mb + man) ((ex : Int) - bias - mb)

/-- Round m × 2^e to a multiple of 2^q (R77, R78). -/
def roundAt (r : Rnd) (m : Nat) (e q : Int) : Nat :=
  if q ≤ e then m * 2 ^ (e - q).toNat
  else
    let d := 2 ^ (q - e).toNat
    let lo := m / d
    let rem := m % d
    if rem = 0 then lo
    else match r with
      | .rne => if 2 * rem > d ∨ (2 * rem = d ∧ lo % 2 = 1) then lo + 1 else lo
      | .zero => lo
      | .stoch x => if 65536 * rem / d + x ≥ 65536 then lo + 1 else lo

/-- Round a magnitude to `p` significant bits, no bit below 2^emin: the rounded multiple and its unit. -/
def roundMag (r : Rnd) (p : Nat) (emin : Int) (m : Nat) (e : Int) : Nat × Int :=
  let q := max ((Nat.log2 m : Int) + e - (p - 1 : Nat)) emin
  (roundAt r m e q, q)

/-- The code of a rounded magnitude in a floating format, with no bound on its exponent field. -/
def codeMag (f : Elem) (m : Nat) (q : Int) : Nat :=
  let (_, mb, bias) := f.shape
  if m = 0 then 0
  else if m ≥ 2 ^ (mb + 1) then (q + 1 + bias + mb).toNat * 2 ^ mb
  else if m < 2 ^ mb then m
  else (q + bias + mb).toNat * 2 ^ mb + (m - 2 ^ mb)

/-- The largest finite code of a floating format (R70). -/
def maxCode : Elem → Nat
  | .f32 => 0x7F7FFFFF | .bf16 => 0x7F7F | .e5m2 => 0x7B | .e4m3 => 0x7E | .e2m1 => 0x7 | _ => 0

/-- The canonical NaN (R73), and what a NaN converts to in a format without one (R79). -/
def nanCode : Elem → Nat
  | .f32 => 0x7FC00000 | .bf16 => 0x7FC0 | .e5m2 => 0x7E | .e4m3 => 0x7F | _ => 0

/-- The code of a magnitude rounded into a floating format, possibly beyond its largest finite code. -/
def magCode (f : Elem) (r : Rnd) (m : Nat) (e : Int) : Nat :=
  let (_, mb, bias) := f.shape
  if m = 0 then 0
  else
    let (n, q) := roundMag r (mb + 1) (1 - (bias : Int) - mb) m e
    codeMag f n q

/-- Sign bit of a format. -/
def signBit (f : Elem) (neg : Bool) : Nat := if neg then 2 ^ (f.bits - 1) else 0

/-- FP32 bits of a value, rounded to nearest even; overflow gives an infinity (R80). -/
def toF32 : Fp → Nat
  | .nan => 0x7FC00000
  | .inf neg => 0x7F800000 + signBit .f32 neg
  | .fin neg m e => min (magCode .f32 .rne m e) 0x7F800000 + signBit .f32 neg

/-- The value of FP32 bits. -/
def ofF32 (n : Nat) : Fp := decode .f32 n

/-- A value rounded to FP32. -/
def r32 (x : Fp) : Fp := ofF32 (toF32 x)

/-- A conversion's result: the code, whether it saturated, whether a non-zero value became zero. -/
structure Conv where
  code : Nat
  sat : Bool
  under : Bool
  deriving DecidableEq, Repr

/-- Round to an integer format, saturating (R79). -/
def convInt (w : Nat) (r : Rnd) (neg : Bool) (m : Nat) (e : Int) : Conv :=
  let n := roundAt r m e 0
  let lim := if neg then 2 ^ (w - 1) else 2 ^ (w - 1) - 1
  let k := min n lim
  { code := ofSigned w (if neg then -(k : Int) else k), sat := decide (lim < n), under := decide (m ≠ 0 ∧ n = 0) }

/-- Convert a value to a format (R79): FP32 keeps its own rounding, every narrower format saturates. -/
def convert (f : Elem) (r : Rnd) (x : Fp) : Conv :=
  match f, x with
  | .f32, x => { code := toF32 x, sat := false, under := false }
  | .int8, .nan => ⟨0, false, false⟩
  | .int8, .inf neg => ⟨if neg then 0x80 else 0x7F, false, false⟩
  | .int8, .fin neg m e => convInt 8 r neg m e
  | .int4, .nan => ⟨0, false, false⟩
  | .int4, .inf neg => ⟨if neg then 8 else 7, false, false⟩
  | .int4, .fin neg m e => convInt 4 r neg m e
  | .int32, .nan => ⟨0, false, false⟩
  | .int32, .inf neg => ⟨if neg then 0x80000000 else 0x7FFFFFFF, false, false⟩
  | .int32, .fin neg m e => convInt 32 r neg m e
  | f, .nan => ⟨nanCode f, false, false⟩
  | .e4m3, .inf _ => ⟨0x7F, false, false⟩
  | .e2m1, .inf neg => ⟨7 + signBit .e2m1 neg, false, false⟩
  | f, .inf neg => ⟨maxCode f + 1 + signBit f neg, false, false⟩
  | f, .fin neg m e =>
    let c := magCode f r m e
    ⟨min c (maxCode f) + signBit f neg, decide (maxCode f < c), decide (m ≠ 0 ∧ c = 0)⟩

/-- Infinity or NaN. -/
def Fp.bad : Fp → Bool
  | .fin _ _ _ => false
  | _ => true

/-- The value negated. -/
def Fp.negate : Fp → Fp
  | .nan => .nan
  | .inf n => .inf (!n)
  | .fin n m e => .fin (!n) m e

/-- m × 2^e as a multiple of 2^q, for q at most e. -/
def scaledInt (neg : Bool) (m : Nat) (e q : Int) : Int :=
  let k : Int := (m * 2 ^ (e - q).toNat : Nat)
  if neg then -k else k

/-- The exact sum (R80). An exact zero is +0 unless both terms are negative. -/
def Fp.add : Fp → Fp → Fp
  | .nan, _ => .nan
  | _, .nan => .nan
  | .inf a, .inf b => if a = b then .inf a else .nan
  | .inf a, _ => .inf a
  | _, .inf b => .inf b
  | .fin a m e, .fin b n f =>
    let q := min e f
    let k := scaledInt a m e q + scaledInt b n f q
    if k = 0 then .fin (a && b) 0 q else .fin (decide (k < 0)) k.natAbs q

/-- The exact product. -/
def Fp.mul : Fp → Fp → Fp
  | .nan, _ => .nan
  | _, .nan => .nan
  | .inf a, .inf b => .inf (a != b)
  | .inf a, .fin b m _ => if m = 0 then .nan else .inf (a != b)
  | .fin a m _, .inf b => if m = 0 then .nan else .inf (a != b)
  | .fin a m e, .fin b n f => .fin (a != b) (m * n) (e + f)

/-- The value times 2^k, exactly. -/
def Fp.scale (k : Int) : Fp → Fp
  | .fin a m e => .fin a m (e + k)
  | x => x

/-- Whether one finite or infinite value is below another; zeros of either sign are equal. -/
def Fp.lt : Fp → Fp → Bool
  | .nan, _ => false
  | _, .nan => false
  | .inf a, .inf b => a && !b
  | .inf a, _ => a
  | _, .inf b => !b
  | .fin a m e, .fin b n f => decide (scaledInt a m e (min e f) < scaledInt b n f (min e f))

/-- Equal as values. -/
def Fp.eq (x y : Fp) : Bool := x != .nan && y != .nan && !Fp.lt x y && !Fp.lt y x

/-- The sign. -/
def Fp.isNeg : Fp → Bool
  | .nan => false
  | .inf a => a
  | .fin a _ _ => a

/-- Zero of either sign. -/
def Fp.isZero : Fp → Bool
  | .fin _ m _ => m == 0
  | _ => false

/-- The smaller value; NaN if either is NaN; −0 is below +0 (R82). -/
def Fp.min (x y : Fp) : Fp :=
  if x == .nan || y == .nan then .nan
  else if Fp.lt x y then x
  else if Fp.lt y x then y
  else if x.isNeg then x else y

/-- The larger value; NaN if either is NaN; −0 is below +0 (R82). -/
def Fp.max (x y : Fp) : Fp :=
  if x == .nan || y == .nan then .nan
  else if Fp.lt x y then y
  else if Fp.lt y x then x
  else if x.isNeg then y else x

/-- a + b, a × b, and a × b + c, each with one rounding to FP32 (R80, R82). -/
def add32 (a b : Fp) : Fp := r32 (a.add b)
def mul32 (a b : Fp) : Fp := r32 (a.mul b)
def fma32 (a b c : Fp) : Fp := r32 ((a.mul b).add c)

/-! ### Block scales (R74, R76) -/

/-- The value of an E8M0 scale as an exponent; none for NaN. -/
def e8m0 (c : Nat) : Option Int := if c % 256 = 255 then none else some ((c % 256 : Nat) - 127)

/-- An element times its block scale (R74). -/
def scaleBy (c : Nat) (x : Fp) : Fp := match e8m0 c with
  | none => .nan
  | some k => x.scale k

/-- floor(log2) of a non-zero magnitude. -/
def floorLog2 (m : Nat) (e : Int) : Int := (Nat.log2 m : Int) + e

/-- The exponent of the largest magnitude of a block; none when every value is zero. -/
def topLog : List Fp → Option Int
  | [] => none
  | .fin _ m e :: t =>
    if m = 0 then topLog t
    else match topLog t with
      | none => some (floorLog2 m e)
      | some k => some (Max.max k (floorLog2 m e))
  | _ :: t => topLog t

/-- emax of R76. -/
def emaxOf : Elem → Int
  | .e5m2 => 15 | .e4m3 => 8 | .e2m1 => 2 | _ => 0

/-- The exponent x of the block scale that the part chooses (R76). -/
def blockExp (emax : Int) (vs : List Fp) : Int :=
  match topLog vs with
  | none => -127
  | some k => Max.max (-127) (Min.min 127 (k - emax))

/-- Build an MX block: its scale code and its elements (R76). Stochastic rounding takes one random value a lane. -/
def mxBlock (f : Elem) (rs : Nat → Rnd) (vs : List Fp) : Nat × List Conv :=
  if vs.any Fp.bad then (255, vs.map (fun _ => ⟨nanCode f, false, false⟩))
  else
    let x := blockExp (emaxOf f) vs
    ((x + 127).toNat, (List.zip (List.range vs.length) vs).map (fun p => convert f (rs p.1) (p.2.scale (-x))))

/-- An element times its block scale in FP32: a product beyond its range is an infinity (R80, R82, log entry 93). -/
def scaled32 (c : Nat) (x : Fp) : Fp := r32 (scaleBy c x)

/-- One block of the gradient quantiser (R86, R87): the gradient's scale and elements, the error term's scale and elements, the values that
VEC_NONFINITE counts, one for each v[i] that is not finite, and the lanes that VEC_SAT counts, one for each lane of which either element
saturated (log entry 93). -/
def quantBlock (g e : List Fp) (eScale : Nat) : Nat × List Nat × Nat × List Nat × Nat × Nat :=
  let v := (List.zip g e).map (fun p => r32 (p.1.add (scaled32 eScale p.2)))
  let badN := (v.filter Fp.bad).length
  if badN ≠ 0 then (255, v.map (fun _ => 0x7E), 0, v.map (fun _ => 0), badN, 0)
  else
    let x := blockExp 15 v
    let q := v.map (fun a => convert .e5m2 .rne (a.scale (-x)))
    let r := (List.zip v q).map (fun p => r32 (p.1.add ((decode .e5m2 p.2.code).scale x).negate))
    let y := blockExp 8 r
    let eq := r.map (fun a => convert .e4m3 .rne (a.scale (-y)))
    ((x + 127).toNat, q.map (·.code), (y + 127).toNat, eq.map (·.code), 0,
      ((List.zip q eq).filter (fun p => p.1.sat || p.2.sat)).length)

/-! ### Table functions (R82)

The exact result is computed in fixed point with 128 fraction bits; the part's result lies within the error allowed of it,
and which of the allowed codes it is stays a free value. -/

/-- One in fixed point. -/
def fxOne : Int := (2 ^ 128 : Nat)

/-- Fixed-point product and quotient. -/
def fxMul (a b : Int) : Int := a * b / fxOne
def fxDiv (a b : Int) : Int := a * fxOne / b

/-- ln 2 in fixed point, from its series in powers of 1/2. -/
def fxLn2 : Int := (List.range 130).foldl (fun acc k => acc + fxOne / (((k + 1) * 2 ^ (k + 1) : Nat) : Int)) 0

/-- e^f by its series, for f in [0, 1). -/
def fxExpTerms : Nat → Int → Int → Int → Nat → Int
  | 0, _, _, acc, _ => acc
  | n + 1, f, term, acc, k =>
    let t := fxMul term f / ((k : Int))
    fxExpTerms n f t (acc + t) (k + 1)

/-- 2^x for a fixed-point x: a fixed-point mantissa in [1, 2) and an exponent. -/
def fxExp2 (x : Int) : Int × Int :=
  let n := x / fxOne
  let f := x - n * fxOne
  (fxExpTerms 40 (fxMul f fxLn2) fxOne fxOne 1, n)

/-- log2 of a mantissa in [1, 2), bit by bit. -/
def fxLog2Bits : Nat → Int → Int → Int → Int
  | 0, _, acc, _ => acc
  | n + 1, y, acc, w =>
    let y := fxMul y y
    if y ≥ 2 * fxOne then fxLog2Bits n (y / 2) (acc + w) (w / 2) else fxLog2Bits n y acc (w / 2)

/-- A value in fixed point, for magnitudes below 2^64 (larger ones are held at 2^64). -/
def toFx : Fp → Int
  | .fin neg m e =>
    let k : Int := if e + 128 ≥ 0 then (m * 2 ^ (Min.min (e + 128) 256).toNat : Nat) else (m / 2 ^ (-(e + 128)).toNat : Nat)
    let k := Min.min k (fxOne * (2 ^ 64 : Nat))
    if neg then -k else k
  | _ => 0

/-- A fixed-point number times 2^k as a value. -/
def ofFx (a : Int) (k : Int) : Fp := .fin (decide (a < 0)) a.natAbs (k - 128)

/-- log2(e) in fixed point. -/
def fxLog2e : Int := fxDiv fxOne fxLn2

/-- e^−a for a fixed-point a of at least 0, in fixed point. -/
def fxExpNeg (a : Int) : Int :=
  let (m, n) := fxExp2 (fxMul (-a) fxLog2e)
  if n < -200 then 0 else m / (2 ^ (-n).toNat : Nat)

/-- 1/(1 + e^−x) in fixed point. -/
def fxSigmoid (x : Int) : Int :=
  if x ≥ 0 then fxDiv fxOne (fxOne + fxExpNeg x)
  else let t := fxExpNeg (-x); fxDiv t (fxOne + t)

/-- tanh in fixed point. -/
def fxTanh (x : Int) : Int :=
  let t := fxExpNeg (2 * x.natAbs)
  let y := fxDiv (fxOne - t) (fxOne + t)
  if x < 0 then -y else y

/-- x × sigmoid(x) keeps its precision for very negative x by carrying the exponent. -/
def siluRef (x : Fp) : Fp :=
  let a := toFx x
  if a ≥ 0 then x.mul (ofFx (fxSigmoid a) 0)
  else
    let (m, n) := fxExp2 (fxMul a fxLog2e)
    let t := fxExpNeg (-a)
    x.mul (ofFx (fxDiv m (fxOne + t)) n)

/-- GELU in tanh form: x × sigmoid(2 u) with u = sqrt(2/pi) (x + 0.044715 x^3), which is the same function. The
constants are 2 sqrt(2/pi) and 0.044715 to 18 digits. -/
def geluRef (x : Fp) : Fp :=
  let a := toFx x
  let a := if a > 64 * fxOne then 64 * fxOne else if a < -(64 * fxOne) then -(64 * fxOne) else a
  let c1 := fxOne * 1595769121605730711 / 1000000000000000000
  let c2 := fxOne * 44715 / 1000000
  let u := fxMul c1 (a + fxMul c2 (fxMul a (fxMul a a)))
  if u ≥ 0 then x.mul (ofFx (fxSigmoid u) 0)
  else
    let (m, n) := fxExp2 (fxMul u fxLog2e)
    x.mul (ofFx (fxDiv m (fxOne + fxExpNeg (-u))) n)

/-- 1/x for a finite non-zero x, with enough bits for one correct rounding. -/
def recipRef (neg : Bool) (m : Nat) (e : Int) : Fp :=
  .fin neg (2 * (2 ^ 200 / m) + (if 2 ^ 200 % m = 0 then 0 else 1)) (-e - 201)

/-- 1/sqrt(x) for a positive x, with enough bits for one correct rounding. -/
def rsqrtRef (m : Nat) (e : Int) : Fp :=
  let (m, e) := if e % 2 = 0 then (m, e) else (2 * m, e - 1)
  let r := Nat.sqrt (2 ^ 300 / m)
  .fin false (2 * r + (if r * r * m = 2 ^ 300 then 0 else 1)) (-e / 2 - 151)

/-- log2(x) for a positive finite x. -/
def log2Ref (m : Nat) (e : Int) : Fp :=
  let k := Nat.log2 m
  let y : Int := if k ≤ 128 then (m * 2 ^ (128 - k) : Nat) else (m / 2 ^ (k - 128) : Nat)
  ofFx (((k : Int) + e) * fxOne + fxLog2Bits 120 y 0 (fxOne / 2)) 0

/-- The bound of a table function's error in units in the last place, and the absolute bound that holds beside it as a power of 2
(R82). -/
def tableUlps (fn : Nat) : Nat :=
  match fn with
  | 0x20 => 2 | 0x21 => 2 | 0x22 => 1 | 0x23 => 1 | _ => 4

def tableAbs (fn : Nat) (x : Fp) : Option Int :=
  match fn with
  | 0x20 => none
  | 0x21 => if !Fp.lt x (.fin false 1 (-1)) && !Fp.lt (.fin false 2 0) x then some (-22) else none
  | 0x22 => none
  | 0x23 => none
  | 0x24 => if Fp.lt x (.fin false 1 (-4)) && Fp.lt (.fin true 1 (-4)) x then some (-24) else none
  | 0x25 => some (-24)
  | _ => some (-23)

/-- The exponent of one unit in the last place of FP32 bits. -/
def ulpExp (bits : Nat) : Int := (Max.max (bits / 2 ^ 23 % 256) 1 : Nat) - 150

/-- FP32 bits lie within the error that R82 allows a table function of the exact result: `ref` is its correctly rounded form. -/
def tableNear (fn : Nat) (x exact : Fp) (ref bits : Nat) : Bool :=
  let d := match exact.add (ofF32 bits).negate with
    | .fin _ m e => Fp.fin false m e
    | y => y
  !d.bad && (!Fp.lt (.fin false (tableUlps fn) (ulpExp ref)) d
    || (match tableAbs fn x with | some a => !Fp.lt (.fin false 1 a) d | none => false))

/-- The special values that R82 states: some bits where the result is exact. -/
def tableSpecial (fn : Nat) (x : Fp) : Option Nat :=
  match fn, x with
  | _, .nan => some 0x7FC00000
  | 0x20, .inf neg => some (if neg then 0 else 0x7F800000)
  | 0x21, .inf neg => some (if neg then 0x7FC00000 else 0x7F800000)
  | 0x21, .fin neg m _ => if m = 0 then some 0xFF800000 else if neg then some 0x7FC00000 else none
  | 0x22, .inf neg => some (signBit .f32 neg)
  | 0x22, .fin neg m _ => if m = 0 then some (0x7F800000 + signBit .f32 neg) else none
  | 0x23, .inf neg => some (if neg then 0x7FC00000 else 0)
  | 0x23, .fin neg m _ => if m = 0 then some (0x7F800000 + signBit .f32 neg) else if neg then some 0x7FC00000 else none
  | 0x24, .inf neg => some (0x3F800000 + signBit .f32 neg)
  | 0x25, .inf neg => some (if neg then 0 else 0x3F800000)
  | 0x26, .inf neg => some (if neg then 0x80000000 else 0x7F800000)
  | 0x27, .inf neg => some (if neg then 0x80000000 else 0x7F800000)
  | _, _ => none

/-- The exact result of a table function for an operand that is not special, to 128 fraction bits. -/
def tableExact (fn : Nat) (x : Fp) : Fp :=
  match fn, x with
  | 0x20, .fin neg m e =>
    let a := toFx (.fin neg m e)
    if a > 200 * fxOne then .inf false
    else if a < -(300 * fxOne) then .fin false 0 0
    else let (y, n) := fxExp2 a; ofFx y n
  | 0x21, .fin _ m e => log2Ref m e
  | 0x22, .fin neg m e => recipRef neg m e
  | 0x23, .fin _ m e => rsqrtRef m e
  | 0x24, .fin neg m e =>
    if floorLog2 (m + 1) e < -40 then .fin neg m e else ofFx (fxTanh (toFx (.fin neg m e))) 0
  | 0x25, x =>
    let a := toFx x
    if a ≥ 0 then ofFx (fxSigmoid a) 0
    else let (m, n) := fxExp2 (fxMul a fxLog2e); ofFx (fxDiv m (fxOne + fxExpNeg (-a))) n
  | 0x26, x => geluRef x
  | _, x => siluRef x

/-- A table function's FP32 result bits: special values exactly, otherwise a finite result within the error of R82; which of the allowed
codes it is stays a free value of the function and operand (log entry 8). -/
def tableFn (fn : Nat) (x : Fp) : Nat :=
  match tableSpecial fn x with
  | some b => b
  | none =>
    let exact := tableExact fn x
    let ref := toF32 exact
    let free := Nat.mod (Config.tableErr fn (toF32 x)) 0x100000000
    if !exact.bad && ref % 0x80000000 != 0x7F800000 && tableNear fn x exact ref free then free else ref

end Sys2Proof.Machine
end

