-- ==== Sys2Proof/Machine/Operands.lean ====
section
/-! DEFINITION. Operand forms: elements in bytes (R71), tile-store words (R117, R149, R150), frames and argument
registers (R116), and where the pieces of State that belong to a site or a context stand. -/

namespace Sys2Proof.Machine

/-! ### Elements in bytes (R71) -/

/-- The element codes of `bits` bits each that bytes hold. -/
def elemCodes (bits : Nat) (bs : Bytes) : List Nat :=
  match bits with
  | 4 => bs.flatMap (fun b => [b.toNat % 16, b.toNat / 16])
  | 8 => bs.map (·.toNat)
  | 16 => (List.range (bs.length / 2)).map (fun k => fieldAt bs (2 * k) 2)
  | _ => (List.range (bs.length / 4)).map (fun k => fieldAt bs (4 * k) 4)

/-- Two nibbles to a byte, the first in the low half. -/
def packNibbles : List Nat → Bytes
  | a :: b :: t => BitVec.ofNat 8 (a % 16 + b % 16 * 16) :: packNibbles t
  | [a] => [BitVec.ofNat 8 (a % 16)]
  | [] => []

/-- The bytes of element codes. -/
def codeBytes (bits : Nat) (cs : List Nat) : Bytes :=
  if bits = 4 then packNibbles cs else cs.flatMap (fun c => natLe (bits / 8) c)

/-- The format that a VECTOR figure's code names (R120). -/
def vecFmt (c : Nat) : Elem :=
  match c with
  | 0 => .f32 | 1 => .bf16 | 2 => .e4m3 | 3 => .e5m2 | 4 => .e2m1 | 5 => .int8 | _ => .int32

/-- The format that a STREAM figure's OUTFMT names (R119). -/
def outFmt (c : Nat) : Elem :=
  match c with
  | 0 => .f32 | 1 => .bf16 | 2 => .e4m3 | 3 => .e5m2 | 4 => .int8 | _ => .int32

/-- The format of an object record's FORMAT byte (R161); untyped bytes count as INT8. -/
def objFmt (c : Nat) : Elem :=
  match c with
  | 0x00 => .f32 | 0x01 => .bf16 | 0x02 => .e4m3 | 0x03 => .e5m2 | 0x04 => .e2m1 | 0x05 => .int8 | 0x06 => .int4
  | 0x07 => .int32 | 0x12 => .e4m3 | 0x13 => .e5m2 | 0x14 => .e2m1 | _ => .int8

/-- A FORMAT byte that R161 lists. -/
def fmtOk (c : Nat) : Bool := c ≤ 8 || c == 0x12 || c == 0x13 || c == 0x14
/-- A format with scale blocks (R161). -/
def fmtScaled (c : Nat) : Bool := c == 0x12 || c == 0x13 || c == 0x14
/-- Bytes of a raw pack (R160, R161). -/
def packBytes (c : Nat) : Nat := if c = 8 then 1024 else 128 * (objFmt c).bits

/-! ### The tile store -/

/-- Where word `w` of a logical tile's store begins (R149). -/
def wordKey (l w : Nat) : Nat := l * 0x400000 + w * 32

/-- Read `n` words. -/
def tsRead (s : State) (l w n : Nat) : Bytes := mread s.tileStore (wordKey l w) (n * 32)

/-- Write bytes from the start of a word. -/
def tsWrite (s : State) (l w : Nat) (bs : Bytes) : State := { s with tileStore := mwrite s.tileStore (wordKey l w) bs }

/-- Perform a list of writes, each from the start of a word. -/
def tsWrites (l : Nat) (ws : List (Nat × Bytes)) (s : State) : State := ws.foldl (fun s e => tsWrite s l e.1 e.2) s

/-! ### Sites, contexts, arrays -/

/-- A site that nothing has used. -/
def Site.fresh : Site where
  active := none
  lastYield := 0
  yieldF := 0
  busyUntil := 0
  hold := none
  vecUntil := 0
  flights := []
  nextId := 0
  buffer := []
  draining := []
  upUntil := 0
  arrs := []

/-- An array that nothing has used. -/
def Arr.fresh : Arr := { latch := none, rows := [], entries := [], feedUntil := 0, stepSat := 0, satRaised := false }

/-- A site's state. -/
def siteGet (s : State) (site : Nat) : Site := tgetD s.sites site Site.fresh
/-- Set a site's state. -/
def sitePut (s : State) (site : Nat) (x : Site) : State := { s with sites := tput s.sites site x }
/-- Change a site's state. -/
def siteMod (site : Nat) (f : Site → Site) (s : State) : State := sitePut s site (f (siteGet s site))

/-- The figures of a tile in flight: those in its units, and a SLEEP or VOTE that waits (R126). -/
def inFlight (s : State) (site : Nat) : Nat :=
  let waits := s.ctxs.filter (fun e => match tget e.2.tiles site with
    | some t => t.sleep.isSome || t.vote.isSome
    | none => false)
  (siteGet s site).flights.length + waits.length

/-- The arrays that a stream from the LOCAL port names, while beats of it are still to come. -/
def portMask (w : Work) : Nat :=
  match w with
  | .portStream p => if p.got < p.need then (match p.fig with | .stream m _ _ _ _ _ _ _ => m | _ => 0) else 0
  | _ => 0

/-- An array's state. -/
def arrGet (s : State) (site a : Nat) : Arr := tgetD (siteGet s site).arrs a Arr.fresh
/-- Set an array's state. -/
def arrPut (s : State) (site a : Nat) (x : Arr) : State :=
  siteMod site (fun y => { y with arrs := tput y.arrs a x }) s
/-- Change an array's state. -/
def arrMod (site a : Nat) (f : Arr → Arr) (s : State) : State := arrPut s site a (f (arrGet s site a))

/-- A resident context. -/
def ctxGet (s : State) (c : Nat) : Option Ctx := tget s.ctxs c
/-- Change a resident context. -/
def ctxMod (c : Nat) (f : Ctx → Ctx) (s : State) : State :=
  match ctxGet s c with
  | some x => { s with ctxs := tput s.ctxs c (f x) }
  | none => s

/-- What a context holds on a site. -/
def tcGet (s : State) (c site : Nat) : Option TileCtx := (ctxGet s c).bind (fun x => tget x.tiles site)
/-- Change what a context holds on a site. -/
def tcMod (c site : Nat) (f : TileCtx → TileCtx) (s : State) : State :=
  ctxMod c (fun x => match tget x.tiles site with
    | some y => { x with tiles := tput x.tiles site (f y) }
    | none => x) s

/-- The slot of a context on a site (R144). -/
def slotOf (s : State) (c site : Nat) : Nat := ((tcGet s c site).map (·.slot)).getD 0

/-- The state code of a context on a site: 0 empty, 1 READY, 2 running, 3 parked, 4 DONE; 0 also before it starts. -/
def ctxStateAt (s : State) (c site : Nat) : Nat := fld s (Reg.CTX_STATE site (slotOf s c site)) 31 28

/-- Set the state code and the token of a park. -/
def setCtxState (c site v tok : Nat) (s : State) : State :=
  let k := Reg.CTX_STATE site (slotOf s c site)
  setF (setF s k 31 28 v) k 20 16 tok

/-- The index of the next figure (R144). -/
def nextFig (s : State) (c site : Nat) : Nat := fld s (Reg.CTX_ID site (slotOf s c site)) 13 0

/-- Set the index of the next figure. -/
def setNext (c site n : Nat) (s : State) : State := setF s (Reg.CTX_ID site (slotOf s c site)) 13 0 n

/-- The local non-finite flag of a context on a tile (R131). -/
def setNonfinite (c site : Nat) (s : State) : State := setB s (Reg.CTX_FLAGS site (slotOf s c site)) 0 true

/-! ### Frames and addresses -/

/-- Argument register i (R116). -/
def gReg (t : TileCtx) (i : Nat) : Nat := tgetD t.g i 0

/-- Set an argument register. -/
def gSet (t : TileCtx) (i v : Nat) : TileCtx :=
  { t with g := if v % 2 ^ 20 = 0 then tdel t.g i else tput t.g i (v % 2 ^ 20) }

/-- Token counter i (R116). -/
def tokGet (t : TileCtx) (i : Nat) : Nat := tgetD t.t i 0

/-- Set a token counter. -/
def tokSet (t : TileCtx) (i v : Nat) : TileCtx := { t with t := if v = 0 then tdel t.t i else tput t.t i v }

/-- The registers of a frame. -/
def frame (t : TileCtx) (f : Fig) : List Nat := (upFrom (frameBase f) (frameLen f)).map (gReg t)

/-- The tile-store regions of a pitch on a logical tile (R101, R150). -/
def regionsOf (p : Pitch) (l : Nat) : List ObjRec := p.objs.filter (fun o => o.kind == 0 && o.tile == l)

/-- A range of words lies in one run of a region (R150). -/
def inRegion (o : ObjRec) (w n : Nat) : Bool :=
  (bitPositions 16 o.banks).any (fun b =>
    let lo := b * 8192 + o.offset / 32
    lo ≤ w && w + n ≤ lo + o.size / popcount o.banks / 32)

/-- A range of words that a figure of the pitch may name on a tile: address bits [19:17] 0, inside one run (R117). -/
def rangeOk (p : Pitch) (l w n : Nat) : Bool := w < 2 ^ 17 && (n == 0 || (regionsOf p l).any (fun o => inRegion o w n))

/-- Two word ranges overlap. -/
def overlap (a b : Nat × Nat) : Bool := a.1 < b.1 + b.2 && b.1 < a.1 + a.2

/-- A figure's reads and writes conflict with a mark of a figure in flight (R125). -/
def marksClash (fs : List Flight) (reads writes : List (Nat × Nat)) : Bool :=
  fs.any (fun f =>
    reads.any (fun r => f.writes.any (overlap r)) || writes.any (fun w => f.reads.any (overlap w) || f.writes.any (overlap w)))

/-- A route of a pitch. -/
def routeOf (p : Pitch) (id : Nat) : Option Route := p.routes.find? (fun r => r.id == id)

/-- A route endpoint is this tile. -/
def endsAt (e l : Nat) : Bool := !e.testBit 15 && e % 512 == l

end Sys2Proof.Machine
end

