-- ==== Sys2Proof/Machine/Flags.lean ====
section
/-! DEFINITION. Cause and status flags that several units set: pitch assertions (R67, R138), the non-finite flag
(R63, R83), the saturation notices (R69) and token counters (R128). -/

namespace Sys2Proof.Machine

/-- A caller assertion: its code is the first since CALLER_ASSERT was cleared; a chip fault (R138, R465). -/
def callerAssert (site code : Nat) (s : State) : State :=
  let s := if bitR s (Reg.CALLER_CAUSE site) 0 then s else setF s (Reg.CALLER_STATUS site) 31 24 code
  chipFault 0x02 (site * 2 ^ 14 + code) (orR s (Reg.CALLER_CAUSE site) 1)

/-- An array assertion (R67, R465). -/
def arrayAssert (site a code : Nat) (s : State) : State :=
  let s := if bitR s (Reg.ARR_CAUSE site a) 0 then s else setF s (Reg.ARR_STATUS site a) 31 24 code
  chipFault 0x01 (site * 2 ^ 14 + a * 2 ^ 12 + code) (orR s (Reg.ARR_CAUSE site a) 1)

/-- An assertion cause that has been cleared takes its code with it (R66, R141). -/
def clearCode (site : Nat) (s : State) : State :=
  let s := if bitR s (Reg.CALLER_CAUSE site) 0 then s else setF s (Reg.CALLER_STATUS site) 31 24 0
  (List.range 4).foldl (fun s a => if bitR s (Reg.ARR_CAUSE site a) 0 then s else setF s (Reg.ARR_STATUS site a) 31 24 0) s

/-- Counts of an array's lanes: saturations of the output and of the accumulator, non-finite lanes, underflows. -/
structure LaneCounts where
  outSat : Nat
  accSat : Nat
  nonfinite : Nat
  under : Nat
  deriving DecidableEq, Repr

/-- Add an array's lane counts, with the NONFINITE cause and the local flag (R63), and SAT_OVER when the per-step count
first exceeds SAT_LIMIT (R69). A limit that a register write sets below the count reached has its effect at the next stream (log
entry 92). -/
def countLanes (c site a : Nat) (n : LaneCounts) (s : State) : State :=
  let s := addR s (Reg.OUT_SAT site a) n.outSat
  let s := satR s (Reg.ACC_SAT site a) n.accSat
  let s := satR s (Reg.ACC_NONFINITE site a) n.nonfinite
  let s := satR s (Reg.UNDERFLOW site a) n.under
  let s := if n.nonfinite = 0 then s else setNonfinite c site (orR s (Reg.ARR_CAUSE site a) 0x20)
  let x := arrGet s site a
  let k := x.stepSat + n.outSat + n.accSat
  let lim := getR s (Reg.SAT_LIMIT site a)
  let past := lim != 0 && !x.satRaised && lim < k
  let s := arrPut s site a { x with stepSat := k, satRaised := x.satRaised || past }
  if past then orR s (Reg.ARR_CAUSE site a) 0x40 else s

/-- A token posted to a dozing tile wakes it and is counted; for the 16 cycles after the update it stays up (R27, R34, R130). -/
def tokenWake (site : Nat) (s : State) : State :=
  if fld s (Reg.TILE_POWER site) 2 0 = 1 then
    let k := Reg.TILE_POWER site
    let s := setF s k 31 16 (min (fld s k 31 16 + 1) 0xFFFF)
    siteMod site (fun st => { st with upUntil := s.cycle + 16 }) (setF s k 2 0 0)
  else s

/-- A post to a tile outside every resident reserved set ends NAP (R483). -/
def napPost (c site : Nat) (s : State) : State :=
  match ctxGet s c with
  | some x => if (x.pitch.tileMap.getD (fld s (Reg.TILE_FITNESS site) 29 21) 0#8).toNat.testBit 2 then s else endNap s
  | none => s

/-- Add 1 to a token counter of a context on a site; past 255 is the assertion TOKEN_OVERFLOW (R128). -/
def postToken (c site tok : Nat) (s : State) : State :=
  match tcGet s c site with
  | none => s
  | some t =>
    if tokGet t tok + 1 > 255 then callerAssert site 0x05 s
    else tokenWake site (napPost c site (tcMod c site (fun t => tokSet t tok (tokGet t tok + 1)) s))

/-- Post to a logical tile of a context (R128). -/
def postTile (c l tok : Nat) (s : State) : State :=
  match tget s.siteMap l with
  | some site => postToken c site tok s
  | none => s

end Sys2Proof.Machine
end

