-- ==== Sys2Proof/Machine/Tiles.lean ====
section
/-! DEFINITION. Tiles and the mesh: sites and logical tiles (R17-R20), the fitness map (R21-R25), tile power states
(R26-R28) and the router (R12-R16). -/

namespace Sys2Proof.Machine

/-- The die of a site (R17). -/
def dieOf (site : Nat) : Nat := site / 144

/-- The logical indices of a row, lowest first (R19). -/
def rowQuota (y : Nat) : List Nat := if y < 8 then upFrom (11 * y) 11 else upFrom (88 + 10 * (y - 8)) 10

/-- Distance between two rows. -/
def rowDist (a b : Nat) : Nat := (a - b) + (b - a)

/-- The nearest row that has a site left, the lower row on equal distance (R20). -/
def nearestRow (free : List (List Nat)) (y : Nat) : Option Nat :=
  (List.range 12).foldl (fun best r =>
    if (free.getD r []).isEmpty then best
    else match best with
      | none => some r
      | some b => if rowDist r y < rowDist b y then some r else some b) none

/-- Place the left-over indices (R20). -/
def placeLeft (d : Nat) : List (Nat × Nat) → List (List Nat) → List (Nat × Nat)
  | [], _ => []
  | (y, k) :: rest, free =>
    match nearestRow free y with
    | none => []
    | some r =>
      match free.getD r [] with
      | [] => []
      | x :: xs => (k, d * 144 + r * 12 + x) :: placeLeft d rest (free.set r xs)

/-- The site map of a die: each index within the die with its site (R20). -/
def siteMapOf (fit : Nat → Bool) (d : Nat) : List (Nat × Nat) :=
  let cols := fun y => (List.range 12).filter (fun x => fit (d * 144 + y * 12 + x))
  let direct := (List.range 12).flatMap (fun y =>
    (List.zip (rowQuota y) (cols y)).map (fun e => (e.1, d * 144 + y * 12 + e.2)))
  let left := (List.range 12).flatMap (fun y => ((rowQuota y).drop (cols y).length).map (fun k => (y, k)))
  let free := (List.range 12).map (fun y => (cols y).drop (rowQuota y).length)
  direct ++ placeLeft d left free

/-- What self-test found at a site; a site that the result does not list passed every test. -/
def testOf (t : SelfTest) (site : Nat) : SiteTest :=
  (t.sites.find? (fun e => e.site.val == site)).getD
    { site := Fin.ofNat 576 site, router := true, bypass := true, caller := true, vector := true, store := true,
      arrays := 15, failBank := 0, fused := false }

/-- Every bypass of a die passed (R16). -/
def dieBypassOk (t : SelfTest) (d : Nat) : Bool := t.sites.all (fun e => dieOf e.site.val != d || e.bypass)

/-- A site is fit (R24). -/
def siteFit (t : SelfTest) (site : Nat) : Bool :=
  let e := testOf t site
  e.router && e.caller && e.vector && e.store && e.arrays == 15 && !e.fused && dieBypassOk t (dieOf site)

/-- The sites of a die. -/
def dieSites (d : Nat) : List Nat := upFrom (d * 144) 144

/-- The number of fit sites of a die (R21). -/
def fitCount (t : SelfTest) (d : Nat) : Nat := ((dieSites d).filter (siteFit t)).length

/-- The fitness entry of a site, without ROLE and LOGICAL (R23). -/
def fitnessBits (e : SiteTest) : Nat :=
  let b := fun (x : Bool) (k : Nat) => if x then 2 ^ k else 0
  b e.bypass 19 + (if e.fused then 2 ^ 7 else
    b e.router 20 + b e.caller 18 + b e.vector 17 + b e.store 16 + e.arrays.val * 2 ^ 12
      + (if e.store then 0 else e.failBank.val * 2 ^ 8))

/-- The tile state code of TILE_POWER (R34). -/
def tileState (s : State) (site : Nat) : Nat := fld s (Reg.TILE_POWER site) 2 0

/-- Set the tile state code. -/
def setTileState (s : State) (site v : Nat) : State := setF s (Reg.TILE_POWER site) 2 0 v

/-- The role of a site (R23). -/
def roleOf (s : State) (site : Nat) : Nat := fld s (Reg.TILE_FITNESS site) 31 30

/-- The site of a logical tile (R18). -/
def siteOfTile (s : State) (l : Nat) : Option Nat := tget s.siteMap l

/-- The logical tile of a site, when it is in service (R23). -/
def tileOfSite (s : State) (site : Nat) : Option Nat :=
  if roleOf s site = 1 then some (fld s (Reg.TILE_FITNESS site) 29 21) else none

/-- Write one site's fitness entry and state: `map` is the die's site map, empty when the die is short (R21, R23). -/
def writeSite (t : SelfTest) (map : List (Nat × Nat)) (s : State) (site : Nat) : State :=
  let e := testOf t site
  let (role, logical) := if siteFit t site then
      match map.find? (fun m => m.2 == site) with
      | some m => (1, dieOf site * 128 + m.1)
      | none => (2, 0)
    else (0, 0)
  let s := setR s (Reg.TILE_FITNESS site) (role * 2 ^ 30 + logical * 2 ^ 21 + fitnessBits e)
  setTileState s site (if role != 0 then 2 else if e.bypass then 3 else 5)

/-- Write a die's entries of the site map and fitness map; MAP_EPOCH counts the write (R20-R22). -/
def writeDie (t : SelfTest) (s : State) (d : Nat) : State :=
  let map := if fitCount t d < 128 then [] else siteMapOf (siteFit t) d
  let s := { s with siteMap := map.foldl (fun m e => tput m (d * 128 + e.1) e.2)
                      (s.siteMap.filter (fun e => e.1 / 128 != d)), diesOn := s.diesOn ||| 2 ^ d }
  satR ((dieSites d).foldl (writeSite t map) s) (Reg.MAP_EPOCH 0) 1

/-- A die is powered: until its self-test its sites read as not yet tested, or as the last self-test left them (R25, R34, R38). When
each die is powered is the model's choice (log entry 91). -/
def powerDie (d : Nat) (s : State) : State := { s with diesOn := s.diesOn ||| 2 ^ d }

/-- Write the entries of some dies. -/
def writeDies (t : SelfTest) (ds : List Nat) (s : State) : State := ds.foldl (writeDie t) s

/-- The spare sites of some dies that a new site map brings into service (R472). -/
def sparesUsed (s t : State) : Nat :=
  ((List.range 576).filter (fun site => roleOf s site == 2 && roleOf t site == 1)).length

/-- The number of a mesh port (R35). -/
def portNum : MeshPort → Nat
  | .n => 0 | .e => 1 | .s => 2 | .w => 3 | .loc => 4 | .tap => 5

/-- The port straight across a router (R15). -/
def straight : MeshPort → MeshPort → Bool
  | .n, .s => true | .s, .n => true | .e, .w => true | .w, .e => true | _, _ => false

/-- A site in bypass (R15). -/
def inBypass (s : State) (site : Nat) : Bool := tileState s site == 3

/-- A site whose router works: fit sites (R8, R26). -/
def routerOn (s : State) (site : Nat) : Bool := s.diesOn.testBit (dieOf site) && tileState s site < 3

/-- What the check of a flit does at a router input (R14). -/
def flitCheck (site inPort : Nat) (jobData : Bool) (c : FlitCheck) (s : State) : State :=
  match c with
  | .clean => s
  | .single => satR (orR s (Reg.MESH_CAUSE site) 2) (Reg.MESH_CORRECTED site) 1
  | .double =>
    let s := orR s (Reg.MESH_CAUSE site) 4
    if jobData then chipFault 0x04 (site * 2 ^ 14 + inPort) s else s

/-- A mesh port of a site is connected: port N of row 0 is not (R9). -/
def connected (site : Nat) (p : MeshPort) : Bool := !(p == .n && site % 144 / 12 == 0)

/-- A port of the column: unscheduled traffic on the mesh moves along its target's column alone (R13). -/
def columnPort : MeshPort → Bool
  | .n => true | .s => true | .loc => true | _ => false

/-- Of the requests whose unscheduled flits are ready for an output, one has precedence over the flit of request `req` (R12,
R171). -/
def outranked (s : State) (req : Nat) (rivals : List Nat) : Bool :=
  s.uns.any (fun x => rivals.contains x.id && x.id != req && (match s.uns.find? (fun u => u.id == req) with
    | some u => servedBefore s x u
    | none => true))

/-- A flit at a router: its check, then its output port (R12-R15). A scheduled flit whose slot another scheduled one takes is a chip
fault; an unscheduled flit whose slot a scheduled one takes, or before which another with an older ticket is served, waits and is
counted; every other flit is sent and counted. Unscheduled traffic enters and leaves by the ports of its column (R13). A
site in bypass passes flits straight and counts nothing (R38). -/
def meshFlit (site : Nat) (i o : MeshPort) (c : FlitCheck) (jobData taken : Bool) (w : FlitOwner) (s : State) : State :=
  if routerOn s site && connected site i && connected site o then
    match w with
    | .scheduled =>
      let s := flitCheck site (portNum i) jobData c s
      if taken then chipFault 0x03 (site * 2 ^ 14 + portNum o) (orR s (Reg.MESH_CAUSE site) 1)
      else addR s (Reg.MESH_FLITS site (portNum o)) 1
    | .unscheduled req rivals =>
      if !columnPort i || !columnPort o then s
      else
        let s := flitCheck site (portNum i) jobData c s
        if taken || outranked s req rivals then addR s (Reg.MESH_WAIT site (portNum o)) 1
        else addR s (Reg.MESH_FLITS site (portNum o)) 1
  else s

/-- MESH_FLIT. -/
def execMeshFlit (site : SiteId) (i o : MeshPort) (c : FlitCheck) (jobData taken : Bool) (w : FlitOwner) (s : State) : Out :=
  commit s (meshFlit site.val i o c jobData taken w s)

/-! ### The tile-store port of a GATED tile (R28) -/

/-- Two sites lie in one column of a die. -/
def sameColumn (a b : Nat) : Bool := dieOf a == dieOf b && a % 12 == b % 12

/-- The site whose opening port a fifth request of a column waits for: every later unscheduled request of the column waits
behind it (R28). -/
def columnBlock (s : State) (site : Nat) : Option Nat :=
  (s.ports.find? (fun e => sameColumn e.1 site && !e.2.behind.isEmpty)).map (·.1)

/-- A request for a site's tile store passes at once: the column is free, and the tile is not GATED or its port is open. -/
def portFree (s : State) (site : Nat) : Bool :=
  (columnBlock s site).isNone && (tileState s site != 2 || (match tget s.ports site with | some p => p.openNow | none => false))

/-- A request waits: behind a blocked column; in the router, which holds at most 4 while the port opens; as the fifth, in the
column. The first begins the opening. -/
def portHold (i : Instr) (site : Nat) (s : State) : State :=
  let at_ := (columnBlock s site).getD site
  let p := match tget s.ports at_ with
    | none => { openNow := false, at_ := s.cycle, held := [i], behind := [] }
    | some p =>
      if (p.held ++ p.behind).contains i then p
      else if p.behind.isEmpty && p.held.length < 4 then { p with held := p.held ++ [i] }
      else { p with behind := p.behind ++ [i] }
  { s with ports := tput s.ports at_ p }

/-- A request that reaches the tile stores of some sites: it is served, or waits at the first that cannot take it. -/
def viaPorts (i : Instr) (sites : List Nat) (body : State → State) (s : State) : State :=
  match sites.find? (fun k => !portFree s k) with
  | some k => portHold i k s
  | none => body s

/-- The tile store of a GATED tile is accessed: its port is open from then on, and its time begins anew. -/
def portUse (site : Nat) (s : State) : State :=
  if tileState s site = 2 then
    let p := match tget s.ports site with
      | none => { openNow := true, at_ := s.cycle, held := [], behind := [] }
      | some p => { p with at_ := if p.openNow then s.cycle else p.at_ }
    { s with ports := tput s.ports site p }
  else s

/-- The opening port is open; what it held, and what waited behind, is to be served in order of arrival. -/
def portOpens (site : Nat) (s : State) : List Instr × State :=
  match tget s.ports site with
  | some p => if p.openNow then ([], s)
    else (p.held ++ p.behind, { s with ports := tput s.ports site { openNow := true, at_ := s.cycle, held := [], behind := [] } })
  | none => ([], s)

/-- STORE_PORT_CLOSE: 4,096 cycles after its last access the port closes (R28). -/
def storePortClose (site : Nat) (s : State) : State :=
  match tget s.ports site with
  | some p => if p.openNow && p.at_ + 4096 ≤ s.cycle then { s with ports := tdel s.ports site } else s
  | none => s

/-- STORE_PORT_CLOSE. -/
def execStorePortClose (site : SiteId) (s : State) : Out := commit s (storePortClose site.val s)

end Sys2Proof.Machine
end

