-- ==== Sys2Proof/Machine/Memory.lean ====
section
/-! DEFINITION. The memory tiers: the device range (R145-R148), the near and far stores (R152-R159), objects and
placement tables (R147, R163), placement and migration (R164-R168), unscheduled requests (R169-R173), scrub and
temperature (R157, R174, R175), DMA and BAR2 (R148, R380). -/

namespace Sys2Proof.Machine

/-! ### Frames, granules and far pages -/

/-- 2 MiB. -/
def pageSize : Nat := 0x200000

/-- A stack is in service (R179). -/
def stackOn (s : State) (st : Nat) : Bool := bitR s (Reg.STACK_STATUS st) 31

/-- The granules of a stack that a function holds, ascending (R156, R368). -/
def fnGranules (s : State) (f st : Nat) : List Nat :=
  if stackOn s st then
    (List.range (fld s (Reg.STACK_STATUS st) 5 0)).filter (fun g => tgetD s.granOwner (st * 64 + g) 0 == f)
  else []

/-- The frames of a stack that hold or are reserved for a page. -/
def usedFrames (s : State) (st : Nat) : List Nat :=
  let pick := fun (p : PageLoc) => match p with
    | .near t n => if t = st then some n else none
    | .far _ => none
  (s.objs.flatMap (fun e => e.2.pages.filterMap pick)) ++ (s.serves.flatMap (fun e => e.2.frames.filterMap pick))
    ++ (s.places.flatMap (fun r => (r.moves.filterMap (fun m => pick m.2)) ++ (r.copying.filterMap (fun m => pick m.2.1))))

/-- The registered far pages of a function that hold or are reserved for a page. -/
def usedFar (s : State) (f : Nat) : List Nat :=
  let pick := fun (p : PageLoc) => match p with
    | .near _ _ => none
    | .far j => some j
  ((s.objs.filter (fun e => e.2.fn == f)).flatMap (fun e => e.2.pages.filterMap pick))
    ++ ((s.places.filter (fun r => r.fn == f)).flatMap (fun r =>
      r.moves.filterMap (fun m => pick m.2) ++ r.copying.filterMap (fun m => pick m.2.1)))

/-- A set of numbers as a mask. -/
def maskFrom (l : List Nat) : Nat := l.foldl (fun m n => m ||| 2 ^ n) 0

/-- The lowest `need` free frames of some granules, ascending. -/
def freeFrames (used need : Nat) : List Nat → List Nat
  | [] => []
  | g :: gs =>
    if need = 0 then []
    else
      let fs := ((upFrom (g * 512) 512).filter (fun n => !used.testBit n)).take need
      fs ++ freeFrames used (need - fs.length) gs

/-- Deal out free frames, by stack, and free far pages to the pages that want them, in order; none when one goes without. -/
def dealPages : List (List Nat) → List Nat → List (Option Nat) → Option (List PageLoc)
  | _, _, [] => some []
  | near, far, some st :: ws => match near.getD st [] with
    | [] => none
    | n :: t => (dealPages (near.set st t) far ws).map (PageLoc.near st n :: ·)
  | near, far, none :: ws => match far with
    | [] => none
    | j :: t => (dealPages near t ws).map (PageLoc.far j :: ·)

/-- Places for a list of pages, each in a stack or in the far store, the lowest free frame or registered page first; none when some
page has no place. -/
def placePages (s : State) (f : Nat) (ws : List (Option Nat)) : Option (List PageLoc) :=
  let near := (List.range 8).map (fun st =>
    let need := (ws.filter (fun w => w == some st)).length
    if need = 0 then [] else freeFrames (maskFrom (usedFrames s st)) need (fnGranules s f st))
  let far := if ws.contains none then
      let used := maskFrom (usedFar s f)
      (List.range (tgetD s.farPool f []).length).filter (fun j => !used.testBit j)
    else []
  dealPages near far ws

/-- The stack of page k among the stacks of a mask (R164). -/
def stackFor (mask k : Nat) : Nat := let ss := bitPositions 8 mask; nth ss (k % ss.length)

/-- Where the pages of an object go: into the stacks of a mask, or all into the far store (R164). -/
def wants (tier mask pages : Nat) : List (Option Nat) :=
  (List.range pages).map (fun k => if tier = 1 then none else some (stackFor mask k))

/-! ### Objects -/

/-- The key of an object. -/
def objKey (f h : Nat) : Nat := f * 32768 + h

/-- The object of a handle; handle 0 is never valid (R163). -/
def objGet (s : State) (f h : Nat) : Option Obj := if h = 0 ∨ 32768 ≤ h then none else tget s.objs (objKey f h)

/-- Set an object. -/
def objPut (s : State) (o : Obj) : State := { s with objs := tput s.objs (objKey o.fn o.handle) o }

/-- Change an object. -/
def objMod (f h : Nat) (g : Obj → Obj) (s : State) : State :=
  match objGet s f h with
  | some o => objPut s (g o)
  | none => s

/-- The objects of a function. -/
def objsOf (s : State) (f : Nat) : List Obj := (s.objs.map (·.2)).filter (fun o => o.fn == f)

/-- The variant bindings of a record: the recorded one, and those under which packs may stand in its slots (R205, R207). -/
def bindsOf (c : CodecRec) : List Binding :=
  c.bind.toList ++ (c.slot0.bind (·.bind)).toList ++ (c.slot1.bind (·.bind)).toList

/-- An object is named as base or factors by a variant binding (R195). -/
def frozenObj (s : State) (f h : Nat) : Bool :=
  (objsOf s f).any (fun o => (o.record.toList.flatMap bindsOf).any (fun b => b.base == h || b.factors == h))

/-- CODEC_RECORDS follows the records and runs (R215). -/
def syncRecords (s : State) : State :=
  let n := (s.objs.filter (fun e => e.2.record.isSome)).length
  setF (setF s Reg.CODEC_RECORDS 12 0 n) Reg.CODEC_RECORDS 20 16 s.runs.length

/-- The lowest handle that is free (R163). -/
def freeHandle (s : State) (f : Nat) : Option Nat := (upFrom 1 32767).find? (fun h => (objGet s f h).isNone)

/-- The lowest run of `n` free pages from page 1 upward in a function space (R147), searched at the ends of the
objects there. -/
def freeRun (s : State) (f n : Nat) : Option Nat :=
  let os := objsOf s f
  let free := fun a => a + n ≤ 0x400000 && os.all (fun o => a + n ≤ o.first || o.first + o.pages.length ≤ a)
  ((1 :: os.map (fun o => o.first + o.pages.length)).filter free).foldl
    (fun m a => match m with
      | none => some a
      | some b => some (min a b)) none

/-- The near-store address of a frame. -/
def frameAddr (st n : Nat) : Nat := st * 2 ^ 40 + n * pageSize

/-- The sectors of a near-store page at an address; a sector is numbered by its address / 64. -/
def inPage (x k : Nat) : Bool := x ≤ k * 64 && k * 64 < x + pageSize

/-- The near-store sector in which a soft error lies. -/
def sectorOf (e : ErrPlace × Bool) : Option Nat :=
  match e.1 with
  | .sector st n => some (st * 2 ^ 34 + n)
  | _ => none

/-- Zero the near-store frames of some pages: every sector is written whole, so poison and latent errors go (R147, R154). -/
def zeroPages (s : State) (ps : List PageLoc) : State :=
  ps.foldl (fun s p => match p with
    | .near st n =>
      let x := frameAddr st n
      { s with near := mzero s.near x pageSize,
               poison := s.poison.filter (fun k => !inPage x k),
               errs := s.errs.filter (fun e => !(sectorOf e).any (inPage x)) }
    | .far _ => s) s

/-- Create an object with its pages placed: lowest free run, frames zeroed (R147). None when there is no room. -/
def createObj (s : State) (o : Obj) (tier mask : Nat) : Option State :=
  let n := ceilDiv o.size pageSize
  match freeRun s o.fn n with
  | none => none
  | some a => match placePages s o.fn (wants tier mask n) with
    | none => none
    | some ps => some (zeroPages (objPut s { o with first := a, pages := ps }) ps)

/-! ### Placement requests -/

/-- MIGRATING follows the pages in copy (R177). -/
def syncMigrating (s : State) : State :=
  setR s Reg.MIGRATING ((s.places.map (fun r => r.copying.length)).foldl (· + ·) 0)

/-- All pages near, all far, or both (R163). -/
def tierOf (ps : List PageLoc) : Nat :=
  let far := ps.any (fun p => match p with | .far _ => true | .near _ _ => false)
  let near := ps.any (fun p => match p with | .far _ => false | .near _ _ => true)
  if far && near then 2 else if far then 1 else 0

/-- The REQ fields of an entry: tier, stacks, sequence number (R163). -/
def reqFields (s : State) (f h : Nat) : Nat × Nat × Nat :=
  let a := f * pageSize + h * 64 + 0x22
  ((mget s.ptab a).toNat, (mget s.ptab (a + 1)).toNat, leNat (mread s.ptab (a + 2) 2))

/-- A request ends with a result: RESULT, DONE_SEQ and STATE of its entry (R163, R165). Pages in both tiers are what a request
left that did not reach its target. -/
def endEntry (f h seq code : Nat) (s : State) : State :=
  objMod f h (fun o => { o with result := code, doneSeq := seq, state := if tierOf o.pages = 2 then 3 else 1 }) s

/-- The unscheduled requests of some pages in copy leave (R169). -/
def leaveIds (ids : List Nat) (s : State) : State := { s with uns := s.uns.filter (fun u => !ids.contains u.id) }

/-- Check a PLACE and begin it (R164, R165). The request stands in the list as one that has not been checked; it leaves the list
where it ends at once. -/
def placeNow (r : PlaceReq) (s : State) : State :=
  let f := r.fn
  let h := r.handle
  let tier := r.tier
  let mask := r.mask
  let gone := { s with places := s.places.erase r }
  match objGet s f h with
  | none => finish r.hdr 9 0 0 gone
  | some o =>
    let sks := bitPositions 8 mask
    let stop := fun (code : Nat) => finish r.hdr code 0 0 (endEntry f h r.seq code gone)
    if 1 < tier then stop 9
    else if tier = 0 ∧ mask = 0 then stop 4
    else if tier = 0 ∧ sks.any (fun st => !stackOn s st) then stop 5
    else if tier = 0 ∧ sks.any (fun st => (fnGranules s f st).isEmpty) then stop 4
    else
      let at_ : Nat → PageLoc → Bool := fun k p => match p with
        | .near st _ => tier == 0 && st == stackFor mask k
        | .far _ => tier == 1
      let idx := (List.range o.pages.length).filter (fun k => match o.pages[k]? with
        | some p => !at_ k p
        | none => false)
      if idx.isEmpty then stop 1
      else match placePages s f (idx.map (fun k => if tier = 1 then none else some (stackFor mask k))) with
        | none => stop (if tier = 1 then 3 else 2)
        | some ps =>
          let s := objMod f h (fun o => { o with state := 2 }) s
          { s with places := s.places.map (fun x => if x = r then { r with checked := true, moves := List.zip idx ps } else x) }

/-- Requests are checked in command order: each once no earlier request on its entry has pages in copy, and none before every
earlier one has been checked (R168). The fuel is the number of requests. -/
def placeNext : Nat → State → State
  | 0, s => s
  | k + 1, s =>
    match s.places.find? (fun r => !r.checked) with
    | none => s
    | some r =>
      if s.places.any (fun x => x.checked && x.fn == r.fn && x.handle == r.handle) then s
      else placeNext k (placeNow r s)

/-- The requests that wait are checked as far as they can be. -/
def placeAll (s : State) : State := placeNext s.places.length s

/-- After requests of `s` were abandoned, those that waited behind them are checked (R168). -/
def recheck (s t : State) : State := if t.places = s.places then t else placeAll t

/-- A request leaves the list with its result, and the PLACE that waits for it begins (R168). -/
def endPlace (r : PlaceReq) (code : Nat) (s : State) : State :=
  let s := syncMigrating { s with places := s.places.erase r }
  placeAll (finish r.hdr code 0 0 (endEntry r.fn r.handle r.seq code s))

/-- Abandon one request: its pages in copy with their unscheduled requests, and its completion (R168). -/
def dropPlace (code : Nat) (s : State) (r : PlaceReq) : State :=
  let s := syncMigrating (leaveIds (r.copying.map (·.2.2)) { s with places := s.places.erase r })
  finish r.hdr code 0 0 (endEntry r.fn r.handle r.seq code s)

/-- Abandon the requests that a test picks, with a code (R168). -/
def dropPlaces (pick : PlaceReq → Bool) (code : Nat) (s : State) : State :=
  (s.places.filter pick).foldl (dropPlace code) s

/-! ### The serving registers -/

/-- The code of RANK in SERVE_STATE (R301). -/
def rankCode (r : Nat) : Nat := Nat.log2 (r / 4)

/-- Adapters pegged in a context: those that hold a peg, ending or not (R300). -/
def pegCount (v : Serve) : Nat := ((v.pegs.map (·.adapter)).eraseDups).length

/-- SERVE_STATE and PEGS of a context where serving is open: a commit drains until every started batch has completed, then it copies
(R292, R300, R301). -/
def syncServe (s : State) (e : Nat × Serve) : State :=
  let (c, v) := e
  let phase := match v.closing, v.turn with
    | some _, _ => 4
    | none, some _ => if v.batches.all (fun b => v.nextStart ≤ b.seq) then 3 else 2
    | none, none => 1
  let st := 2 ^ 31 + phase * 2 ^ 28 + (v.a.sets - 1) * 2 ^ 27 + rankCode v.a.rank * 2 ^ 24 + (v.a.segments - 1) * 2 ^ 16
    + (v.a.capacity - 1) * 2 ^ 8 + (if v.staged.isEmpty then 0 else 128) + v.batches.length
  setR (setR s (Reg.SERVE_STATE c) st) (Reg.PEGS c) (pegCount v)

/-- The serving registers follow the serving contexts (R299-R301). -/
def syncServeRegs (s : State) : State :=
  let s := s.serves.foldl syncServe s
  setR (setR s Reg.PEG_POOL ((s.serves.map (fun e => pegCount e.2)).foldl (· + ·) 0)) Reg.POOL_RESERVED
    ((s.serves.map (fun e => e.2.a.poolSlots)).foldl (· + ·) 0)

/-- A staged version whose source is freed is no longer staged. -/
def dropStaged (f h : Nat) (s : State) : State :=
  syncServeRegs { s with serves := s.serves.map (fun e =>
    (e.1, if tget s.ctxFn e.1 = some f then { e.2 with staged := e.2.staged.filter (fun x => x.2 != h) } else e.2)) }

/-! ### Freeing -/

/-- Coding runs of a target end ABANDONED (R208). -/
def dropRuns (pick : CodingRun → Bool) (s : State) : State :=
  (s.runs.filter pick).foldl (fun s r => finish r.hdr 9 0 0 (syncRecords { s with runs := s.runs.erase r })) s

/-- Objects that were freed while frozen go once no binding names them (R195). -/
def reapFrozen (s : State) : State :=
  { s with objs := s.objs.filter (fun e => !(e.2.freed && !frozenObj s e.2.fn e.2.handle)) }

/-- Free an object: its requests end FREED, its runs ABANDONED; a frozen one keeps its entry and pages until its last
binding ends (R168, R195, R208). -/
def freeObj (f h : Nat) (s : State) : State :=
  match objGet s f h with
  | none => s
  | some o =>
    let t := dropPlaces (fun r => r.fn == f && r.handle == h) 8 s
    let t := dropStaged f h (dropRuns (fun r => r.fn == f && r.handle == h) t)
    recheck s (if frozenObj t f h then objPut t { o with freed := true, users := [] }
      else syncRecords (reapFrozen { t with objs := tdel t.objs (objKey f h) }))

/-! ### The device range (R145, R146) -/

/-- What a device address reaches. -/
inductive Dev where
  | table (f off : Nat)
  | near (a : Nat)
  | far (f a : Nat)
  | tile (l off : Nat)
  | unmapped
  deriving DecidableEq, Repr

/-- What a byte of a page reaches. -/
def pageDev (s : State) (f : Nat) (p : PageLoc) (off : Nat) : Dev :=
  match p with
  | .near st n => .near (frameAddr st n + off)
  | .far j => .far f (nth (tgetD s.farPool f []) j + off)

/-- The object that holds a page of a function space. -/
def objAtPage (s : State) (f pg : Nat) : Option Obj :=
  (objsOf s f).find? (fun o => o.first ≤ pg && pg < o.first + o.pages.length)

/-- The physical function reaches a frozen instance's spaces (R380). -/
def reaches (s : State) (f g : Nat) : Bool := f == g || (f == 0 && fld s (Reg.INST_STATE g) 2 0 == 4)

/-- The functions whose spaces an access of function f reaches. -/
def reachList (s : State) (f : Nat) : List Nat := (List.range 32).filter (fun g => reaches s f g)

/-- A device address under the function of an access (R145-R147). -/
def devAt (s : State) (f a : Nat) : Dev :=
  if a < 2 ^ 48 then
    let g := a / 2 ^ 43
    let o := a % 2 ^ 43
    if reaches s f g then
      let pg := o / pageSize
      if pg = 0 then .table g o
      else match objAtPage s g pg with
        | some x => match x.pages[pg - x.first]? with
          | some p => pageDev s g p (o % pageSize)
          | none => .unmapped
        | none => .unmapped
    else .unmapped
  else if a < 2 ^ 48 + 0x80000000 then
    let l := (a - 2 ^ 48) / 0x400000
    if (reachList s f).any (fun g => (shapeTiles s g).testBit (l / 16)) ∧ (siteOfTile s l).isSome then
      .tile l ((a - 2 ^ 48) % 0x400000)
    else .unmapped
  else .unmapped

/-- A range of device addresses, cut at 2 MiB boundaries: what each piece reaches and its length. -/
def devSpans (s : State) (f : Nat) : Nat → Nat → Nat → List (Dev × Nat)
  | 0, _, _ => []
  | k + 1, a, n =>
    if n = 0 then []
    else
      let m := min n (pageSize - a % pageSize)
      (devAt s f a, m) :: devSpans s f k (a + m) (n - m)

/-- The pieces of a range. -/
def spansOf (s : State) (f a n : Nat) : List (Dev × Nat) := devSpans s f (n / pageSize + 2) a n

/-- Every byte of a range is mapped. -/
def mapped (s : State) (f a n : Nat) : Bool := (spansOf s f a n).all (fun p => p.1 != .unmapped)

/-- The bytes of a range of an object, in pieces. -/
def objSpans (s : State) (o : Obj) : Nat → Nat → Nat → List (Dev × Nat)
  | 0, _, _ => []
  | k + 1, off, n =>
    if n = 0 then []
    else
      let m := min n (pageSize - off % pageSize)
      let d := match o.pages[off / pageSize]? with
        | some p => pageDev s o.fn p (off % pageSize)
        | none => .unmapped
      (d, m) :: objSpans s o k (off + m) (n - m)

/-! ### Placement-table bytes (R163) -/

/-- The 64 bytes of an object's entry. -/
def entryBytes (s : State) (o : Obj) : Bytes :=
  let far := (o.pages.filter (fun p => match p with | .far _ => true | .near _ _ => false)).length
  let sks := o.pages.foldl (fun m p => match p with | .near st _ => m ||| 2 ^ st | .far _ => m) 0
  natLe 4 o.id ++ natLe 1 o.state ++ natLe 1 o.owner ++ natLe 1 o.oflags ++ natLe 1 o.format
    ++ natLe 8 (o.fn * 2 ^ 43 + o.first * pageSize) ++ natLe 8 o.size ++ natLe 4 o.pages.length ++ natLe 4 far
    ++ natLe 1 (tierOf o.pages) ++ natLe 1 sks ++ mread s.ptab (o.fn * pageSize + o.handle * 64 + 0x22) 4
    ++ natLe 2 o.doneSeq ++ natLe 1 o.result ++ natLe 23 0

/-- One byte of a placement table. Entry 0 reads as zeros; a free entry shows the REQ fields alone. -/
def tableByte (s : State) (f off : Nat) : Byte :=
  let h := off / 64
  if h = 0 then 0#8
  else match objGet s f h with
    | some o => (entryBytes s o).getD (off % 64) 0#8
    | none => mget s.ptab (f * pageSize + off)

/-- Bytes of a placement table that host software writes: the REQ fields; the rest are discarded (R163). -/
def tableWrite (f off : Nat) (bs : Bytes) (s : State) : State :=
  (List.zip (List.range bs.length) bs).foldl (fun s e =>
    let o := off + e.1
    if 64 ≤ o ∧ 0x22 ≤ o % 64 ∧ o % 64 < 0x26 then { s with ptab := mput s.ptab (f * pageSize + o) e.2 } else s) s

/-! ### Reads and writes -/

/-- The pseudo-channel of a near-store address (R155). -/
def pcOf (a : Nat) : Nat := (a % pageSize / 256 + a % 2 ^ 40 / pageSize) % 64

/-- A latent error of a sector of a near-store range is met: corrected and counted, or poisoned (R154). -/
def sectorMeet (lo hi : Nat) (s : State) (e : ErrPlace × Bool) : State :=
  match sectorOf e with
  | some k =>
    if lo ≤ k ∧ k ≤ hi then
      let st := k / 2 ^ 34
      let s := { s with errs := s.errs.erase e }
      if e.2 then satR (orR { s with poison := if k ∈ s.poison then s.poison else s.poison ++ [k] } Reg.MEM_CAUSE 2)
        (Reg.HBM_POISONED st) 1
      else satR (orR s Reg.MEM_CAUSE 1) (Reg.HBM_CORRECTED st) 1
    else s
  | none => s

/-- The latent errors of a range of sectors are met, as a read of all of them does. -/
def meetSectors (lo hi : Nat) (s : State) : State := s.errs.foldl (sectorMeet lo hi) s

/-- Read the near store (R154). For a context, poison is a chip fault; for others the read fails. -/
def nearRead (ctx : Bool) (a n : Nat) (s : State) : State × Option Bytes :=
  let lo := a / 64
  let hi := (a + n - 1) / 64
  let s := meetSectors lo hi s
  match s.poison.find? (fun k => lo ≤ k && k ≤ hi) with
  | none => (s, some (mread s.near a n))
  | some k =>
    if ctx then (chipFault 0x09 (k * 64 / 2 ^ 40 * 2 ^ 21 + pcOf (k * 64) * 2 ^ 15) (orR s Reg.MEM_CAUSE 4), none)
    else (orR s Reg.MEM_CAUSE 2, none)

/-- Write the near store: a sector written whole loses its poison (R154). -/
def nearWrite (a : Nat) (bs : Bytes) (s : State) : State :=
  let whole := fun k => a ≤ k * 64 && k * 64 + 64 ≤ a + bs.length
  { s with near := mwrite s.near a bs, poison := s.poison.filter (fun k => !whole k),
           errs := s.errs.filter (fun e => !(sectorOf e).any whole) }

/-- A far-store read failed (R159). -/
def farError (ctx : Bool) (f : Nat) (s : State) : State :=
  let s := orR s Reg.MEM_CAUSE 0x20
  if ctx then chipFault 0x0A f s else s

/-- A range of a far page answers and holds no poison (R159, R167). -/
def farOk (s : State) (f a n : Nat) : Bool :=
  hostOk s f a n && s.farPoison.all (fun k => k * 64 + 64 ≤ hostKey f a || hostKey f a + n ≤ k * 64)

/-- A write of a far page: a sector written whole loses its poison. -/
def farWrite (f a : Nat) (bs : Bytes) (s : State) : State :=
  let x := hostKey f a
  { hostWrite s f a bs with farPoison := s.farPoison.filter (fun k => !(x ≤ k * 64 && k * 64 + 64 ≤ x + bs.length)) }

/-- Read one piece (R149, R154, R159); none is a data error. -/
def pieceRead (ctx : Bool) (d : Dev) (n : Nat) (s : State) : State × Option Bytes :=
  match d with
  | .table f off => (s, some ((List.range n).map (fun i => tableByte s f (off + i))))
  | .near a => nearRead ctx a n s
  | .far f a => if farOk s f a n then (s, some (hostRead s f a n)) else (farError ctx f s, none)
  | .tile l off =>
    let s := match siteOfTile s l with | some site => portUse site s | none => s
    let lo := off / 32
    let hi := (off + n - 1) / 32
    let hit := fun (e : ErrPlace × Bool) => match e.1 with | .store m w => m == l && lo ≤ w && w ≤ hi | _ => false
    let bad := s.errs.any (fun e => hit e && e.2)
    let fixed := (s.errs.filter (fun e => hit e && !e.2)).length
    let s := { s with errs := s.errs.filter (fun e => !(hit e && !e.2)) }
    let s := if fixed = 0 then s else satR (orR s Reg.MEM_CAUSE 8) Reg.TS_CORRECTED fixed
    if bad then (orR s Reg.MEM_CAUSE 0x10, none) else (s, some (mread s.tileStore (l * 0x400000 + off) n))
  | .unmapped => (orR s Reg.MEM_CAUSE 0x40, none)

/-- Read pieces in order. -/
def piecesRead (ctx : Bool) : List (Dev × Nat) → State → State × Option Bytes
  | [], s => (s, some [])
  | (d, n) :: t, s =>
    let (s, r) := pieceRead ctx d n s
    match r with
    | none => (s, none)
    | some b =>
      let (s, q) := piecesRead ctx t s
      (s, q.map (b ++ ·))

/-- Write one piece. -/
def pieceWrite (d : Dev) (bs : Bytes) (s : State) : State :=
  match d with
  | .table f off => tableWrite f off bs s
  | .near a => nearWrite a bs s
  | .far f a => farWrite f a bs s
  | .tile l off =>
    let s := match siteOfTile s l with | some site => portUse site s | none => s
    let whole := fun w => off ≤ w * 32 && w * 32 + 32 ≤ off + bs.length
    { s with tileStore := mwrite s.tileStore (l * 0x400000 + off) bs,
             errs := s.errs.filter (fun e => match e.1 with | .store m w => !(m == l && whole w) | _ => true) }
  | .unmapped => orR s Reg.MEM_CAUSE 0x40

/-- Write pieces in order. -/
def piecesWrite : List (Dev × Nat) → Bytes → State → State
  | [], _, s => s
  | (d, n) :: t, bs, s => piecesWrite t (bs.drop n) (pieceWrite d (bs.take n) s)

/-- Read an object's bytes. -/
def objRead (ctx : Bool) (o : Obj) (off n : Nat) (s : State) : State × Option Bytes :=
  piecesRead ctx (objSpans s o (n / pageSize + 2) off n) s

/-- Write an object's bytes. -/
def objWrite (o : Obj) (off : Nat) (bs : Bytes) (s : State) : State :=
  piecesWrite (objSpans s o (bs.length / pageSize + 2) off bs.length) bs s

/-- The codec units in service, ascending (R184). -/
def unitsOn (s : State) : List Nat := (List.range 8).filter (fun u => bitR s (Reg.CODEC_STATUS u) 31)

/-- The codec unit that serves a page of an object: that of its stack, or by the far-store assignment in force (R184). -/
def unitOfPage (s : State) (o : Obj) (k : Nat) : Nat :=
  match o.pages[k]? with
  | some (.near st _) => st
  | _ => let us := bitPositions 8 s.farUnits; nth us (k % us.length)

/-- The frozen object that a range of device addresses meets, with the page (R195). -/
def frozenIn (s : State) (f a n : Nat) : Option (Obj × Nat) :=
  (s.objs.map (·.2)).findSome? (fun o =>
    let base := o.fn * 2 ^ 43 + o.first * pageSize
    if reaches s f o.fn && frozenObj s o.fn o.handle && base < a + n && a < base + o.pages.length * pageSize
    then some (o, (max a base - base) / pageSize) else none)

/-- The context whose staged source a range of device addresses meets (R293). -/
def stagedIn (s : State) (f a n : Nat) : Option Nat :=
  s.serves.findSome? (fun e =>
    let g := (tget s.ctxFn e.1).getD 0
    if reaches s f g && e.2.staged.any (fun x => match objGet s g x.2 with
      | some o =>
        let base := o.fn * 2 ^ 43 + o.first * pageSize
        base < a + n && a < base + o.pages.length * pageSize
      | none => false)
    then some e.1 else none)

/-- A read of the device range for host software (R146): the envelope status, 0 where it succeeds, and the bytes. -/
def devRead (f a n : Nat) (s : State) : State × Nat × Bytes :=
  if !mapped s f a n then (orR s Reg.MEM_CAUSE 0x40, 4, [])
  else
    let (s, r) := piecesRead false (spansOf s f a n) s
    match r with
    | some b => (s, 0, b)
    | none => (s, 5, [])

/-- Host software writes a range: what the media front end later reads from a work object in it is corrupted (R305). -/
def spoilWork (f a n : Nat) (s : State) : State :=
  { s with chans := s.chans.map (fun e => match objGet s e.2.fn e.2.a.work with
    | some o =>
      let base := o.fn * 2 ^ 43 + o.first * pageSize
      if reaches s f o.fn && base < a + n && a < base + o.pages.length * pageSize then (e.1, { e.2 with spoiled := true }) else e
    | none => e) }

/-- A write of the device range for host software (R146, R195, R293, R305). -/
def devWrite (f a : Nat) (bs : Bytes) (s : State) : State × Nat :=
  if !mapped s f a bs.length then (orR s Reg.MEM_CAUSE 0x40, 4)
  else match frozenIn s f a bs.length with
    | some (o, k) => (orR s (Reg.CODEC_CAUSE (unitOfPage s o k)) 0x80, 5)
    | none => match stagedIn s f a bs.length with
      | some c => (orR s (Reg.SERVE_CAUSE c) 0x10, 5)
      | none => (piecesWrite (spansOf s f a bs.length) bs (spoilWork f a bs.length s), 0)

/-! ### Unscheduled requests (R169-R173) -/

/-- The advance of a source group (R180). -/
def advanceOf (s : State) (group : Nat) : Nat := fld s Reg.GROUP_ADVANCE (4 * group + 3) (4 * group)

/-- The pseudo-channels and banks that a piece of a range reaches: 0-511 pseudo-channel by stack, from 1,024 on banks by logical
tile (R149, R155). -/
def arbKeys (p : Dev × Nat) : List Nat :=
  match p.1 with
  | .near a =>
    let ks := if 16384 ≤ p.2 then List.range 64 else (upFrom (a / 256) ((a + p.2 - 1) / 256 + 1 - a / 256)).map (fun i => pcOf (i * 256))
    ks.eraseDups.map (a / 2 ^ 40 * 64 + ·)
  | .tile l off => (upFrom (off / 262144) ((off + p.2 - 1) / 262144 + 1 - off / 262144)).map (1024 + l * 16 + ·)
  | _ => []

/-- The path of a request of some pieces (R173). -/
def pathOf (ps : List (Dev × Nat)) : ReqPath :=
  if ps.any (fun p => match p.1 with | .far _ _ => true | _ => false) then .far
  else if ps.any (fun p => match p.1 with | .tile _ _ => true | _ => false) then .tile
  else .near

/-- The pieces are one access of the memory path: 64 bytes of the near store or one word of a tile store (R149, R152). -/
def oneAccess : List (Dev × Nat) → Bool
  | [(.near a, n)] => a / 64 == (a + n - 1) / 64
  | [(.tile _ off, n)] => off / 32 == (off + n - 1) / 32
  | _ => false

/-- An unscheduled request for some pieces enters with its ticket (R171). -/
def enter (group : Fin 8) (f : Nat) (ps : List (Dev × Nat)) (s : State) : State :=
  { s with nextUns := s.nextUns + 1,
           uns := s.uns ++ [{ id := s.nextUns, group := group, fn := f, ticket := (s.timeBase + 65536 - advanceOf s group.val) % 65536,
                              overdue := false, path := pathOf ps, keys := ps.flatMap arbKeys, whole := oneAccess ps }] }

/-- The bound of R173 on a request's wait, in ticks of 40 ns: the advances, 16 slots for each request that the queues of the path
hold, refresh, and the opening of a port; none on a path to the far store. A tile cycle is 40 / `tileRate` ns. -/
def waitBound (s : State) (group : Nat) : ReqPath → Option Nat
  | .near => some ((List.range 8).foldl (fun m g => max m (advanceOf s g)) 0 - advanceOf s group
      + (16 * (16 + 32) * 40 / tileRate s + 16 * 64 + 800) / 40)
  | .tile => some ((List.range 8).foldl (fun m g => max m (advanceOf s g)) 0 - advanceOf s group
      + (16 * (13 * 16 + 4) * 40 / tileRate s + 500) / 40)
  | .far => none

/-- A wait of at most `age` ticks, which the spec does not state further, enters the longest of its group (R173). -/
def waited (group : Fin 8) (age : Nat) (p : ReqPath) (s : State) : State :=
  let (v, s) := freshVal s 16
  maxR s (Reg.MEM_WAIT_MAX group.val) (v % (min age ((waitBound s group.val p).getD age) + 1))

/-- A request leaves: its wait, some part of its age, is recorded (R173). -/
def leave (id : Nat) (s : State) : State :=
  match s.uns.find? (fun u => u.id == id) with
  | none => s
  | some u => waited u.group (ageOf s u) u.path { s with uns := s.uns.erase u }

/-- An unscheduled request that is served within the command that makes it: its wait is free within the bound, and below the age
at which it would be overdue (R169, R171, R173). -/
def passing (group : Fin 8) (ps : List (Dev × Nat)) (s : State) : State := waited group 16383 (pathOf ps) s

/-- TICKET_OVERDUE (R171). -/
def ticketOverdue (id : Nat) (s : State) : State :=
  match s.uns.find? (fun u => u.id == id && !u.overdue && 16384 ≤ ageOf s u) with
  | none => s
  | some u =>
    let s := { s with uns := s.uns.map (fun x => if x.id = id then { x with overdue := true } else x) }
    satR (orR s Reg.MEM_CAUSE 0x80) (Reg.MEM_OVERDUE u.group.val) 1

def execTicketOverdue (id : Nat) (s : State) : Out := commit s (ticketOverdue id s)


/-! ### Temperature and scrub -/

/-- One stack's readout: TEMP, and the refresh rate (R157, R179). -/
def readTemp (s : State) (e : Nat × Nat) : State :=
  let k := Reg.STACK_STATUS e.1
  if !bitR s k 31 then s
  else
    let hot := decide (85 ≤ e.2)
    let was := bitR s k 14
    let s := setB (setF s k 23 16 (min e.2 255)) k 14 hot
    if hot != was then orR s Reg.MEM_CAUSE 0x100 else s

/-- TEMPERATURE_READOUT (R157). -/
def temperatureReadout (temps : List Nat) (s : State) : State :=
  if s.start.inReset || s.power.rest == .sleep then s
  else (List.zip (List.range 8) (temps.take 8)).foldl readTemp s

def execTemperatureReadout (temps : List Nat) (s : State) : Out := commit s (temperatureReadout temps s)

/-- The row of a sector of a stack: pseudo-channel and 1 KiB of it (log entry 14). -/
def rowOfSector (n : Nat) : Nat × Nat := (pcOf (n * 64), n * 64 / pageSize * 32 + n * 64 % pageSize / 16384 / 4)

/-- The row in which a soft error of the near store lies: stack, pseudo-channel and row. -/
def rowOfErr (e : ErrPlace × Bool) : Option (Nat × Nat × Nat) :=
  match e.1 with
  | .sector st n => some (st, rowOfSector n)
  | _ => none

/-- The rows that hold two or more corrected errors of a pass (R174). -/
def candidates (s : State) : List (Nat × Nat × Nat) :=
  let es := (s.errs.filter (fun e => !e.2)).filterMap rowOfErr
  es.eraseDups.filter (fun r => 2 ≤ es.count r)

/-- SCRUB_PASS: a pass has read every sector as traffic of group 7: corrected sectors are written back, uncorrectable ones
poisoned, poison that stood is reported, rows with two or more corrected errors logged (R154, R169, R174, R175). -/
def scrubPass (s : State) : State :=
  if bitR s Reg.SCRUB_CONTROL 31 && s.power.rest != .sleep then
    let rows := candidates s
    let s := meetSectors 0 (2 ^ 37 - 1) s
    let s := if s.poison.isEmpty then s else orR s Reg.MEM_CAUSE 2
    let log := s.store.spareLog
    let s := passing 7 [(.near 0, 64)] { s with store := { s.store with spareLog := log ++ rows.filter (fun r => !log.contains r) } }
    satR (satR (orR s Reg.MEM_CAUSE 0x400) Reg.SPARE_CANDIDATES rows.length) Reg.SCRUB_PASSES 1
  else s

/-- Rows are replaced by spare rows: the errors in them go (R176). -/
def replaceRows (rows : List (Nat × Nat × Nat)) (s : State) : State :=
  { s with errs := s.errs.filter (fun e => !(rowOfErr e).any rows.contains) }

/-- Soft repair of a stack at start-up: every logged candidate in it is replaced until the next start (R176). -/
def softRepair (st : Nat) (s : State) : State :=
  let rows := s.store.spareLog.filter (fun r => r.1 == st && !s.softRows.contains r)
  replaceRows rows { s with softRows := s.softRows ++ rows }

/-- Hard repair of a stack under the spare-remap token: every logged candidate in it is replaced for good and leaves the log
(R176). -/
def hardRepair (st : Nat) (s : State) : State :=
  let rows := s.store.spareLog.filter (fun r => r.1 == st)
  replaceRows rows { s with store := { s.store with hardRows := s.store.hardRows ++ rows,
                                                    spareLog := s.store.spareLog.filter (fun r => r.1 != st) } }

def execScrubPass (s : State) : Out := commit s (scrubPass s)

/-! ### BAR2 -/

/-- BAR2 is served: in early or full service, QUIESCED included (R467, R494). -/
def bar2On (s : State) : Bool := inService s && awake s

/-- One 32-bit word of a BAR2 read: 0xFFFFFFFF where it is unmapped or fails (R146, R154, R199). -/
def bar2Word (s : State) (a : Nat) : State × Bytes :=
  let (s, st, b) := devRead 0 a 4 s
  (s, if st = 0 then b else List.replicate 4 0xFF#8)

/-- The words of a BAR2 read. -/
def bar2Words : Nat → Nat → State → State × Bytes
  | 0, _, s => (s, [])
  | k + 1, a, s =>
    let (s, w) := bar2Word s a
    let (s, t) := bar2Words k (a + 4) s
    (s, w ++ t)

/-- The sites whose tile stores some pieces reach. -/
def sitesOf (s : State) (ps : List (Dev × Nat)) : List Nat :=
  ps.filterMap (fun p => match p.1 with | .tile l _ => siteOfTile s l | _ => none)

/-- A BAR2 write waits at a tile-store port (R28). -/
def bar2Held (s : State) : Bool :=
  s.ports.any (fun e => (e.2.held ++ e.2.behind).any (fun i => match i with | .bar2Write _ _ => true | _ => false))

/-- BAR2_READ: unscheduled traffic of group 1. It waits until every earlier BAR2 write has been performed, and at the closed
port of a GATED tile (R28, R148). -/
def bar2Read (off len : Nat) (s : State) : State :=
  if 2 ^ 36 < off + len then s
  else if !bar2On s then emit s (.readData (List.replicate len 0xFF#8))
  else
    let a := getR s Reg.BAR2_BASE + off
    let lo := a / 4 * 4
    let ps := spansOf s 0 lo (a + len - lo)
    if bar2Held s || !s.bar2q.isEmpty then { s with bar2q := s.bar2q ++ [.bar2Read off len] }
    else viaPorts (.bar2Read off len) (sitesOf s ps) (fun s =>
      let (s, b) := bar2Words (ceilDiv (a + len - lo) 4) lo (passing 1 ps s)
      emit s (.readData ((b.drop (a - lo)).take len))) s

def execBar2Read (off len : Nat) (s : State) : Out := commit s (access (.bar2Read off len) (bar2Read off len) s)

/-- The pieces of a BAR2 write that lie in one 2 MiB page each; an unmapped one is dropped (R146). -/
def bar2Pieces : Nat → Nat → Bytes → State → State
  | 0, _, _, s => s
  | k + 1, a, bs, s =>
    if bs.isEmpty then s
    else
      let m := min bs.length (pageSize - a % pageSize)
      bar2Pieces k (a + m) (bs.drop m) (devWrite 0 a (bs.take m) s).1

/-- BAR2_WRITE: unscheduled traffic of group 1; it follows what waits before it (R28, R148, R167). -/
def bar2Write (off : Nat) (data : Bytes) (s : State) : State :=
  if 2 ^ 36 < off + data.length ∨ !bar2On s then s
  else
    let a := getR s Reg.BAR2_BASE + off
    let ps := spansOf s 0 a data.length
    if !s.bar2q.isEmpty then { s with bar2q := s.bar2q ++ [.bar2Write off data] }
    else viaPorts (.bar2Write off data) (sitesOf s ps) (fun s => bar2Pieces (data.length / pageSize + 2) a data (passing 1 ps s)) s

def execBar2Write (off : Nat) (data : Bytes) (s : State) : Out := commit s (access (.bar2Write off data) (bar2Write off data) s)

/-! ### DMA -/

/-- The device ranges that a DMA names: source and destination (R380). -/
def dmaRanges (dir len src dst : Nat) : List (Nat × Nat) :=
  (if dir = 0 then [] else [(src, len)]) ++ (if dir = 1 then [] else [(dst, len)])

/-- DMA starts (R380): a length of 0 or an unused DIRECTION is FIELD, an unmapped device range is UNMAPPED. -/
def dmaStart (h : CmdHdr) (dir len src dst : Nat) (s : State) : State :=
  if len = 0 ∨ 2 < dir then reject h 2 s
  else if (dmaRanges dir len src dst).any (fun r => !mapped s h.fn.val r.1 r.2) then
    reject h 4 (orR s Reg.MEM_CAUSE 0x40)
  else
    let id := s.nextUns
    let s := enter (if h.fn.val = 0 then 1 else 2) h.fn.val ((dmaRanges dir len src dst).flatMap (fun r => spansOf s h.fn.val r.1 r.2)) s
    { s with dmas := s.dmas ++ [{ hdr := h, dir := dir, len := len, src := src, dst := dst, req := id }] }

def execDma (h : CmdHdr) (direction len src dst : Nat) (s : State) : Out :=
  commit s (hostCmd (.dma h direction len src dst) h .runs (dmaStart h direction len src dst) s)

/-- Perform a DMA: the envelope status that it ends with. -/
def dmaMove (d : Dma) (s : State) : State × Nat :=
  let f := d.hdr.fn.val
  let (s, st, b) :=
    if d.dir = 0 then
      if hostOk s f d.src d.len then (s, 0, hostRead s f d.src d.len) else (s, 5, [])
    else devRead f d.src d.len s
  if st ≠ 0 then (s, st)
  else if d.dir = 1 then
    if hostOk s f d.dst d.len then (hostWrite s f d.dst b, 0) else (s, 5)
  else devWrite f d.dst b s

/-- A DMA is served: its bytes move, and its completion is posted under the generation check (R377). -/
def dmaServe (d : Dma) (s : State) : State :=
  let s := leave d.req { s with dmas := s.dmas.erase d }
  if d.hdr.gen ≠ genOf s d.hdr.fn.val then finish d.hdr 0 0 0 s
  else
    let (s, st) := dmaMove d s
    if st = 0 then finish d.hdr 0 0 0 s else reject d.hdr st s

/-- The pieces of the device range that a DMA names. -/
def dmaSpans (s : State) (d : Dma) : List (Dev × Nat) :=
  (dmaRanges d.dir d.len d.src d.dst).flatMap (fun r => spansOf s d.hdr.fn.val r.1 r.2)

/-- DMA_COMPLETE: a DMA is served in its turn (R171); at the closed port of a GATED tile it waits until the port is open (R28). -/
def dmaComplete (f q cid : Nat) (s : State) : State :=
  match s.dmas.find? (fun d => d.hdr.fn.val == f && d.hdr.qp == q && d.hdr.cid == cid) with
  | none => s
  | some d =>
    if !awake s ∨ s.faultSeq.phase = .sequence ∨ !mayServe s d.req then s
    else viaPorts (.dmaComplete d.hdr.fn q cid) (sitesOf s (dmaSpans s d)) (dmaServe d) s

def execDmaComplete (f : FnId) (q cid : Nat) (s : State) : Out := commit s (dmaComplete f.val q cid s)

/-- A DMA fails with a data error. -/
def failDma (f q cid : Nat) (s : State) : State :=
  match s.dmas.find? (fun d => d.hdr.fn.val == f && d.hdr.qp == q && d.hdr.cid == cid) with
  | some d => reject d.hdr 5 (leave d.req { s with dmas := s.dmas.erase d })
  | none => s

/-- A DMA reads the far store. -/
def readsFar (s : State) (d : Dma) : Bool :=
  d.dir != 0 && (spansOf s d.hdr.fn.val d.src d.len).any (fun p => match p.1 with | .far _ _ => true | _ => false)

/-- FAR_ACCESS_ERROR: a far-store read failed. For a context it is a chip fault; otherwise its requester, the oldest DMA of the
function that reads the far store, receives the error status of a data error (R159, R379). -/
def farAccessError (f : Nat) (ctx : Bool) (s : State) : State :=
  if inService s || quiescedNow s then
    let s := farError (ctx && healthy s) f s
    match if ctx then none else s.dmas.find? (fun d => d.hdr.fn.val == f && readsFar s d) with
    | some d => failDma f d.hdr.qp d.hdr.cid s
    | none => s
  else s

def execFarAccessError (f : FnId) (forContext : Bool) (s : State) : Out := commit s (farAccessError f.val forContext s)

/-! ### Objects by host command -/

/-- OBJECT_CREATE (R147, R381). -/
def objectCreate (h : CmdHdr) (a : ObjectArgs) (s : State) : State :=
  let f := h.fn.val
  if a.size = 0 then reject h 2 s
  else if !fmtOk a.format || a.oflags.testBit 0 || 32 ≤ a.oflags || 1 < a.tier || (a.tier == 0 && a.stackMask == 0)
      || a.objectId == 0 then finish h 0x0D 0 0 s
  else match freeHandle s f with
    | none => finish h 0x0E 0 0 s
    | some hd =>
      let o : Obj := { fn := f, handle := hd, id := a.objectId, owner := 0xFF, oflags := a.oflags, keySlot := a.keySlot,
                       format := a.format, size := a.size, first := 0, pages := [], state := 1, doneSeq := 0,
                       result := 0, users := [], freed := false, record := none }
      let named := bitPositions 8 a.stackMask
      if a.tier = 0 ∧ named.any (fun st => (fnGranules s f st).isEmpty) then finish h 7 0 0 s
      else match createObj s o a.tier a.stackMask with
        | none => finish h 7 0 0 s
        | some t => finish h 0 hd 0 t

def execObjectCreate (h : CmdHdr) (a : ObjectArgs) (s : State) : Out :=
  commit s (hostCmd (.objectCreate h a) h .runs (objectCreate h a) s)

/-- OBJECT_FREE: only host software's own objects; one that a context owns is IN_USE (R381). -/
def objectFree (h : CmdHdr) (hd : Nat) (s : State) : State :=
  match objGet s h.fn.val hd with
  | none => finish h 1 0 0 s
  | some o =>
    if o.freed ∨ o.owner = 0xFE then finish h 1 0 0 s
    else if o.owner ≠ 0xFF ∨ o.users ≠ [] then finish h 4 0 0 s
    else finish h 0 0 0 (freeObj h.fn.val hd s)

def execObjectFree (h : CmdHdr) (handle : Nat) (s : State) : Out :=
  commit s (hostCmd (.objectFree h handle) h .runs (objectFree h handle) s)

/-- FAR_POOL: the listed host pages join the function's far store (R158, R381). The list holds 8-byte bus addresses
(log entry 13). -/
def farPoolAdd (h : CmdHdr) (pages listAddr : Nat) (s : State) : State :=
  let f := h.fn.val
  let old := tgetD s.farPool f []
  if pages = 0 then reject h 2 s
  else if 4194304 < old.length + pages then finish h 0x0C 0 0 s
  else if !hostOk s f listAddr (8 * pages) then reject h 5 s
  else
    let new := (List.range pages).map (fun i => leNat (hostRead s f (listAddr + 8 * i) 8))
    if new.any (fun p => p % pageSize != 0) then finish h 0x0C 0 0 s
    else finish h 0 0 0 { s with farPool := tput s.farPool f (old ++ new) }

def execFarPool (h : CmdHdr) (pages listAddr : Nat) (s : State) : Out :=
  commit s (hostCmd (.farPool h pages listAddr) h .runs (farPoolAdd h pages listAddr) s)

/-! ### Placement and migration -/

/-- A request is taken over by a later PLACE on its entry: it ends SUPERSEDED, once its pages in copy have committed (R168). -/
def supersede (s : State) (r : PlaceReq) : State :=
  if r.copying.isEmpty then
    finish r.hdr 6 0 0 (endEntry r.fn r.handle r.seq 6 { s with places := s.places.erase r })
  else { s with places := s.places.map (fun x => if x = r then { r with moves := [], superseded := true } else x) }

/-- PLACE: the REQ fields are read when it is received (R163). A request that runs on the same entry is taken over, and requests
are checked in command order (R168). -/
def placeCmd (h : CmdHdr) (hd : Nat) (s : State) : State :=
  let f := h.fn.val
  let (tier, mask, seq) := reqFields s f hd
  let s := (s.places.filter (fun r => r.fn == f && r.handle == hd)).foldl supersede s
  placeAll { s with places := s.places ++ [{ hdr := h, fn := f, handle := hd, tier := tier, mask := mask, seq := seq, checked := false,
                                             moves := [], copying := [], superseded := false }] }

def execPlace (h : CmdHdr) (handle : Nat) (s : State) : Out :=
  commit s (hostCmd (.place h handle) h (.code 7) (placeCmd h handle) s)

/-- PAGE_COPY: the next page of the oldest request starts its copy while fewer than 64 are in copy (R166, R168). -/
def pageCopy (s : State) : State :=
  if getR s Reg.MIGRATING < 64 && awake s && healthy s then
    match s.places.find? (fun r => !r.moves.isEmpty && fnActive s r.fn) with
    | none => s
    | some r => match r.moves with
      | [] => s
      | m :: ms =>
        let old := match (objGet s r.fn r.handle).bind (·.pages[m.1]?) with | some p => [p] | none => []
        let r' := { r with moves := ms, copying := r.copying ++ [(m.1, m.2, s.nextUns)] }
        syncMigrating (enter 3 r.fn ((m.2 :: old).map (fun p => (pageDev s r.fn p 0, pageSize)))
          { s with places := s.places.map (fun x => if x = r then r' else x) })
  else s

def execPageCopy (s : State) : Out := commit s (pageCopy s)

/-- The copy of a page reads every sector of it: latent errors are met, and poison is reported (R154). -/
def readPage (f : Nat) (a : PageLoc) (s : State) : State :=
  match pageDev s f a 0 with
  | .near x =>
    let s := meetSectors (x / 64) ((x + pageSize) / 64 - 1) s
    if s.poison.any (inPage x) then orR s Reg.MEM_CAUSE 2 else s
  | _ => s

/-- Move the bytes of a page between places; poison stays poison, in the far store too (R154, R167). -/
def movePage (s : State) (f : Nat) (a b : PageLoc) : State :=
  let s := readPage f a s
  let bytes : PageLoc → List (Nat × Byte) := fun p => match pageDev s f p 0 with
    | .near x => (s.near.filter (fun e => x ≤ e.1 && e.1 < x + pageSize)).map (fun e => (e.1 - x, e.2))
    | .far g x => (s.host.filter (fun e => hostKey g x ≤ e.1 && e.1 < hostKey g x + pageSize)).map (fun e => (e.1 - hostKey g x, e.2))
    | _ => []
  let bad : List Nat := match pageDev s f a 0 with
    | .near x => (s.poison.filter (inPage x)).map (fun k => k - x / 64)
    | .far g x => (s.farPoison.filter (inPage (hostKey g x))).map (fun k => k - hostKey g x / 64)
    | _ => []
  let put := fun (m : Tbl Byte) (x : Nat) => (bytes a).foldl (fun m e => mput m (x + e.1) e.2) (mzero m x pageSize)
  match pageDev s f b 0 with
  | .near y => { s with near := put s.near y,
                        poison := s.poison.filter (fun k => !inPage y k) ++ bad.map (· + y / 64),
                        errs := s.errs.filter (fun e => !(sectorOf e).any (inPage y)) }
  | .far g y => { s with host := put s.host (hostKey g y),
                         farPoison := s.farPoison.filter (fun k => !inPage (hostKey g y) k) ++ bad.map (· + hostKey g y / 64) }
  | _ => s

/-- MIGRATION_COMMIT: a page in copy switches to its target in its turn; the request ends once all its pages have (R166, R168,
R171). -/
def migrationCommit (f h page : Nat) (s : State) : State :=
  match s.places.find? (fun r => r.fn == f && r.handle == h), objGet s f h with
  | some r, some o =>
    match r.copying.find? (fun m => m.1 == page), o.pages[page]? with
    | some m, some old =>
      if s.faultSeq.phase ≠ .none ∨ !mayServe s m.2.2 then s
      else
        let dead := match pageDev s f old 0 with | .far g x => !hostOk s g x pageSize | _ => false
        if dead then placeAll (dropPlaces (· == r) 7 (farError false f s))
        else
          let s := leave m.2.2 s
          let s := objMod f h (fun o => { o with pages := o.pages.set page m.2.1 }) (movePage s f old m.2.1)
          let r' := { r with copying := r.copying.erase m }
          let s := addR { s with places := s.places.map (fun x => if x = r then r' else x) } Reg.PAGES_MIGRATED 1
          if r'.copying.isEmpty && r'.moves.isEmpty then endPlace r' (if r.superseded then 6 else 0) s
          else syncMigrating s
    | _, _ => s
  | _, _ => s

def execMigrationCommit (f : FnId) (handle page : Nat) (s : State) : Out :=
  commit s (migrationCommit f.val handle page s)

end Sys2Proof.Machine
end

