-- ==== Sys2Proof/Machine/Codec.lean ====
section
/-! DEFINITION. The tensor codec (R183-R210): stored forms, tables, variants, check values and encryption, packs read and
written, coding runs. -/

namespace Sys2Proof.Machine

/-! ### Pack layout (R161, R185) -/

/-- An object whose packs pass a codec unit: coded or encrypted (R184). -/
def flagged (oflags : Nat) : Bool := oflags.testBit 2 || oflags.testBit 3

/-- Packs that an object holds: those of R161, or those of R185 when it is coded or encrypted. -/
def packsIn (fmt oflags size : Nat) : Nat :=
  size / (packBytes fmt + (if fmtScaled fmt then 32 else 0) + (if flagged oflags then 32 else 0))

def packCount (o : Obj) : Nat := packsIn o.format o.oflags o.size
def slotOff (o : Obj) (p : Nat) : Nat := p * packBytes o.format
def scaleOff (o : Obj) (p : Nat) : Nat := packCount o * packBytes o.format + 32 * p
def descOff (o : Obj) (p : Nat) : Nat :=
  packCount o * packBytes o.format + (if fmtScaled o.format then 32 * packCount o else 0) + 32 * p

/-- The codec unit of a pack (R184). -/
def unitOf (s : State) (o : Obj) (p : Nat) : Nat := unitOfPage s o (slotOff o p / pageSize)

/-- Bytes of a scale block (R201). -/
def scaleLen (o : Obj) : Nat := if fmtScaled o.format then 32 else 0

/-! ### Coding tables (R189-R191) -/

/-- The symbols that a table codes, with length and canonical code, in order of (length, symbol) (R190). -/
def canonical (lens : List Nat) : List (Nat × Nat × Nat) :=
  let syms := (upFrom 1 15).flatMap (fun l => ((List.range 272).filter (fun k => nth lens k == l)).map (fun k => (k, l)))
  (syms.foldl (fun (acc : List (Nat × Nat × Nat) × Option (Nat × Nat)) e =>
    let c := match acc.2 with
      | none => 0
      | some (c, l) => (c + 1) * 2 ^ (e.2 - l)
    (acc.1 ++ [(e.1, e.2, c)], some (c, e.2))) ([], none)).1

/-- A table is valid: some symbol is coded and the lengths fit (R190). -/
def tableOk (lens : List Nat) : Bool :=
  lens.any (· != 0) && (lens.map (fun l => if l = 0 then 0 else 2 ^ (15 - l))).foldl (· + ·) 0 ≤ 2 ^ 15

/-- The 136 bytes of a table (R190). -/
def tableBytes (lens : List Nat) : Bytes :=
  (List.range 136).map (fun k => BitVec.ofNat 8 (nth lens (2 * k) + 16 * nth lens (2 * k + 1)))

/-- The code lengths of a table's bytes. -/
def tableLens (bs : Bytes) : List Nat := bs.flatMap (fun b => [b.toNat % 16, b.toNat / 16])

/-- Zero bytes from the front, at most 17. -/
def zeroRun (bs : Bytes) : Nat := ((bs.take 17).takeWhile (· == 0#8)).length

/-- The parse of R189 of a lane into symbols; `has` says which run symbols may be used. -/
def parseLane (has : Nat → Bool) : Nat → Bytes → List Nat
  | 0, _ => []
  | _ + 1, [] => []
  | n + 1, b :: t =>
    match ((upFrom 2 16).filter (fun m => m ≤ zeroRun (b :: t) && has (256 + m - 2))).getLast? with
    | some m => (256 + m - 2) :: parseLane has n ((b :: t).drop m)
    | none => b.toNat :: parseLane has n t

/-- The eight lanes of a raw pack (R189). -/
def lanesOf (raw : Bytes) : List Bytes := (List.range 8).map (fun k => (raw.drop (k * (raw.length / 8))).take (raw.length / 8))

/-- A code's bits, most significant first. -/
def codeBits (l c : Nat) : List Bool := (List.range l).map (fun i => c.testBit (l - 1 - i))

/-- Bytes from bits, bit 7 first, the last padded with 0. -/
def bitBytes (bs : List Bool) : Bytes :=
  (List.range (ceilDiv bs.length 8)).map (fun k =>
    BitVec.ofNat 8 ((List.range 8).foldl (fun a i => a * 2 + (if bs.getD (8 * k + i) false then 1 else 0)) 0))

/-- Code one lane; none when a symbol has length 0. -/
def codeLane (lens : List Nat) (lane : Bytes) : Option Bytes :=
  let tab := canonical lens
  let syms := parseLane (fun k => nth lens k != 0) lane.length lane
  if syms.all (fun k => nth lens k != 0) then
    some (bitBytes (syms.flatMap (fun k => match tab.find? (fun e => e.1 == k) with
      | some (_, l, c) => codeBits l c
      | none => [])))
  else none

/-- Code a pack under a table (R189); none when it does not code. -/
def codePack (lens : List Nat) (raw : Bytes) : Option Bytes :=
  let ls := (lanesOf raw).map (codeLane lens)
  if ls.all (·.isSome) then
    let bs := ls.map (·.getD [])
    some (bs.flatMap (fun b => natLe 2 b.length) ++ bs.flatten)
  else none

/-- The bits of a string, bit 7 of each byte first. -/
def bitsOfBytes (bs : Bytes) : List Bool := bs.flatMap (fun b => codeBits 8 b.toNat)

/-- The bytes that a symbol stands for. -/
def symBytes (k : Nat) : Bytes := if k < 256 then [BitVec.ofNat 8 k] else List.replicate (k - 254) 0#8

/-- Decode a bit-stream: code so far, its length, and the bytes decoded. -/
def decodeBits (tab : List (Nat × Nat × Nat)) : List Bool → Nat → Nat → Bytes
  | [], _, _ => []
  | b :: t, c, l =>
    let c := 2 * c + (if b then 1 else 0)
    match tab.find? (fun e => e.2.1 == l + 1 && e.2.2 == c) with
    | some (k, _, _) => symBytes k ++ decodeBits tab t 0 0
    | none => decodeBits tab t c (l + 1)

/-- Decode a coded slot into `n` raw bytes; where a lane's stream ends early the missing bytes are those of `fill`. -/
def decodePack (lens : List Nat) (slot : Bytes) (n fill : Nat) : Bytes :=
  let tab := canonical lens
  let ll := (List.range 8).map (fun k => fieldAt slot (2 * k) 2)
  (List.range 8).flatMap (fun k =>
    let off := 16 + (ll.take k).foldl (· + ·) 0
    let out := decodeBits tab (bitsOfBytes (slice slot off (nth ll k))) 0 0
    (out ++ natLe (n / 8) (fill / 2 ^ (k * n))).take (n / 8))

/-- Symbol counts of a pack, by the parse with every symbol coded (R189). -/
def packSymbols (raw : Bytes) : List Nat := (lanesOf raw).flatMap (fun l => parseLane (fun _ => true) l.length l)

/-- Add a pack's symbols to the counts, each saturating at 40 bits (R191). -/
def countSymbols (counts : List Nat) (syms : List Nat) : List Nat :=
  syms.foldl (fun c k => c.set k (min (nth c k + 1) (2 ^ 40 - 1))) counts

/-- The node of least weight, the one made first on equal weight. -/
def leastNode (ns : List (Nat × Nat × List Nat)) : Option (Nat × Nat × List Nat) :=
  ns.foldl (fun m n => match m with
    | none => some n
    | some x => if n.1 < x.1 ∨ (n.1 = x.1 ∧ n.2.1 < x.2.1) then some n else some x) none

/-- Merge nodes (weight, order made, symbols under it) until one is left, counting each symbol's depth. -/
def mergeNodes : Nat → Nat → List (Nat × Nat × List Nat) → List Nat → List Nat
  | 0, _, _, lens => lens
  | f + 1, k, ns, lens =>
    match leastNode ns with
    | none => lens
    | some a =>
      let ns := ns.erase a
      match leastNode ns with
      | none => lens
      | some b =>
        let syms := a.2.2 ++ b.2.2
        mergeNodes f (k + 1) (ns.erase b ++ [(a.1 + b.1, k, syms)]) (syms.foldl (fun l x => l.set x (nth l x + 1)) lens)

/-- The lengths of one pass of R191. -/
def treeLens (counts : List Nat) : List Nat :=
  let ks := (List.range 272).filter (fun k => nth counts k != 0)
  let leaves := (List.zip (List.range ks.length) ks).map (fun e => (nth counts e.2, e.1, [e.2]))
  mergeNodes 272 ks.length leaves (List.replicate 272 0)

/-- The loop of R191. -/
def treeLoop : Nat → List Nat → List Nat
  | 0, c => treeLens c
  | f + 1, c => let l := treeLens c; if l.all (· ≤ 15) then l else treeLoop f (c.map (fun x => ceilDiv x 2))

/-- The table built from symbol counts (R191). -/
def buildTable (counts : List Nat) : List Nat :=
  match (List.range 272).filter (fun k => nth counts k != 0) with
  | [] => (List.replicate 272 0).set 271 1
  | [k] => (List.replicate 272 0).set k 1
  | _ => treeLoop 41 counts

/-! ### Failures (R199) -/

/-- A pack operation failed with a cause bit of its unit: counted, and a chip fault for a context (R199). -/
def packFail (ctx : Bool) (u bit : Nat) (s : State) : State :=
  let s := orR s (Reg.CODEC_CAUSE u) (2 ^ bit)
  let s := if bit = 3 ∨ bit = 4 then satR s (Reg.CHECK_FAILS u) 1 else if bit = 5 then satR s (Reg.AUTH_FAILS u) 1 else s
  if ctx then chipFault 0x0B (u * 2 ^ 21 + bit * 2 ^ 16) s else s

/-- Latent errors of a unit's table memory are met; the flag tells that one was uncorrectable (R205, R214). -/
def tableMeet (u : Nat) (s : State) : State × Bool :=
  let hit := fun (e : ErrPlace × Bool) => e.1 == .table u
  let bad := s.errs.any (fun e => hit e && e.2)
  let fixed := (s.errs.filter (fun e => hit e && !e.2)).length
  let s := { s with errs := s.errs.filter (fun e => !hit e) }
  let s := if fixed = 0 then s else satR (orR s (Reg.CODEC_CAUSE u) 2) (Reg.TABLE_CORRECTED u) fixed
  (if bad then chipFault 0x0C (u * 2 ^ 21) (orR s (Reg.CODEC_CAUSE u) 4) else s, bad)

/-- The tenant key of a slot as function f sees it: a slot whose OWNER bit is clear counts as empty (R428). -/
def tenantKey (s : State) (f slot : Nat) : Option Bytes :=
  if bitR s (Reg.KEY_OWNER slot) f then tget s.keys slot else none

/-! ### Expanding (R187) -/

/-- What a pack operation gives: 0 or the failing cause bit (32 for memory data that failed), the raw pack, its scale
block, the descriptor's KIND, the charged input I(p), and the base and factor bytes read (R201). -/
structure PackOut where
  err : Nat
  raw : Bytes
  scale : Bytes
  kind : Nat
  charge : Nat
  extra : Nat
  deriving DecidableEq, Repr

def PackOut.failed (e : Nat) : PackOut := { err := e, raw := [], scale := [], kind := 0, charge := 0, extra := 0 }

/-- A read of an object's bytes as a pack operation. -/
def rd (ctx : Bool) (o : Obj) (off n : Nat) (k : Bytes → State → State × PackOut) (s : State) : State × PackOut :=
  let (s, r) := if n = 0 then (s, some []) else objRead ctx o off n s
  match r with
  | none => (s, PackOut.failed 32)
  | some b => k b s

/-- The table slot that a descriptor names. -/
def slotOf? (o : Obj) (b : Bool) : Option CodecSlot := o.record.bind (fun r => if b then r.slot1 else r.slot0)

/-- The code lengths that a descriptor's table slot names. -/
def slotLens (o : Obj) (b : Bool) : Option (List Nat) := (slotOf? o b).map (·.lens)

/-- The binding under which a descriptor's table slot was coded (R207). -/
def slotBind (o : Obj) (b : Bool) : Option Binding := (slotOf? o b).bind (·.bind)

/-- Packs of the object may stand in variant form: some slot was coded under a binding. -/
def boundVariant (o : Obj) : Bool := (slotBind o false).isSome || (slotBind o true).isSome

/-- Decode a coded slot with a table of the unit's table memory; where an uncorrectable error is met nothing is delivered
(R189, R210). -/
def decodeWith (u : Nat) (lens : List Nat) (b : Bytes) (n : Nat) (k : Bytes → State → State × PackOut) (s : State) :
    State × PackOut :=
  let (s, bad) := tableMeet u s
  if bad then (s, PackOut.failed 32)
  else
    let (v, s) := freshVal s (8 * n)
    k (decodePack lens b n v) s

/-- The IV of a pack (R197). -/
def packIv (salt p writes : Nat) : Nat := salt % 2 ^ 32 * 2 ^ 64 + p % 2 ^ 32 * 2 ^ 32 + writes % 2 ^ 32

/-- A stored pack, checked and decrypted: its descriptor, its slot's plaintext and its scale block (R196, R197). The
continuation is given all three. -/
def openPack (ctx bound : Bool) (o : Obj) (p : Nat) (k : Bytes → Bytes → Bytes → State → State × PackOut)
    (s : State) : State × PackOut :=
  let raw := packBytes o.format
  rd ctx o (descOff o p) 32 (fun d => rd ctx o (scaleOff o p) (scaleLen o) (fun sc s =>
    let len := fieldAt d 2 2
    let kind := fieldAt d 0 1
    let enc := o.oflags.testBit 3
    let lenOk := if kind = 2 then len == raw else 16 ≤ len && len < raw
    if kind = 0 ∨ 3 < kind ∨ (kind = 3 ∧ ¬ bound) ∨ ¬ lenOk ∨ (fieldAt d 1 1).testBit 0 ≠ enc then (s, PackOut.failed 3)
    else if enc ∧ (tenantKey s o.fn o.keySlot).isNone then (s, PackOut.failed 6)
    else rd ctx o (slotOff o p) len (fun b s =>
      if crc32c (slice d 0 12 ++ slice d 16 16 ++ b ++ sc) ≠ fieldAt d 12 4 then (s, PackOut.failed 4)
      else if enc then
        match gcmOpen ((tenantKey s o.fn o.keySlot).getD []) (packIv (fieldAt d 8 4) p (fieldAt d 4 4)) (slice d 0 12) (b ++ sc)
            (slice d 16 16) with
        | none => (s, PackOut.failed 5)
        | some pt => k d (pt.take len) (pt.drop len) s
      else k d b sc s) s)) s

/-- Read a pack of an object that is no variant (R161, R187). -/
def readPlain (ctx : Bool) (o : Obj) (p : Nat) (s : State) : State × PackOut :=
  let raw := packBytes o.format
  if !flagged o.oflags then
    rd ctx o (slotOff o p) raw (fun b => rd ctx o (scaleOff o p) (scaleLen o) (fun sc s =>
      (s, { err := 0, raw := b, scale := sc, kind := 2, charge := raw + scaleLen o, extra := 0 }))) s
  else
    rd ctx o (descOff o p) 32 (fun d s =>
      if d.all (· == 0#8) then
        rd ctx o (scaleOff o p) (scaleLen o) (fun sc s =>
          (s, { err := 0, raw := List.replicate raw 0#8, scale := sc, kind := 0, charge := 32 + scaleLen o, extra := 0 })) s
      else openPack ctx false o p (fun d b sc s =>
        let ok := fun (r : Bytes) (s : State) =>
          (s, { err := 0, raw := r, scale := sc, kind := fieldAt d 0 1, charge := 32 + b.length + scaleLen o, extra := 0 : PackOut })
        if fieldAt d 0 1 = 2 then ok b s
        else match slotLens o ((fieldAt d 1 1).testBit 1) with
          | none => (s, PackOut.failed 3)
          | some lens => decodeWith (unitOf s o p) lens b raw ok s) s) s

/-! ### Variants (R193, R194) -/

/-- The scale that applies to element (i, j): per row or per column (R44, R193). -/
def scaleAt (orient : Nat) (sc : Bytes) (i j : Nat) : Nat := fieldAt sc (if orient = 0 then i else j) 1

/-- The prediction of element (i, j) from the base element, the U row and the V column (R194). -/
def predict (f : Elem) (base : Fp) (us vs : List Nat) (own : Option Nat) : Nat :=
  let w := (List.zip us vs).foldl (fun acc p => fma32 (decode .bf16 p.1) (decode .bf16 p.2) acc) (.fin false 0 0)
  let y := add32 base w
  match f with
  | .f32 => toF32 y
  | .int32 => toF32 y
  | _ =>
    let z := match own with
      | none => y
      | some c => match e8m0 c with
        | none => .nan
        | some k => y.scale (-k)
    (convert f .rne z).code

/-- The bytes of the prediction q of a pack (R194). -/
def predictPack (o : Obj) (b : Binding) (base : PackOut) (u v : Bytes) (ownScale : Bytes) : Bytes :=
  let f := objFmt o.format
  let scaled := fmtScaled o.format
  let es := elemCodes f.bits base.raw
  codeBytes f.bits ((List.range 1024).map (fun n =>
    let i := n / 32
    let j := n % 32
    let x := decode f (nth es n)
    let x := if scaled then scaleBy (scaleAt b.orient base.scale i j) x else x
    predict f x ((List.range b.rank).map (fun k => fieldAt u (2 * (i * b.rank + k)) 2))
      ((List.range b.rank).map (fun k => fieldAt v (2 * (k * 32 + j)) 2))
      (if scaled then some (scaleAt b.orient ownScale i j) else none)))

/-- Read the V slice of a pack: r runs of 64 B. -/
def readV (ctx : Bool) (fo : Obj) (start step : Nat) : Nat → Bytes → (Bytes → State → State × PackOut) → State → State × PackOut
  | 0, acc, k, s => k acc s
  | n + 1, acc, k, s => rd ctx fo start 64 (fun b => readV ctx fo (start + step) step n (acc ++ b) k) s

/-- Form the prediction of pack p for a given own scale block, and go on with its bytes and the charge of the base and
factors (R194, R201). -/
def withPrediction (ctx : Bool) (o : Obj) (p : Nat) (b : Binding) (ownScale : Bytes)
    (k : Bytes → Nat → State → State × PackOut) (s : State) : State × PackOut :=
  match objGet s o.fn b.base, objGet s o.fn b.factors with
  | some bo, some fo =>
    let (s, base) := readPlain ctx bo p s
    if base.err ≠ 0 then (s, base)
    else
      let n := packCount o
      let pr := p / b.packCols
      let pc := p % b.packCols
      rd ctx fo (64 * pr * b.rank) (64 * b.rank) (fun u =>
        readV ctx fo (64 * (n / b.packCols) * b.rank + 64 * pc) (64 * b.packCols) b.rank [] (fun v s =>
          k (predictPack o b base u v ownScale) (base.charge + 128 * b.rank) s)) s
  | _, _ => (s, PackOut.failed 3)

/-- XOR of two byte strings. -/
def xorBytes (a b : Bytes) : Bytes := (List.zip a b).map (fun p => p.1 ^^^ p.2)

/-- The recorded variant binding of an object. -/
def bindingOf (o : Obj) : Option Binding := o.record.bind (·.bind)

/-- Read a pack as it is delivered, without counting (R187): each pack decodes with its own slot (R207). -/
def readPack (ctx : Bool) (o : Obj) (p : Nat) (s : State) : State × PackOut :=
  if !boundVariant o then readPlain ctx o p s
  else
    rd ctx o (descOff o p) 32 (fun d s =>
      match slotOf? o ((fieldAt d 1 1).testBit 1), slotBind o ((fieldAt d 1 1).testBit 1) with
      | some t, some bd =>
        if fieldAt d 0 1 ≠ 3 then readPlain ctx o p s
        else openPack ctx true o p (fun _ b sc s =>
          decodeWith (unitOf s o p) t.lens b (packBytes o.format) (fun res s =>
            withPrediction ctx o p bd sc (fun q x s =>
              (s, { err := 0, raw := xorBytes q res, scale := sc, kind := 3, charge := 32 + b.length + scaleLen o + x, extra := x }))
              s) s) s
      | _, _ => readPlain ctx o p s) s

/-- A pack passes the expander of its unit: it is counted, or its failure is (R199, R211). -/
def expandPack (ctx : Bool) (o : Obj) (p : Nat) (s : State) : State × PackOut :=
  let u := unitOf s o p
  let (s, r) := readPack ctx o p s
  if !flagged o.oflags then (s, r)
  else if r.err = 0 then
    (addR (addR (addR s (Reg.IN_BYTES u) r.charge) (Reg.OUT_BYTES u) r.raw.length) (Reg.PACKS_EXPANDED u) 1, r)
  else if r.err = 32 then (s, r)
  else (packFail ctx u r.err s, r)

/-! ### Packing (R192) -/

/-- The descriptor's first twelve bytes. -/
def descHead (kind dflags len writes salt : Nat) : Bytes :=
  natLe 1 kind ++ natLe 1 dflags ++ natLe 2 len ++ natLe 4 writes ++ natLe 4 salt

/-- The current table of an object, with its slot. -/
def curTable (o : Obj) : Option (List Nat × Nat) :=
  o.record.bind (fun r => ((if r.cur = 1 then r.slot1 else r.slot0).map (fun t => (t.lens, r.cur))))

/-- The binding under which packs are now coded: that of the current table. -/
def curBind (o : Obj) : Option Binding := o.record.bind (fun r => slotBind o (r.cur == 1))

/-- Write one pack in the form that R192 gives; `q` is the prediction for a variant. The old descriptor gives SALT and
WRITES (R197). -/
def writeForm (o : Obj) (p : Nat) (raw scale : Bytes) (q : Option Bytes) (x : Nat) (old : Bytes) (s : State) :
    State × PackOut :=
  let u := unitOf s o p
  let enc := o.oflags.testBit 3
  let n := packBytes o.format
  let (kind, slotBit, stored) : Nat × Nat × Bytes :=
    if raw.all (· == 0#8) ∧ ¬ enc then (0, 0, [])
    else match curTable o with
      | none => (2, 0, raw)
      | some (lens, c) =>
        let fits := fun (b : Bytes) => decide (b.length < n)
        match q.bind (fun q => (codePack lens (xorBytes raw q)).filter fits) with
        | some b => (3, c, b)
        | none => match (codePack lens raw).filter fits with
          | some b => (1, c, b)
          | none => (2, 0, raw)
  let fresh := enc && (old.all (· == 0#8) || fieldAt old 4 4 == 0xFFFFFFFF)
  if fresh ∧ saltsOf s u = [] then (s, PackOut.failed 8)
  else
    let salt := if fresh then nth (saltsOf s u) 0 else if enc then fieldAt old 8 4 else 0
    let writes := if fresh then 0 else if enc then fieldAt old 4 4 + 1 else 0
    let s := if fresh then setSalts s u ((saltsOf s u).drop 1) else s
    let (s, bad) := if kind ≠ 0 ∧ (curTable o).isSome then tableMeet u s else (s, false)
    if bad then (s, PackOut.failed 32) else
    let head := descHead kind ((if enc then 1 else 0) + 2 * slotBit) stored.length writes salt
    let (body, tag) := if enc then
        gcmSeal ((tenantKey s o.fn o.keySlot).getD []) (packIv salt p writes) head (stored ++ scale)
      else (stored ++ scale, List.replicate 16 0#8)
    let desc := if kind = 0 then List.replicate 32 0#8
      else head ++ natLe 4 (crc32c (head ++ tag ++ body)) ++ tag
    let s := objWrite o (slotOff o p) (body.take stored.length) s
    let s := if scaleLen o = 0 then s else objWrite o (scaleOff o p) (body.drop stored.length) s
    let s := objWrite o (descOff o p) desc s
    let s := addR s (Reg.PACKS_PACKED u) 1
    let s := if kind = 2 then satR s (Reg.ESCAPES u) 1 else s
    (s, { err := 0, raw := raw, scale := scale, kind := kind, extra := x,
          charge := 32 + stored.length + scaleLen o + (if kind = 3 then x else 0) })

/-- A pack was written: a coding run whose table is current passes over it (R206, R207). -/
def noteWrite (o : Obj) (p : Nat) (s : State) : State :=
  { s with runs := s.runs.map (fun r =>
    if r.fn = o.fn ∧ r.handle = o.handle then
      { r with pre := r.pre.filter (· != p), left := if r.built then r.left.filter (· != p) else r.left }
    else r) }

/-- Write a pack of a flagged object in the form of R192, given its old descriptor; a pack that is stored as zero needs no
prediction. -/
def writeFlagged (ctx : Bool) (o : Obj) (p : Nat) (raw scale : Bytes) (s : State) : State × PackOut :=
  rd ctx o (descOff o p) 32 (fun old => match curBind o with
    | some bd =>
      if raw.all (· == 0#8) ∧ ¬ o.oflags.testBit 3 then writeForm o p raw scale none 0 old
      else withPrediction ctx o p bd scale (fun q x => writeForm o p raw scale (some q) x old)
    | none => writeForm o p raw scale none 0 old) s

/-- Write a pack: a frozen object refuses it (R195), an unflagged one takes raw pack and scale block as they are. An
error 8 is a wait for a salt, on which nothing has changed (R198). -/
def writePack (ctx : Bool) (o : Obj) (p : Nat) (raw scale : Bytes) (s : State) : State × PackOut :=
  let u := unitOf s o p
  if frozenObj s o.fn o.handle then (packFail ctx u 7 s, PackOut.failed 7)
  else if !flagged o.oflags then
    let s := objWrite o (slotOff o p) raw s
    let s := if scaleLen o = 0 then s else objWrite o (scaleOff o p) scale s
    (s, { err := 0, raw := raw, scale := scale, kind := 2, charge := raw.length + scaleLen o, extra := 0 })
  else if o.oflags.testBit 3 ∧ (tenantKey s o.fn o.keySlot).isNone then (packFail ctx u 6 s, PackOut.failed 6)
  else
    let (s, r) := writeFlagged ctx o p raw scale s
    if r.err = 0 then (noteWrite o p s, r)
    else if r.err = 8 ∨ r.err = 32 then (s, r) else (packFail ctx u r.err s, r)

/-! ### Packs that are held (R184, R188) -/

/-- The pack at which a run stands: one of those that leave the old slot, else of the coding pass. -/
def runAt (r : CodingRun) : Nat := (r.pre ++ r.left).headD 0

/-- The packs whose write waits in a packer for a salt (R198): function, handle, pack. -/
def saltWaits (s : State) : List (Nat × Nat × Nat) :=
  s.sites.flatMap (fun e => e.2.flights.filterMap (fun f => match f.work with
    | .store _ m => match m.waits, m.left, tget s.ctxs f.ctx with
      | some _, p :: _, some x => some (x.fn, m.handle, p)
      | _, _, _ => none
    | _ => none))
  ++ s.runs.filterMap (fun r => if r.waits.isSome then some (r.fn, r.handle, runAt r) else none)

/-- A pack lies in the far store. -/
def packFar (o : Obj) (p : Nat) : Bool :=
  match o.pages[slotOff o p / pageSize]? with
  | some (.far _) => true
  | _ => false

/-- The far-store assignment becomes that of the units in service, once no far-store pack operation is in flight (R184). -/
def assignFar (s : State) : State :=
  if (saltWaits s).any (fun w => match objGet s w.1 w.2.1 with | some o => packFar o w.2.2 | none => false) then s
  else { s with farUnits := maskFrom (unitsOn s) }

/-- A new request for a pack waits: a write of the pack has been taken and waits for its salt (R188), or the far-store assignment
is about to change (R184). -/
def packHeld (s : State) (o : Obj) (p : Nat) : Bool :=
  (saltWaits s).contains (o.fn, o.handle, p) || (packFar o p && s.farUnits != maskFrom (unitsOn s))

/-! ### Coding runs (R205-R209) -/

/-- The variant binding holds (R193). -/
def bindingOk (s : State) (o : Obj) (b : Binding) : Bool :=
  match objGet s o.fn b.base, objGet s o.fn b.factors with
  | some bo, some fo =>
    let n := packCount o
    1 ≤ b.rank && b.rank ≤ 64 && b.orient ≤ 1 && bo.format == o.format && packCount bo == n && (bindingOf bo).isNone && !boundVariant bo
      && bo.handle != o.handle && b.packCols != 0 && n % b.packCols == 0 && !flagged fo.oflags
      && 2 * b.rank * 32 * (n / b.packCols + b.packCols) ≤ fo.size
  | _, _ => false

/-- The first pass: symbol counts over every source pack; on a failure, its pack (R206). -/
def firstPass (src tgt : Obj) (bd : Option Binding) : List Nat → List Nat → State → State × Option Nat × List Nat
  | [], counts, s => (s, none, counts)
  | p :: ps, counts, s =>
    let (s, r) := expandPack false src p s
    if r.err ≠ 0 then (s, some p, counts)
    else
      let (s, d) := match bd with
        | none => (s, r)
        | some b => withPrediction false tgt p b r.scale (fun q _ s => (s, { r with raw := xorBytes r.raw q })) s
      if d.err ≠ 0 then (s, some p, counts)
      else firstPass src tgt bd ps (countSymbols counts (packSymbols d.raw)) s

/-- What writing some packs of a run gives: all are written, one waits for a salt or behind an earlier request, or one failed;
with the packs that are left, the one at fault first. -/
inductive Coded where
  | done
  | salt
  | held
  | failed
  deriving DecidableEq, Repr

/-- Rewrite target packs from source packs in order, until one waits or fails (R206). Frozen targets are allowed (R195). -/
def codingPass (src tgt : Nat) (f : Nat) : List Nat → State → State × Coded × List Nat
  | [], s => (s, .done, [])
  | p :: ps, s =>
    match objGet s f src, objGet s f tgt with
    | some so, some to_ =>
      if packHeld s so p || packHeld s to_ p then (s, .held, p :: ps) else
      let (t, r) := expandPack false so p s
      if r.err ≠ 0 then (t, .failed, p :: ps)
      else
        let u := unitOf s to_ p
        if to_.oflags.testBit 3 ∧ (tenantKey s f to_.keySlot).isNone then (packFail false u 6 t, .failed, p :: ps)
        else
          let (t, w) := writeFlagged false to_ p r.raw r.scale t
          if w.err = 8 then (s, .salt, p :: ps)
          else if w.err ≠ 0 then (if w.err = 32 then t else packFail false u w.err t, .failed, p :: ps)
          else codingPass src tgt f ps t
    | _, _ => (s, .failed, p :: ps)

/-- The units that serve the pages of an object. -/
def objUnits (s : State) (o : Obj) : List Nat := ((List.range o.pages.length).map (unitOfPage s o)).eraseDups

/-- The charged input of a pack from its stored descriptor, without reading it as a pack (R201). -/
def peekCharge (s : State) (o : Obj) (p : Nat) : Nat :=
  if !flagged o.oflags then packBytes o.format + scaleLen o
  else
    let d := match (objRead false o (descOff o p) 32 s).2 with
      | some d => d
      | none => []
    32 + fieldAt d 2 2 + scaleLen o

/-- The charged input of a pack, with its base and factors where it is a variant (R201). -/
def chargeOf (s : State) (o : Obj) (p : Nat) : Nat :=
  let d := match (objRead false o (descOff o p) 32 s).2 with
    | some d => d
    | none => []
  match slotBind o ((fieldAt d 1 1).testBit 1) with
  | some b => peekCharge s o p + (if fieldAt d 0 1 = 3 then
      (match objGet s o.fn b.base with | some bo => peekCharge s bo p | none => 0) + 128 * b.rank else 0)
  | none => peekCharge s o p

/-- The packs of an object that stand coded under the slot not in use, as a run that failed leaves them (R207). -/
def oldPacks (s : State) (o : Obj) : List Nat :=
  match o.record with
  | none => []
  | some c =>
    if (if c.cur = 1 then c.slot0 else c.slot1).isNone then []
    else (List.range (packCount o)).filter (fun p => match (objRead false o (descOff o p) 32 s).2 with
      | some d => (fieldAt d 0 1 == 1 || fieldAt d 0 1 == 3) && (fieldAt d 1 1).testBit 1 != (c.cur == 1)
      | none => false)

/-- The run of a target. -/
def runOf (s : State) (f h : Nat) : Option CodingRun := s.runs.find? (fun r => r.fn == f && r.handle == h)

/-- Replace the run of the same target. -/
def runPut (r : CodingRun) (s : State) : State :=
  { s with runs := s.runs.map (fun x => if x.fn = r.fn ∧ x.handle = r.handle then r else x) }

/-- A pass of a run stopped: it waits, for a salt from now on, or has failed at a pack. -/
def runStop (s : State) (e : Coded) (at_ : List Nat) (r : CodingRun) : CodingRun :=
  match e with
  | .done => { r with waits := none }
  | .salt => { r with waits := some (r.waits.getD s.timeBase) }
  | .held => { r with waits := none }
  | .failed => { r with code := 8, pack := at_.headD 0, waits := none }

/-- The first pass and the table: it is built into the slot not in use and becomes current (R191, R206). -/
def buildRun (r : CodingRun) (so o : Obj) (s : State) : State × CodingRun :=
  let ps := List.range (packCount o)
  let (s, bad, counts) := firstPass so o (bindingOf o) ps (List.replicate 272 0) s
  match bad with
  | some p => (s, { r with code := 8, pack := p })
  | none =>
    let set := fun (c : CodecRec) =>
      let t : CodecSlot := { lens := buildTable counts, bind := c.bind }
      if c.cur = 1 then { c with slot0 := some t, cur := 0 } else { c with slot1 := some t, cur := 1 }
    (objMod r.fn r.handle (fun o => { o with record := o.record.map set }) s, { r with built := true, left := ps })

/-- A run goes on: packs leave the slot not in use, the table is built, and the coding pass writes the packs that are left, until
one waits or fails (R206, R207). -/
def advanceRun (r : CodingRun) (s : State) : State × CodingRun :=
  let s := runPut { r with waits := none } s
  let (s, e, pre) := codingPass r.handle r.handle r.fn r.pre s
  let r := runStop s e pre { r with pre := pre }
  if e ≠ .done then (s, r)
  else
    let (s, r) := if r.built then (s, r) else
      match objGet s r.fn r.source, objGet s r.fn r.handle with
      | some so, some o => buildRun r so o s
      | _, _ => (s, { r with code := 8 })
    if r.code ≠ 0 then (s, r)
    else
      let (s, e, left) := codingPass r.source r.handle r.fn r.left s
      (s, runStop s e left { r with left := left })

/-- The traffic of a run's passes, of source group 1 for the physical function and 2 for an instance (R206). -/
def runTraffic (r : CodingRun) (s : State) : State :=
  passing (if r.fn = 0 then 1 else 2)
    ([r.source, r.handle].flatMap (fun h => match objGet s r.fn h with
      | some o => objSpans s o (o.pages.length + 1) 0 o.size
      | none => [])) s

/-- CODEC_CODE: the checks of R208, then the record, the binding, the first pass, the table and the coding pass; the run
ends with CODING_RUN_DONE (R206). -/
def codecCode (h : CmdHdr) (a : CodeArgs) (s : State) : State :=
  let f := h.fn.val
  let bd : Option Binding := if a.base = 0xFFFFFFFF then none
    else some { base := a.base, factors := a.factors, rank := a.rank, orient := a.orient, packCols := a.packCols }
  match objGet s f a.target, objGet s f a.source with
  | some o, some so =>
    let entries := match bd with
      | none => true
      | some b => (objGet s f b.base).isSome && (objGet s f b.factors).isSome
    if !o.oflags.testBit 2 ∨ !entries then finish h 1 0 0 s
    else if s.runs.any (fun r => r.fn == f && r.handle == a.target) then finish h 2 0 0 s
    else if o.record.isNone ∧ 4096 ≤ fld s Reg.CODEC_RECORDS 12 0 then poolEmpty .records s.timeBase 3 h s
    else if so.format ≠ o.format ∨ packCount so ≠ packCount o then finish h 4 0 0 s
    else if !(match bd with | none => true | some b => bindingOk s o b) then finish h 5 0 0 s
    else
      let old := o.record.getD { slot0 := none, slot1 := none, cur := 1, bind := none, mean := 0, max := 0 }
      let run : CodingRun := { hdr := h, fn := f, handle := a.target, source := a.source, built := false, pre := oldPacks s o,
                               left := [], waits := none, code := 0, pack := 0 }
      let s := if o.record.isNone then tookUnit .records s.timeBase h s else s
      let (s, r) := advanceRun run (objPut { s with runs := s.runs ++ [run] } { o with record := some { old with bind := bd } })
      syncRecords (reapFrozen (runTraffic r (runPut r s)))
  | _, _ => finish h 1 0 0 s

def execCodecCode (h : CmdHdr) (a : CodeArgs) (s : State) : Out :=
  commit s (hostCmd (.codecCode h a) h (.code 9) (codecCode h a) s)

/-- A run ends: RUN_DONE is raised; after its passes the old slot is freed, and MEAN_INPUT and MAX_INPUT are recorded (R206). -/
def endRun (r : CodingRun) (o : Obj) (s : State) : State :=
  let s := syncRecords { s with runs := s.runs.erase r }
  let s := (objUnits s o).foldl (fun s u => orR s (Reg.CODEC_CAUSE u) 0x200) s
  if r.code ≠ 0 then finish r.hdr r.code r.pack 0 s
  else
    let cs := (List.range (packCount o)).map (chargeOf s o)
    let mean := ceilDiv (cs.foldl (· + ·) 0) (packCount o)
    let s := objMod r.fn r.handle (fun o => { o with record := o.record.map (fun c =>
      { c with mean := mean, max := cs.foldl Nat.max 0,
               slot0 := if c.cur = 0 then c.slot0 else none, slot1 := if c.cur = 1 then c.slot1 else none }) }) s
    finish r.hdr 0 mean 0 (reapFrozen s)

/-- The passes of a run have ended. -/
def runOver (r : CodingRun) : Bool := r.code != 0 || (r.built && r.pre.isEmpty && r.left.isEmpty)

/-- A run that waits goes on where it can; after 10 ms with the pool empty a wait for a salt fails with ENTROPY_WAIT at that pack
(R198, R199). -/
def resumeRun (r : CodingRun) (o : Obj) (s : State) : State × CodingRun :=
  let u := unitOf s o (runAt r)
  if runOver r then (s, r)
  else if saltsOf s u == [] && (match r.waits with | some t => decide (t + 250000 ≤ s.timeBase) | none => false) then
    (packFail false u 8 s, { r with code := 8, pack := runAt r, waits := none })
  else
    let (s, r') := advanceRun r s
    (runTraffic r s, { r' with waits := if r'.waits.isSome then r.waits.or r'.waits else none })

/-- CODING_RUN_DONE: a run whose passes have ended ends; one that still waits does not (R206). -/
def codingRunDone (f h : Nat) (s : State) : State :=
  match runOf s f h, objGet s f h with
  | some r, some o =>
    if s.faultSeq.phase ≠ .none ∨ !fnActive s f then s
    else
      let (s, r) := resumeRun r o s
      let s := runPut r s
      if runOver r then endRun r ((objGet s f h).getD o) s else s
  | _, _ => s

def execCodingRunDone (f : FnId) (handle : Nat) (s : State) : Out := commit s (codingRunDone f.val handle s)

/-- The 256 bytes of a codec record (R209). -/
def recordBytes (c : CodecRec) : Bytes :=
  let t := ((if c.cur = 1 then c.slot1 else c.slot0).map (·.lens)).getD (List.replicate 272 0)
  let b := c.bind.getD { base := 0xFFFFFFFF, factors := 0, rank := 0, orient := 0, packCols := 0 }
  tableBytes t ++ natLe 4 c.mean ++ natLe 4 c.max ++ natLe 4 b.base ++ natLe 4 b.factors ++ natLe 1 b.rank
    ++ natLe 1 b.orient ++ natLe 2 0 ++ natLe 4 b.packCols ++ natLe 96 0

/-- CODEC_TABLE_GET (R209). An object without a record is answered NO_ENTRY (log entry 15). -/
def codecTableGet (h : CmdHdr) (hd addr : Nat) (s : State) : State :=
  match objGet s h.fn.val hd with
  | none => finish h 1 0 0 s
  | some o => match o.record with
    | none => finish h 1 0 0 s
    | some c =>
      let (s, st) := devWrite h.fn.val addr (recordBytes c) s
      if st = 0 then finish h 0 c.mean 0 s else reject h st s

def execCodecTableGet (h : CmdHdr) (handle addr : Nat) (s : State) : Out :=
  commit s (hostCmd (.codecTableGet h handle addr) h .refused (codecTableGet h handle addr) s)

/-- CODEC_TABLE_SET (R209). -/
def codecTableSet (h : CmdHdr) (hd addr : Nat) (s : State) : State :=
  let f := h.fn.val
  match objGet s f hd with
  | none => finish h 1 0 0 s
  | some o =>
    if !o.oflags.testBit 2 then finish h 1 0 0 s
    else if s.runs.any (fun r => r.fn == f && r.handle == hd) then finish h 2 0 0 s
    else if o.record.isSome then finish h 7 0 0 s
    else if 4096 ≤ fld s Reg.CODEC_RECORDS 12 0 then poolEmpty .records s.timeBase 3 h s
    else
      let (s, st, b) := devRead f addr 256 s
      if st ≠ 0 then reject h st s
      else
        let lens := tableLens (slice b 0 136)
        let bd : Option Binding := if fieldAt b 0x90 4 = 0xFFFFFFFF then none
          else some { base := fieldAt b 0x90 4, factors := fieldAt b 0x94 4, rank := fieldAt b 0x98 1,
                      orient := fieldAt b 0x99 1, packCols := fieldAt b 0x9C 4 }
        if !tableOk lens then finish h 6 0 0 s
        else if !(match bd with | none => true | some x => bindingOk s o x) then finish h 5 0 0 s
        else
          let c : CodecRec := { slot0 := some { lens := lens, bind := bd }, slot1 := none, cur := 0, bind := bd, mean := fieldAt b 0x88 4,
                                max := fieldAt b 0x8C 4 }
          finish h 0 c.mean 0 (syncRecords (objPut (tookUnit .records s.timeBase h s) { o with record := some c }))

def execCodecTableSet (h : CmdHdr) (handle addr : Nat) (s : State) : Out :=
  commit s (hostCmd (.codecTableSet h handle addr) h .refused (codecTableSet h handle addr) s)

end Sys2Proof.Machine
end

