-- ==== Sys2Proof/Machine/Arrays.lean ====
section
/-! DEFINITION. The matrix arrays: what a block, a beat and a stream compute (R40-R57). -/

namespace Sys2Proof.Machine

/-- Input indices of a block (R40). -/
def modeK (m : Nat) : Nat := if m = 2 ∨ m = 3 then 64 else if m = 5 then 16 else 32
/-- Column sums of a beat (R40). -/
def modeN (m : Nat) : Nat := if m = 5 then 16 else 32
/-- Integer modes (R40). -/
def modeInt (m : Nat) : Bool := m == 1 || m == 3
/-- The format of the stationary block (R40). -/
def statFmt (m : Nat) (wvar : Bool) : Elem :=
  match m with
  | 0 => if wvar then .e5m2 else .e4m3
  | 1 => .int8 | 2 => .e2m1 | 3 => .int4 | 4 => .e2m1 | _ => .bf16
/-- The format of the moving data (R40). -/
def moveFmt (m : Nat) (xvar : Bool) : Elem :=
  match m with
  | 0 => if xvar then .e5m2 else .e4m3
  | 4 => if xvar then .e5m2 else .e4m3
  | 1 => .int8 | 2 => .e2m1 | 3 => .int4 | _ => .bf16

/-- Words of one pack of a block, and how many packs it has (R44, R160). -/
def blockWords (m : Nat) : Nat := if m = 0 ∨ m = 1 then 32 else 16
def blockPacks (m : Nat) : Nat := if m = 2 ∨ m = 3 then 2 else 1

/-- Rows of element codes. -/
def rowsOfCodes (n : Nat) (cs : List Nat) : Nat → List (List Nat)
  | 0 => []
  | k + 1 => cs.take n :: rowsOfCodes n (cs.drop n) k

/-- The weights of a block by input index, from the bytes of its packs (R44). -/
def blockWeights (m : Nat) (wvar : Bool) (p1 p2 : Bytes) : List (List Nat) :=
  let bits := (statFmt m wvar).bits
  let n := modeN m
  let one := fun p => rowsOfCodes n (elemCodes bits p) (if m = 5 then 16 else 32)
  if blockPacks m = 2 then one p1 ++ one p2 else one p1

/-- The word ranges that a LOAD reads (R44). -/
def loadReads (r : LoadRec) : List (Nat × Nat) :=
  let n := blockWords r.mode
  (r.pack1, n) :: ((if blockPacks r.mode = 2 then [(r.pack2, n)] else [])
    ++ (if r.scales then [(r.scaleAddr, if r.mode = 2 then 2 else 1)] else []))

/-- The block that a LOAD brings in (R44, R50): without scales every column carries 127. -/
def loadLatch (s : State) (c l : Nat) (r : LoadRec) : Latch :=
  let n := blockWords r.mode
  let p2 := if blockPacks r.mode = 2 then tsRead s l r.pack2 n else []
  { ctx := c, mode := r.mode, wvar := r.wvar, scales := r.scales,
    w := blockWeights r.mode r.wvar (tsRead s l r.pack1 n) p2,
    cs := if r.scales then (tsRead s l r.scaleAddr (if r.mode = 2 then 2 else 1)).map (·.toNat)
          else List.replicate 64 127 }

/-- One chain of cells: each product exact, each addition rounded once (R48). -/
def chain (xs ws : List Fp) : Fp := (List.zip xs ws).foldl (fun acc p => r32 (acc.add (p.1.mul p.2))) (.fin false 0 0)

/-- One integer chain, exact (R49). -/
def intChain (xs ws : List Int) : Int := (List.zip xs ws).foldl (fun acc p => acc + p.1 * p.2) 0

/-- Apply a moving and a stationary scale to a column sum (R50): the value, and whether it fell to zero. -/
def applyScales (ex ew : Nat) (x : Fp) : Fp × Bool :=
  match e8m0 ex, e8m0 ew with
  | some a, some b => let y := r32 (x.scale (a + b)); (y, !x.isZero && y.isZero)
  | _, _ => (.nan, false)

/-- The column sum of one lane for one beat: 32-bit lane value, and whether block scaling took a non-zero value to
zero (R48-R51). `xs` are the beat's elements, `ex` its moving scales. -/
def laneSum (b : Latch) (xvar : Bool) (xs : List Nat) (ex : List Nat) (j : Nat) : Nat × Bool :=
  let col := b.w.map (fun r => nth r j)
  let xf := xs.map (decode (moveFmt b.mode xvar))
  let wf := col.map (decode (statFmt b.mode b.wvar))
  match b.mode with
  | 1 => (ofSigned 32 (intChain (xs.map (signedOf 8)) (col.map (signedOf 8))), false)
  | 3 => (ofSigned 32 (intChain (xs.map (signedOf 4)) (col.map (signedOf 4))), false)
  | 5 => (toF32 (chain xf wf), false)
  | 2 =>
    let (a, ua) := applyScales (nth ex 0) (nth b.cs j) (chain (xf.take 32) (wf.take 32))
    let (c, uc) := applyScales (nth ex 1) (nth b.cs (32 + j)) (chain (xf.drop 32) (wf.drop 32))
    (toF32 (a.add c), ua || uc)
  | _ =>
    let (a, ua) := applyScales (nth ex 0) (nth b.cs j) (chain xf wf)
    (toF32 a, ua)

/-- Add a lane of a column sum to a lane of a row: the new lane and whether it was clamped (R52). -/
def accLane (int : Bool) (old new : Nat) : Nat × Bool :=
  if int then
    let k := signedOf 32 old + signedOf 32 new
    if k > 0x7FFFFFFF then (0x7FFFFFFF, true)
    else if k < -0x80000000 then (0x80000000, true)
    else (ofSigned 32 k, false)
  else (toF32 ((ofF32 old).add (ofF32 new)), false)

/-- The emitted value of a lane before conversion (R55). -/
def rescaled (int rescale : Bool) (lane : Nat) (entry : Nat × Nat) : Fp :=
  let a := if int then r32 (Fp.ofInt (signedOf 32 lane)) else ofF32 lane
  if rescale then fma32 a (ofF32 entry.1) (ofF32 entry.2) else a

/-- The static parameters of a stream that its arithmetic uses (R43). -/
structure StreamArgs where
  base : Nat
  start : Bool
  emit : Bool
  rescale : Bool
  xvar : Bool
  outfmt : Nat
  chBase : Nat
  dest : Nat
  deriving DecidableEq, Repr

/-- One beat through one array: its new row, the bytes it emits, and its lane counts (R52, R55, R56, R63). A lane counts once in
UNDERFLOW for each beat, whether its block scaling (in either chain), its conversion or both fell to zero (log entry 92). -/
def beatThrough (x : Arr) (b : Latch) (p : StreamArgs) (k : Nat) (data : Bytes) (ex : List Nat) :
    AccRow × Bytes × LaneCounts :=
  let n := modeN b.mode
  let int := modeInt b.mode
  let xs := elemCodes (moveFmt b.mode p.xvar).bits data
  let sums := (List.range n).map (laneSum b p.xvar xs ex)
  let old := (tget x.rows (p.base + k)).getD { int := int, lanes := List.replicate 32 0 }
  let acc := (List.range n).map (fun j =>
    let v := (sums.getD j (0, false)).1
    if p.start then (v, false) else accLane int (nth old.lanes j) v)
  let lanes := acc.map (·.1) ++ old.lanes.drop n
  let ys := (List.range n).map (fun j => rescaled int p.rescale (nth lanes j) (tgetD x.entries (p.chBase + j) (0, 0)))
  let bad := ((List.range n).filter (fun j =>
    (!int && (ofF32 (nth lanes j)).bad) || (p.emit && (ys.getD j .nan).bad))).length
  let f := outFmt p.outfmt
  let conv := if f = .int32 then (List.range n).map (fun j => (⟨nth lanes j, false, false⟩ : Conv))
    else ys.map (convert f .rne)
  let under := ((List.range n).filter (fun j =>
    (sums.getD j (0, false)).2 || (p.emit && (conv.getD j ⟨0, false, false⟩).under))).length
  ({ int := int, lanes := lanes },
   if p.emit then codeBytes f.bits (conv.map (·.code)) else [],
   { outSat := if p.emit then (conv.filter (·.sat)).length else 0, accSat := (acc.filter (·.2)).length,
     nonfinite := bad, under := under })

/-- Words that a row of results takes (R56). -/
def rowWords (m outfmt : Nat) : Nat := ceilDiv (modeN m * (outFmt outfmt).bits / 8) 32

/-- The beats of a stream through one array, in order (R54): the array, the writes, the counts. -/
def beatsThrough (b : Latch) (p : StreamArgs) : Nat → List (Bytes × List Nat) → Arr → List (Nat × Bytes) × LaneCounts × Arr
  | _, [], x => ([], ⟨0, 0, 0, 0⟩, x)
  | k, (d, ex) :: t, x =>
    let (row, bs, n) := beatThrough x b p k d ex
    let (ws, m, x') := beatsThrough b p (k + 1) t { x with rows := tput x.rows (p.base + k) row }
    ((if p.emit then [(p.dest + k * rowWords b.mode p.outfmt, bs)] else []) ++ ws,
     ⟨n.outSat + m.outSat, n.accSat + m.accSat, n.nonfinite + m.nonfinite, n.under + m.under⟩, x')

/-- The output formats allowed for a row form and Rescale (R56). -/
def outAllowed (int rescale : Bool) (o : Nat) : Bool :=
  if int then (if rescale then o ≤ 4 else o == 5) else o ≤ 3

/-- The moving data that two modes take is of one format (R59). -/
def sameMoving (m n : Nat) : Bool := m == n || (m == 0 && n == 4) || (m == 4 && n == 0)

/-- The array record of a pitch for a tile's array (R100). -/
def arrRec (p : Pitch) (l a : Nat) : Option ArrRec := p.arrays.find? (fun r => r.tile == l && r.arr == a)

end Sys2Proof.Machine
end

