-- ==== Sys2Proof/Machine/Random.lean ====
section
/-! DEFINITION. Philox4x32-10, the generator of every deterministic random stream (R341). -/

namespace Sys2Proof.Machine

/-- 32-bit exclusive or. -/
def xor32 (a b : Nat) : Nat := Nat.xor a b

/-- One Philox round on four counter words under two key words. -/
def philoxRound (k0 k1 : Nat) (c : Nat × Nat × Nat × Nat) : Nat × Nat × Nat × Nat :=
  let (c0, c1, c2, c3) := c
  let p := 0xD2511F53 * c0
  let q := 0xCD9E8D57 * c2
  (xor32 (xor32 (q / 2 ^ 32) c1) k0, q % 2 ^ 32, xor32 (xor32 (p / 2 ^ 32) c3) k1, p % 2 ^ 32)

/-- `n` rounds, the key advancing between them. -/
def philoxRounds : Nat → Nat → Nat → Nat × Nat × Nat × Nat → Nat × Nat × Nat × Nat
  | 0, _, _, c => c
  | n + 1, k0, k1, c => philoxRounds n ((k0 + 0x9E3779B9) % 2 ^ 32) ((k1 + 0xBB67AE85) % 2 ^ 32) (philoxRound k0 k1 c)

/-- One output: words y0 to y3 (R341). -/
def philox (seed c0 c1 c2 c3 : Nat) : List Nat :=
  let (y0, y1, y2, y3) := philoxRounds 10 (seed % 2 ^ 32) (seed / 2 ^ 32 % 2 ^ 32) (c0 % 2 ^ 32, c1 % 2 ^ 32, c2 % 2 ^ 32, c3 % 2 ^ 32)
  [y0, y1, y2, y3]

/-- The 16-bit value of lane ℓ of input vector v of a stochastic operation (R78, R342). -/
def stochValue (seed op step tile device v lane : Nat) : Nat :=
  let y := philox seed (8 * v + lane / 8) op (step % 2 ^ 32)
    (1 * 2 ^ 28 + tile * 2 ^ 19 + device % 2 ^ 16 * 2 ^ 3 + step / 2 ^ 32 % 8)
  nth y (lane % 8 / 2) / 2 ^ (16 * (lane % 2)) % 2 ^ 16

end Sys2Proof.Machine
end

