-- ==== Sys2Proof/Machine/Vector.lean ====
section
/-! DEFINITION. What the vector unit computes (R76-R86, R120). -/

namespace Sys2Proof.Machine

/-- A VECTOR figure's fields and frame. -/
structure VecArgs where
  op : Nat
  round : Nat
  finite : Bool
  inf : Elem
  outf : Elem
  mxin : Bool
  mxout : Bool
  a : Nat
  b : Nat
  c : Nat
  d : Nat
  n : Nat
  sc : Nat
  deriving DecidableEq, Repr

/-- Words that `k` elements of a format take. -/
def elemWords (f : Elem) (k : Nat) : Nat := ceilDiv (k * f.bits) 256

/-- Lane sum and lane maximum give one result for each vector. -/
def isReduce (op : Nat) : Bool := op == 16 || op == 17

/-- The elements of an operation's result (R120). -/
def outCount (p : VecArgs) : Nat := if isReduce p.op then p.n else 64 * p.n

/-- Words of the scales of `n` vectors: one byte for each 32 elements (R120). -/
def mxScaleWords (n : Nat) : Nat := ceilDiv (2 * n) 32

/-- Which sources an operation reads besides a (R120). -/
def usesB (op : Nat) : Bool := (1 ≤ op && op ≤ 6) || (8 ≤ op && op ≤ 13)
def usesC (op : Nat) : Bool := op == 4

/-- The word ranges that a vector operation reads (R120). -/
def vecReads (p : VecArgs) : List (Nat × Nat) :=
  let src := elemWords p.inf (64 * p.n)
  if p.op = 48 then [(p.a, 8 * p.n), (p.b, 2 * p.n + mxScaleWords p.n)]
  else (p.a, src) :: ((if usesB p.op then [(p.b, src)] else []) ++ (if usesC p.op then [(p.c, src)] else [])
    ++ (if p.op = 40 then [(p.b, 97)] else []) ++ (if p.mxin then [(p.sc, mxScaleWords p.n)] else []))

/-- The word ranges that a vector operation writes (R120). -/
def vecDests (p : VecArgs) : List (Nat × Nat) :=
  if p.op = 48 then [(p.d, 2 * p.n + mxScaleWords p.n), (p.b, 2 * p.n + mxScaleWords p.n)]
  else (p.d, elemWords p.outf (outCount p))
    :: (if p.mxout then [(p.sc, ceilDiv (ceilDiv (outCount p) 32) 32)] else [])

/-- A source's values: elements decoded exactly, INT32 rounded to FP32, MX elements multiplied by their block's scale (R82, R120). -/
def sourceVals (s : State) (l : Nat) (f : Elem) (w n : Nat) (scales : Option Nat) : List Fp :=
  let cs := elemCodes f.bits (tsRead s l w (elemWords f n))
  let vs := (cs.take n).map (fun c => if f = .int32 then r32 (decode f c) else decode f c)
  match scales with
  | none => vs
  | some sw =>
    let sb := tsRead s l sw (ceilDiv (n / 32) 32)
    (List.zip (List.range n) vs).map (fun p => scaled32 (sb.getD (p.1 / 32) 0#8).toNat p.2)

/-- Adjacent pairs combined, level by level (R82). -/
def tree (f : Fp → Fp → Fp) : Nat → List Fp → Fp
  | 0, l => l.headD .nan
  | n + 1, l => tree f n ((List.range (l.length / 2)).map (fun k => f (l.getD (2 * k) .nan) (l.getD (2 * k + 1) .nan)))

/-- The pitch table's head is valid (R82). -/
def pitchHeadOk (a w : Fp) : Bool := !a.bad && !w.bad && Fp.lt (.fin false 0 0) w

/-- The pitch table at one lane (R82): the table's bytes and the lane's value. -/
def pitchLane (tb : Bytes) (x : Fp) : Fp :=
  let f := fun off => ofF32 (fieldAt tb off 4)
  let a := f 0
  let w := f 4
  let seg := fun (i : Nat) (t : Fp) => fma32 (fma32 (f (32 + 12 * i + 8)) t (f (32 + 12 * i + 4))) t (f (32 + 12 * i))
  if !pitchHeadOk a w then .nan
  else match x with
    | .nan => .nan
    | .inf true => seg 0 (.fin false 0 0)
    | .inf false => seg 255 w
    | .fin _ _ _ =>
      match x.add a.negate, w with
      | .fin nd md ed, .fin _ mw ew =>
        let q := min ed ew
        let i := (scaledInt nd md ed q / scaledInt false mw ew q)
        let i := if i < 0 then 0 else if i > 255 then 255 else i.toNat
        seg i (r32 (x.add ((a.add ((Fp.ofInt i).mul w)).negate)))
      | _, _ => .nan

/-- One lane of an elementwise operation, in FP32 (R82). -/
def vecLane (op : Nat) (tb : Bytes) (a b c : Fp) : Fp :=
  let flag := fun (x : Bool) => if x then Fp.fin false 1 0 else Fp.fin false 0 0
  match op with
  | 0 => a
  | 1 => add32 a b
  | 2 => add32 a b.negate
  | 3 => mul32 a b
  | 4 => fma32 a b c
  | 5 => Fp.min a b
  | 6 => Fp.max a b
  | 8 => flag (Fp.eq a b)
  | 9 => flag (!Fp.eq a b)
  | 10 => flag (Fp.lt a b)
  | 11 => flag (Fp.lt a b || Fp.eq a b)
  | 12 => flag (Fp.lt b a)
  | 13 => flag (Fp.lt b a || Fp.eq a b)
  | 40 => pitchLane tb a
  | _ => ofF32 (tableFn op a)

/-- What a vector operation leaves: its writes, saturated lanes, non-finite results that count (R83). -/
structure VecResult where
  writes : List (Nat × Bytes)
  sat : Nat
  bad : Nat
  deriving DecidableEq, Repr

/-- Blocks of 32. -/
def blocks32 {α : Type} (l : List α) (n : Nat) : List (List α) := (List.range n).map (fun k => (l.drop (32 * k)).take 32)

/-- The gradient quantiser over n vectors (R86). -/
def runQuant (s : State) (l : Nat) (p : VecArgs) : VecResult :=
  let nb := 2 * p.n
  let g := blocks32 (sourceVals s l .f32 p.a (64 * p.n) none) nb
  let e := blocks32 (sourceVals s l .e4m3 p.b (64 * p.n) none) nb
  let es := tsRead s l (p.b + 2 * p.n) (mxScaleWords p.n)
  let r := (List.range nb).map (fun k => quantBlock (g.getD k []) (e.getD k []) (es.getD k 0#8).toNat)
  let bytes := fun (l : List Nat) => codeBytes 8 l
  { writes := [(p.d, bytes (r.flatMap (fun q => q.2.1))), (p.d + 2 * p.n, bytes (r.map (fun q => q.1))),
               (p.b, bytes (r.flatMap (fun q => q.2.2.2.1))), (p.b + 2 * p.n, bytes (r.map (fun q => q.2.2.1)))],
    sat := (r.map (fun q => q.2.2.2.2.2)).sum, bad := (r.map (fun q => q.2.2.2.2.1)).sum }

/-- A vector operation (R82, R120): `rnd v ℓ` is the rounding of lane ℓ of vector v. An MX block that a reduction fills in part is scaled over
the elements that it has (log entry 93). -/
def runVector (s : State) (l : Nat) (p : VecArgs) (rnd : Nat → Nat → Rnd) : VecResult :=
  if p.op = 48 then runQuant s l p
  else
    let k := 64 * p.n
    let src := fun w => sourceVals s l p.inf w k none
    let va := sourceVals s l p.inf p.a k (if p.mxin then some p.sc else none)
    let vb := if usesB p.op then src p.b else []
    let vc := if usesC p.op then src p.c else []
    let tb := if p.op = 40 then tsRead s l p.b 97 else []
    let raw : List Fp :=
      if isReduce p.op then (List.range p.n).map (fun v =>
        tree (if p.op = 16 then add32 else Fp.max) 6 ((va.drop (64 * v)).take 64))
      else (List.range k).map (fun i => vecLane p.op tb (va.getD i .nan) (vb.getD i .nan) (vc.getD i .nan))
    let bad := if p.finite then (raw.filter Fp.bad).length else 0
    let mode := fun (i : Nat) => if p.op = 0 then rnd (i / 64) (i % 64) else .rne
    if p.mxout then
      let bs := (List.range (ceilDiv raw.length 32)).map (fun b =>
        mxBlock p.outf (fun i => mode (32 * b + i)) ((raw.drop (32 * b)).take 32))
      let conv := bs.flatMap (·.2)
      { writes := [(p.d, codeBytes p.outf.bits (conv.map (·.code))), (p.sc, codeBytes 8 (bs.map (·.1)))],
        sat := (conv.filter (·.sat)).length, bad := bad }
    else
      let conv := (List.zip (List.range raw.length) raw).map (fun e => convert p.outf (mode e.1) e.2)
      { writes := [(p.d, codeBytes p.outf.bits (conv.map (·.code)))], sat := (conv.filter (·.sat)).length, bad := bad }

/-- Cycles that an operation occupies the vector unit, and cycles to its completion (R129). -/
def vecBusy (p : VecArgs) : Nat := if p.op = 48 then 2 * p.n else p.n
def vecDue (p : VecArgs) : Nat :=
  if p.op = 48 then 2 * p.n + 20
  else if isReduce p.op then p.n + 14
  else if p.op < 32 then p.n + 8
  else p.n + 16

end Sys2Proof.Machine
end

