-- ==== Sys2Proof/Machine/Issue.lean ====
section
/-! DEFINITION. How a caller issues a figure (R124-R126, R141, R143): the figure that stands next, the conditions of
issue, holds, marks and figures in flight. -/

namespace Sys2Proof.Machine

/-- What an issue works on: the site, the logical tile, the active context, what it holds on the tile, its figure. -/
structure Env where
  site : Nat
  l : Nat
  c : Nat
  x : Ctx
  t : TileCtx
  fig : Fig
  word : Nat
  index : Nat
  deriving DecidableEq, Repr

/-- The number of steps that a tile has begun. -/
def stepsBegun (t : TileCtx) : Nat := t.steps + (if t.atEnd then 0 else 1)

/-- The steps that a serving context still has to run: those of its started batches (R297, R382). -/
def owedSteps (s : State) (c : Nat) : Nat := match tget s.serves c with | some v => v.base + v.nextStart | none => 0

/-- A tile stands still between steps for an unload in DRAIN mode or a freeze, once no tile of its context has begun a
further step and no batch is started that it has not served (R112, R297, R382). -/
def haltsAt (owed : Nat) (x : Ctx) (t : TileCtx) : Bool :=
  t.atEnd && owed ≤ t.steps && (x.freezing || (match x.unload with | some (0, _) => true | _ => false))
    && x.tiles.all (fun e => stepsBegun e.2 ≤ t.steps)

/-- The compute units of a tile that a context uses are powered (R483). -/
def tilePowered (s : State) (p : Pitch) (l : Nat) : Bool := !napping s || (p.tileMap.getD l 0#8).toNat.testBit 2

/-- The figure that the active context of a site issues next: none while the caller stands still (no context, a switch
under way, a sleep or vote that waits, a stop at an END_STEP, a chip fault, a tile that is not in RUN). -/
def nextIssue (s : State) (site : Nat) : Option Env := do
  let st := siteGet s site
  let l ← tileOfSite s site
  let c ← st.active
  let x ← ctxGet s c
  let t ← tget x.tiles site
  let i := nextFig s c site
  let w ← ((tget x.pitch.figures l).getD [])[i]?
  let f ← decodeFig w
  if healthy s && awake s && tileState s site == 0 && st.busyUntil ≤ s.cycle && ctxStateAt s c site == 2
      && t.sleep.isNone && t.vote.isNone && !haltsAt (owedSteps s c) x t && tilePowered s x.pitch l
  then some { site := site, l := l, c := c, x := x, t := t, fig := f, word := w, index := i }
  else none

/-- The status bits of an array follow its work (R66). -/
def syncArr (site : Nat) (s : State) (a : Nat) : State :=
  let x := arrGet s site a
  let fs := (siteGet s site).flights
  let k := Reg.ARR_STATUS site a
  let tab := fs.any (fun f => match f.work with | .table b _ _ => b == a | _ => false)
  let ld := fs.any (fun f => match f.work with | .load b _ => b == a | _ => false)
  let str := fs.any (fun f => match f.work with
    | .stream as _ _ _ => as.contains a
    | .portStream p => (match p.fig with | .stream m _ _ _ _ _ _ _ => m.testBit a | _ => false)
    | _ => false)
  let (sc, md) := match x.latch with
    | some b => (b.scales, b.mode)
    | none => (false, 7)
  setF s k 7 0 (b2n tab * 128 + b2n ld * 64 + b2n str * 32 + b2n sc * 16 + md)

/-- The caller's status follows its state (R66, R141). -/
def syncSite (site : Nat) (s : State) : State :=
  let st := siteGet s site
  let k := Reg.CALLER_STATUS site
  let s := setF s k 23 21 (match st.active with | some c => slotOf s c site * 2 + 1 | none => 0)
  let s := setF s k 20 16 (inFlight s site)
  let s := setF s k 15 12 (match st.hold with | some h => h.kind | none => 0)
  (List.range 4).foldl (syncArr site) s

/-- The cycles of a site's hold so far, where it is for a unit, mark, flight or token (R139). -/
def holdTime (s : State) (site : Nat) : Nat :=
  match (siteGet s site).hold with
  | some h => if 1 ≤ h.kind ∧ h.kind ≤ 4 then s.cycle - h.since else 0
  | none => 0

/-- End a hold; the cycles held for a unit, mark, flight or token are counted (R139). -/
def holdOff (site : Nat) (s : State) : State :=
  let st := siteGet s site
  match st.hold with
  | none => s
  | some _ => addR (sitePut s site { st with hold := none }) (Reg.HOLD_CYCLES site) (holdTime s site)

/-- Begin a hold, or go on with one of the same kind; one of another kind ends and is counted (R139, R141). -/
def holdOn (kind : Nat) (site : Nat) (s : State) : State :=
  if (siteGet s site).hold.any (fun h => h.kind == kind) then syncSite site s
  else syncSite site (siteMod site (fun st => { st with hold := some { kind := kind, since := s.cycle, raised := false } }) (holdOff site s))

/-- The position after figure `i`, once bodies that end there have looped back or closed (R118, R124). -/
def advanceLoops : List (Nat × Nat × Nat) → Nat → List (Nat × Nat × Nat) × Nat
  | [], i => ([], i)
  | (lo, hi, left) :: rest, i =>
    if i = hi then
      if left > 0 then ((lo, hi, left - 1) :: rest, lo) else advanceLoops rest i
    else ((lo, hi, left) :: rest, i)

/-- The figure has issued: it is counted, the hold ends, and NEXT moves on (R124, R139). -/
def advance (e : Env) (s : State) : State :=
  let s := holdOff e.site s
  let s := addR s (Reg.FIGURES_ISSUED e.site) 1
  let (ls, n) := advanceLoops e.t.loops (e.index + 1)
  setNext e.c e.site n (tcMod e.c e.site (fun t => { t with loops := ls, atEnd := false }) s)

/-- The conditions of one figure's issue and what it does: its unit accepts it, its own condition and the hold code while that fails,
its read and write ranges, the assertions it raises, its effect. -/
structure Plan where
  unit : Bool := true
  own : Bool := true
  ownHold : Nat := 0
  reads : List (Nat × Nat) := []
  writes : List (Nat × Nat) := []
  asserts : List (State → State) := []
  act : State → State := id

/-- The source ranges of every block that a context has latched (R136). -/
def latchSources (t : TileCtx) : List (Nat × Nat) := t.loads.flatMap (fun e => loadReads e.2)

/-- The caller assertion codes that a figure meets through its ranges (R117, R136). -/
def rangeCodes (e : Env) (p : Plan) : List Nat :=
  (if (p.reads ++ p.writes).all (fun r => rangeOk e.x.pitch e.l r.1 r.2) then [] else [1])
    ++ (if p.writes.any (fun w => (latchSources e.t).any (overlap w)) then [7] else [])

/-- Raise the lowest of a list of caller assertion codes (R138). -/
def raiseLowest (site : Nat) (codes : List Nat) (s : State) : State :=
  match codes with
  | [] => s
  | c :: cs => callerAssert site (cs.foldl min c) s

/-- What an uncorrected or corrected error in the figure fetched does (R138). -/
def fetchCheck (e : Env) (s : State) : State × Bool :=
  match s.errs.find? (fun p => p.1 == .figure e.c e.site e.index) with
  | none => (s, true)
  | some (pl, true) =>
    (chipFault 0x07 (e.site * 2 ^ 14) (orR { s with errs := s.errs.erase (pl, true) } (Reg.CALLER_CAUSE e.site) 2), false)
  | some (pl, false) =>
    (satR (orR { s with errs := s.errs.erase (pl, false) } (Reg.CALLER_CAUSE e.site) 4) (Reg.FIG_CORRECTED e.site) 1, true)

/-- What the read of tile-store words meets: a corrected error is counted, an uncorrectable one is a chip fault
(R149). -/
def storeErr (e : Env) (reads : List (Nat × Nat)) (s : State) (p : ErrPlace × Bool) : State :=
  match p with
  | (.store l w, bad) =>
    if l = e.l ∧ reads.any (fun r => r.1 ≤ w && w < r.1 + r.2) then
      let s := { s with errs := s.errs.erase p }
      if bad then chipFault 0x08 (e.site * 2 ^ 14 + w / 8192) (orR s Reg.MEM_CAUSE 0x10)
      else satR (orR s Reg.MEM_CAUSE 8) Reg.TS_CORRECTED 1
    else s
  | _ => s

/-- Issue a figure under its plan (R124, R125): the first condition that fails is the hold; a figure that meets an
assertion raises it and has no other effect. `codes` are its caller assertions besides those of its ranges. -/
def issue (e : Env) (codes : List Nat) (p : Plan) (s : State) : State :=
  let st := siteGet s e.site
  if !p.unit then holdOn 1 e.site s
  else if 16 ≤ inFlight s e.site then holdOn 3 e.site s
  else if marksClash st.flights p.reads p.writes then holdOn 2 e.site s
  else if !p.own then holdOn p.ownHold e.site s
  else
    let (s, ok) := fetchCheck e s
    if !ok then s
    else
      let all := codes ++ rangeCodes e p
      if all.isEmpty && p.asserts.isEmpty then
        syncSite e.site (p.act (s.errs.foldl (storeErr e p.reads) (advance e s)))
      else raiseLowest e.site all (p.asserts.foldl (fun s f => f s) s)

/-- Issue the next figure of a site when it is of the kind that `plan` takes; otherwise nothing happens. -/
def issueIf (site : Nat) (plan : Env → State → Option (List Nat × Plan)) (s : State) : State :=
  match nextIssue s site with
  | none => s
  | some e =>
    match plan e s with
    | none => s
    | some (codes, p) => issue e codes p s

/-- Put a figure in flight (R126). -/
def fly (e : Env) (w : Work) (dur : Nat) (reads writes : List (Nat × Nat)) (post : Option Nat) (s : State) : State :=
  siteMod e.site (fun st => { st with
    flights := st.flights ++ [{ id := st.nextId, ctx := e.c, work := w, due := s.cycle + dur, reads := reads,
                                writes := writes, post := post }], nextId := st.nextId + 1 }) s

/-- A flight of a site by its number. -/
def flightOf (s : State) (site id : Nat) : Option Flight := (siteGet s site).flights.find? (fun f => f.id == id)

/-- Take a flight away: it has completed. -/
def landFlight (site id : Nat) (s : State) : State :=
  siteMod site (fun st => { st with flights := st.flights.filter (fun f => f.id != id) }) s

/-- Change the work of a flight. -/
def setWork (site id : Nat) (w : Work) (s : State) : State :=
  siteMod site (fun st => { st with flights := st.flights.map (fun f => if f.id = id then { f with work := w } else f) }) s

/-- A flight completes: it leaves, and posts its token (R126, R128). -/
def completeFlight (site : Nat) (f : Flight) (s : State) : State :=
  let s := landFlight site f.id s
  let s := match f.post with
    | some tok => postToken f.ctx site tok s
    | none => s
  syncSite site s

/-- Complete the flight `id` of a site when it is of the kind that `done` takes and its time has come; `done` gives the
effect of the last word. Work for contexts is abandoned by a chip fault (R466). -/
def completeIf (site id : Nat) (done : Flight → Option (State → State)) (s : State) : State :=
  match flightOf s site id with
  | none => s
  | some f =>
    if healthy s && f.due ≤ s.cycle then
      match done f with
      | some g => completeFlight site f (g s)
      | none => s
    else s

end Sys2Proof.Machine
end

