-- ==== Sys2Proof/Machine/Caller.lean ====
section
/-! DEFINITION. The argument, array, vector and transfer figures and their completions (R116-R129). -/

namespace Sys2Proof.Machine

/-! ### SET, ADDG, REPEAT -/

def planSet (e : Env) (_ : State) : Option (List Nat × Plan) :=
  match e.fig with
  | .set i v => some ([], { act := tcMod e.c e.site (fun t => gSet t i v) })
  | _ => none

/-- SET (R118). -/
def execSet (site : SiteId) (s : State) : Out := commit s (issueIf site.val planSet s)

def planAddg (e : Env) (_ : State) : Option (List Nat × Plan) :=
  match e.fig with
  | .addg i v => some ([], { act := tcMod e.c e.site (fun t => gSet t i (gReg t i + v)) })
  | _ => none

/-- ADDG: the step is added modulo 2^20 (R118). -/
def execAddg (site : SiteId) (s : State) : Out := commit s (issueIf site.val planAddg s)

def planRepeat (e : Env) (_ : State) : Option (List Nat × Plan) :=
  match e.fig with
  | .repeatBody b n => some ([], { act := tcMod e.c e.site (fun t =>
      { t with loops := (e.index + 1, e.index + 2 + b, n) :: t.loops }) })
  | _ => none

/-- REPEAT (R118). -/
def execRepeatFig (site : SiteId) (s : State) : Out := commit s (issueIf site.val planRepeat s)

/-! ### LOAD and TABLE -/

/-- A stationary or table load of an array is under way. -/
def loaderBusy (st : Site) (a : Nat) : Bool :=
  st.flights.any (fun f => match f.work with | .load b _ => b == a | .table b _ _ => b == a | _ => false)

/-- A stationary load of an array is under way. -/
def blockLoading (st : Site) (a : Nat) : Bool :=
  st.flights.any (fun f => match f.work with | .load b _ => b == a | _ => false)

/-- A stream on an array still takes beats from the LOCAL port. -/
def portBusy (st : Site) (a : Nat) : Bool := st.flights.any (fun f => (portMask f.work).testBit a)

/-- The feeder of an array is free (R46). -/
def feederFree (s : State) (site a : Nat) : Bool :=
  (arrGet s site a).feedUntil ≤ s.cycle && !portBusy (siteGet s site) a

def planLoad (e : Env) (s : State) : Option (List Nat × Plan) :=
  match e.fig with
  | .load a m wv sc _ =>
    let fr := frame e.t e.fig
    let r : LoadRec := { mode := m, wvar := wv, scales := sc, pack1 := nth fr 0, pack2 := nth fr 1, scaleAddr := nth fr 2 }
    let listed := match arrRec e.x.pitch e.l a with | some x => x.modes.testBit m | none => false
    some ([], {
      unit := feederFree s e.site a && !loaderBusy (siteGet s e.site) a, reads := loadReads r,
      asserts := if listed then [] else [arrayAssert e.site a 0x01],
      act := fun s =>
        let s := addR s (Reg.ARR_BUSY e.site a) 32
        let s := tcMod e.c e.site (fun t => { t with loads := tput t.loads a r }) s
        fly e (.load a (loadLatch s e.c e.l r)) 32 (loadReads r) [] none s })
  | _ => none

/-- LOAD (R44-R46, R119). -/
def execLoad (site : SiteId) (s : State) : Out := commit s (issueIf site.val planLoad s)

/-- A new block stands in an array: its weight registers are written, and errors in the old ones are gone (R45, R47, R68). -/
def latchBlock (site a : Nat) (b : Latch) (s : State) : State :=
  let s := { s with errs := s.errs.filter (fun e => e.1 != .weight site a) }
  addR (arrMod site a (fun x => { x with latch := some b }) s) (Reg.ARR_LOADS site a) 1

/-- BLOCK_LOAD_COMPLETE: every cell has latched the new block (R45, R47). -/
def blockLoadComplete (site id : Nat) (s : State) : State :=
  completeIf site id (fun f => match f.work with
    | .load a b => some (latchBlock site a b)
    | _ => none) s

def execBlockLoadComplete (site : SiteId) (id : Nat) (s : State) : Out := commit s (blockLoadComplete site.val id s)

/-- The entries that bytes hold: scale and offset (R55). -/
def entriesOf (bs : Bytes) (n : Nat) : List (Nat × Nat) :=
  (List.range n).map (fun k => (fieldAt bs (8 * k) 4, fieldAt bs (8 * k + 4) 4))

/-- Set one rescale entry. -/
def setEntry (x : Arr) (k : Nat) (v : Nat × Nat) : Arr :=
  { x with entries := if v = (0, 0) then tdel x.entries k else tput x.entries k v }

/-- Set a run of rescale entries. -/
def setEntries (x : Arr) (first : Nat) (vals : List (Nat × Nat)) : Arr :=
  (List.zip (List.range vals.length) vals).foldl (fun x p => setEntry x (first + p.1) p.2) x

/-- The rescale entries that a stream uses, by array: those of a stream with Rescale and Emit (R55). -/
def streamUses (f : Fig) (fr : List Nat) (m : Nat) : List (Nat × Nat × Nat) :=
  match f with
  | .stream as _ _ _ true true _ _ => (bitPositions 4 as).map (fun a => (a, nth fr 2 % 4096, modeN m))
  | _ => []

/-- A stream in flight emits through some entry of a range between two cycles: a beat leaves the rescale stage 66 cycles after it left
the feeder, those of a stream from the tile store one in each cycle from its issue (R42, R57, R129). -/
def streamHazard (st : Site) (a first n t0 t1 : Nat) : Bool :=
  st.flights.any (fun f => match f.work with
    | .stream _ beats _ uses => uses.any (fun u => u.1 == a && overlap u.2 (first, n)) && t0 + 4 ≤ f.due && f.due < t1 + beats + 3
    | .portStream p => (streamUses p.fig p.args p.mode).any (fun u => u.1 == a && overlap u.2 (first, n))
        && p.fed.any (fun t => t0 ≤ t + 66 && t + 66 < t1)
    | _ => false)

def planTable (e : Env) (s : State) : Option (List Nat × Plan) :=
  match e.fig with
  | .table a _ =>
    let fr := frame e.t e.fig
    let n := nth fr 2
    let first := nth fr 1
    let words := ceilDiv n 4
    let countBad := n == 0 || 4096 < first + n
    let inRange := match arrRec e.x.pitch e.l a with
      | some r => r.chBase ≤ first && first + n ≤ r.chBase + r.chCount
      | none => false
    some (if countBad then [8] else [], {
      unit := !loaderBusy (siteGet s e.site) a, reads := [(nth fr 0, words)],
      asserts := if countBad then [] else if !inRange then [arrayAssert e.site a 0x02]
        else if streamHazard (siteGet s e.site) a first n s.cycle (s.cycle + words) then [arrayAssert e.site a 0x05] else [],
      act := fun s => fly e (.table a first (entriesOf (tsRead s e.l (nth fr 0) words) n)) words [(nth fr 0, words)] [] none s })
  | _ => none

/-- TABLE (R57, R119). -/
def execTable (site : SiteId) (s : State) : Out := commit s (issueIf site.val planTable s)

/-- A run of rescale entries is written, and errors in the old ones are gone (R57, R68). -/
def loadEntries (site a first : Nat) (vals : List (Nat × Nat)) (s : State) : State :=
  arrMod site a (fun x => setEntries x first vals) { s with errs := s.errs.filter (fun e => match e.1 with
    | .entry st b k => !(st == site && b == a && first ≤ k && k < first + vals.length)
    | _ => true) }

/-- TABLE_LOAD_COMPLETE: the range of entries is written (R57). -/
def tableLoadComplete (site id : Nat) (s : State) : State :=
  completeIf site id (fun f => match f.work with
    | .table a first vals => some (loadEntries site a first vals)
    | _ => none) s

def execTableLoadComplete (site : SiteId) (id : Nat) (s : State) : Out := commit s (tableLoadComplete site.val id s)

/-! ### STREAM -/

/-- The arrays that a mask names, ascending. -/
def arraysOf (m : Nat) : List Nat := bitPositions 4 m

/-- A stream's arguments for the k-th array it names, from its frame (R119). -/
def streamArgs (f : Fig) (fr : List Nat) (k : Nat) : StreamArgs :=
  match f with
  | .stream _ _ xv st em rs o _ =>
    { base := nth fr 1 / 512 % 512, start := st, emit := em, rescale := rs, xvar := xv, outfmt := o,
      chBase := nth fr 2 % 4096, dest := nth fr (4 + k) }
  | _ => { base := 0, start := false, emit := false, rescale := false, xvar := false, outfmt := 0, chBase := 0, dest := 0 }

/-- Beats of a stream (R119). -/
def streamBeats (fr : List Nat) : Nat := nth fr 1 % 512 + 1

/-- The block that a context's stream uses on an array (R67: none since the context was loaded is NO_BLOCK). -/
def blockFor (s : State) (e : Env) (a : Nat) : Option Latch :=
  match tget e.t.loads a, (arrGet s e.site a).latch with
  | some _, some b => if b.ctx = e.c then some b else none
  | _, _ => none

/-- A table load on an array that is still under way in cycle `t` covers some entry of a range (R57). -/
def tableHazard (st : Site) (a lo n t : Nat) : Bool :=
  st.flights.any (fun f => match f.work with
    | .table b first vals => b == a && t < f.due && overlap (lo, n) (first, vals.length)
    | _ => false)

/-- An array with the entries of the table loads in flight: a stream takes those of every load before it (R46, R57, R61). -/
def withLoads (st : Site) (a : Nat) (x : Arr) : Arr :=
  st.flights.foldl (fun x f => match f.work with
    | .table b first vals => if b = a then setEntries x first vals else x
    | _ => x) x

/-- The lowest assertion code that a stream meets on one array (R67). Of named arrays whose latched modes do not go together, those meet
code 0x07 whose mode differs from that of the first named array that has a block (log entry 92). -/
def streamCode (s : State) (e : Env) (mode0 : Option Nat) (p : StreamArgs) (n a : Nat) : Option Nat :=
  let r := arrRec e.x.pitch e.l a
  let b := blockFor s e a
  let lanes := match b with | some b => modeN b.mode | none => 32
  let uses := p.rescale && p.emit
  let code2 := uses && (4096 < p.chBase + lanes || (match r with
    | some r => !(r.chBase ≤ p.chBase && p.chBase + lanes ≤ r.chBase + r.chCount)
    | none => true))
  let code3 := 512 < p.base + n || (match r with
    | some r => !(r.accBase ≤ p.base && p.base + n ≤ r.accBase + r.accCount)
    | none => true)
  let rows := (arrGet s e.site a).rows
  let code4 := !p.start && (match b with
    | some b => (upFrom p.base n).any (fun k => match tget rows k with
        | some row => row.int != modeInt b.mode
        | none => true)
    | none => false)
  let code5 := uses && tableHazard (siteGet s e.site) a p.chBase lanes (s.cycle + 66)
  let code6 := p.emit && (match b with | some b => !outAllowed (modeInt b.mode) p.rescale p.outfmt | none => false)
  let code7 := match b, mode0 with | some b, some m => !sameMoving m b.mode | _, _ => false
  let hits := [(code2, 2), (code3, 3), (code4, 4), (code5, 5), (code6, 6), (code7, 7), (b.isNone, 8)]
  (hits.find? (·.1)).map (·.2)

/-- The assertions that a stream raises: when its arrays meet several conditions, those of the lowest code (R67, log entry 92). -/
def streamAsserts (site : Nat) (codes : List (Nat × Nat)) : List (State → State) :=
  let low := codes.foldl (fun m c => min m c.2) 255
  (codes.filter (fun c => c.2 == low)).map (fun c => arrayAssert site c.1 c.2)

/-- Soft errors that beats `k0` to `k0 + n - 1` of a stream meet in one array of a mode: weight registers, accumulator rows that are added
to, rescale entries that are used; a row that Start overwrites whole loses its error (R52, R68). -/
def arrayErr (site a mode : Nat) (p : StreamArgs) (k0 n : Nat) (s : State) (q : ErrPlace × Bool) : State :=
  let corr := fun (s : State) => satR (orR s (Reg.ARR_CAUSE site a) 4) (Reg.ARR_CORRECTED site a) 1
  let loc := site * 2 ^ 14 + a * 2 ^ 12
  match q with
  | (.weight st b, _) => if st = site ∧ b = a then
      chipFault 0x05 loc (orR { s with errs := s.errs.erase q } (Reg.ARR_CAUSE site a) 2) else s
  | (.acc st b row, bad) => if st = site ∧ b = a ∧ p.base + k0 ≤ row ∧ row < p.base + k0 + n then
      if p.start then (if modeN mode = 32 then { s with errs := s.errs.erase q } else s)
      else
        let s := { s with errs := s.errs.erase q }
        if bad then chipFault 0x06 loc (orR s (Reg.ARR_CAUSE site a) 8) else corr s
    else s
  | (.entry st b k, bad) => if st = site ∧ b = a ∧ p.emit ∧ p.rescale ∧ p.chBase ≤ k ∧ k < p.chBase + modeN mode then
      let s := { s with errs := s.errs.erase q }
      if bad then chipFault 0x06 (loc + 1) (orR s (Reg.ARR_CAUSE site a) 16) else corr s
    else s
  | _ => s

/-- Beats of a stream and the cycle in which the first of them leaves the feeder: their first index, the rescale entries of each array as
the stream found them at its issue (R61), and their data with their moving scales. -/
structure Beats where
  first : Nat
  at_ : Nat
  ents : Tbl (Tbl (Nat × Nat))
  data : List (Bytes × List Nat)
  deriving DecidableEq, Repr

/-- Run beats of a stream through one named array: rows, counters and flags at once, its writes kept for the
completion (R52-R56, R63-R65). -/
def streamArray (c site : Nat) (f : Fig) (fr : List Nat) (q : Beats) (ka : Nat × Nat)
    (acc : State × List (Nat × Bytes)) : State × List (Nat × Bytes) :=
  let (s, ws) := acc
  let (k, a) := ka
  match (arrGet s site a).latch with
  | none => (s, ws)
  | some b =>
    let p := streamArgs f fr k
    let n := q.data.length
    let s := s.errs.foldl (arrayErr site a b.mode p q.first n) s
    let (w, cnt, x) := beatsThrough b p q.first q.data { arrGet s site a with entries := tgetD q.ents a [] }
    let s := arrMod site a (fun y => { y with rows := x.rows, feedUntil := q.at_ + n }) s
    let s := addR (addR s (Reg.ARR_BEATS site a) n) (Reg.ARR_BUSY site a) n
    (countLanes c site a cnt s, ws ++ w)

/-- Run beats of a stream through all the arrays it names (R59). -/
def streamAll (c site : Nat) (f : Fig) (fr : List Nat) (q : Beats) (s : State) : State × List (Nat × Bytes) :=
  match f with
  | .stream m _ _ _ _ _ _ _ =>
    let as := arraysOf m
    (List.zip (List.range as.length) as).foldl (fun acc ka => streamArray c site f fr q ka acc) (s, [])
  | _ => (s, [])

/-- The rescale entries of some arrays as a stream that issues now uses them (R61). -/
def entsNow (s : State) (site : Nat) (as : List Nat) : Tbl (Tbl (Nat × Nat)) :=
  as.map (fun a => (a, (withLoads (siteGet s site) a (arrGet s site a)).entries))

/-- The beats of a stream: their data with their moving scales (R50, R119). -/
def beatsOf (m : Nat) (data scales : Bytes) (n : Nat) : List (Bytes × List Nat) :=
  (List.range n).map (fun k => (slice data (32 * k) 32,
    if m = 2 then [fieldAt scales (2 * k) 1, fieldAt scales (2 * k + 1) 1] else [fieldAt scales k 1]))

/-- Words of a stream's moving scales (R119). -/
def scaleWords (m n : Nat) : Nat := if m = 2 then ceilDiv (2 * n) 32 else if m = 0 ∨ m = 4 then ceilDiv n 32 else 0

/-- The destination ranges of a stream (R56). -/
def streamDests (f : Fig) (fr : List Nat) (m : Nat) : List (Nat × Nat) :=
  match f with
  | .stream as _ _ _ true _ o _ =>
    (List.range (arraysOf as).length).map (fun k => (nth fr (4 + k), streamBeats fr * rowWords m o))
  | _ => []

/-- Cycles from a stream's last beat to its completion (R129). -/
def streamTail : Fig → Nat
  | .stream _ _ _ _ true _ _ _ => 70
  | _ => 66

/-- The reads of a stream from the tile store. -/
def streamReads (f : Fig) (fr : List Nat) (m : Nat) : List (Nat × Nat) :=
  let n := streamBeats fr
  (match f with | .stream _ false _ _ _ _ _ _ => [(nth fr 0, n)] | _ => [])
    ++ (if scaleWords m n = 0 then [] else [(nth fr 3, scaleWords m n)])

/-- Flits of a route that wait in a site's buffer for a context. -/
def bufferedFlits (st : Site) (c r : Nat) : List Bytes :=
  (st.buffer.filter (fun b => b.1 == c && b.2.1 == r)).map (·.2.2)

/-- Take the first `n` buffered flits of a route out of the buffer (R127). -/
def unbuffer (c r : Nat) : Nat → List (Nat × Nat × Bytes) → List (Nat × Nat × Bytes)
  | _, [] => []
  | 0, l => l
  | n + 1, b :: t => if b.1 = c ∧ b.2.1 = r then unbuffer c r n t else b :: unbuffer c r (n + 1) t

/-- A flit comes to an open stream (R127): its beat leaves the feeder in cycle `t`, or after the beat before it, and passes every named
array. A beat that would emit through an entry under load is RESCALE_HAZARD (R57). -/
def feedBeat (l c site : Nat) (payload : Bytes) (t : Nat) (p : PortStream) (s : State) : PortStream × State :=
  let at_ := max t ((p.fed.getLast?.map (· + 1)).getD t)
  let sc := tsRead s l (nth p.args 3) (scaleWords p.mode p.need)
  let ex := if p.mode = 2 then [fieldAt sc (2 * p.got) 1, fieldAt sc (2 * p.got + 1) 1] else [fieldAt sc p.got 1]
  let bad := ((streamUses p.fig p.args p.mode).filter (fun u => tableHazard (siteGet s site) u.1 u.2.1 u.2.2 (at_ + 66))).map (·.1)
  let (s, ws) := streamAll c site p.fig p.args { first := p.got, at_ := at_, ents := p.ents, data := [(payload, ex)] } s
  ({ p with got := p.got + 1, writes := p.writes ++ ws, fed := p.fed ++ [at_] },
   bad.foldl (fun s a => arrayAssert site a 0x05 s) s)

/-- The buffered flits of a stream's route leave the buffer first, one in each cycle (R127). -/
def feedBeats (l c site : Nat) : List Bytes → Nat → PortStream → State → PortStream × State
  | [], _, p, s => (p, s)
  | b :: bs, t, p, s => let (p, s) := feedBeat l c site b t p s; feedBeats l c site bs (t + 1) p s

/-- A figure takes the flits that wait for it: their places are free one after another from this cycle on (R127). -/
def claimFlits (site c r n : Nat) (s : State) : State :=
  siteMod site (fun st => { st with buffer := unbuffer c r n st.buffer,
                                    draining := st.draining.filter (s.cycle ≤ ·) ++ upFrom s.cycle n }) s

/-- The flits that take a place in a site's buffer: those that wait, and those that still have to leave it. -/
def bufferLoad (s : State) (site : Nat) : Nat :=
  (siteGet s site).buffer.length + ((siteGet s site).draining.filter (s.cycle < ·)).length

/-- A stream from the LOCAL port as it issues. -/
def portStreamOf (s : State) (e : Env) (fr : List Nat) (route n md : Nat) (as : List Nat) : PortStream :=
  { fig := e.fig, args := fr, route := route, need := n, got := 0, mode := md, ents := entsNow s e.site as, writes := [], fed := [] }

def planStream (e : Env) (s : State) : Option (List Nat × Plan) :=
  match e.fig with
  | .stream m fromPort _ _ _ _ _ _ =>
    let fr := frame e.t e.fig
    let as := arraysOf m
    let n := streamBeats fr
    let st := siteGet s e.site
    let mode0 := (as.filterMap (fun a => (blockFor s e a).map (·.mode))).head?
    let md := mode0.getD 0
    let asserts := streamAsserts e.site ((List.zip (List.range as.length) as).filterMap (fun ka =>
      (streamCode s e mode0 (streamArgs e.fig fr ka.1) n ka.2).map (ka.2, ·)))
    let route := nth fr 0
    let routeBad := fromPort && (match routeOf e.x.pitch route with | some r => !endsAt r.dst e.l | none => true)
    let countBad := 2 ^ 18 ≤ nth fr 1 || 2 ^ 12 ≤ nth fr 2
    let portTaken := fromPort && st.flights.any (fun f => portMask f.work != 0)
    let reads := streamReads e.fig fr md
    let writes := streamDests e.fig fr md
    some ((if routeBad then [2] else []) ++ (if countBad then [8] else []), {
      unit := !portTaken && as.all (fun a => feederFree s e.site a && !blockLoading st a),
      reads := reads, writes := writes, asserts := asserts,
      act := fun s =>
        if fromPort then
          let got := (bufferedFlits (siteGet s e.site) e.c route).take n
          let s := claimFlits e.site e.c route got.length s
          let (p, s) := feedBeats e.l e.c e.site got s.cycle (portStreamOf s e fr route n md as) s
          fly e (.portStream p) (n - 1 + streamTail e.fig) reads writes none s
        else
          let sc := tsRead s e.l (nth fr 3) (scaleWords md n)
          let (s, ws) := streamAll e.c e.site e.fig fr
            { first := 0, at_ := s.cycle, ents := entsNow s e.site as, data := beatsOf md (tsRead s e.l (nth fr 0) n) sc n } s
          fly e (.stream as n ws (streamUses e.fig fr md)) (n - 1 + streamTail e.fig) reads writes none s })
  | _ => none

/-- STREAM (R43, R46-R59, R119). -/
def execStream (site : SiteId) (s : State) : Out := commit s (issueIf site.val planStream s)

/-- STREAM_COMPLETE: the last result has been accumulated, or written when the stream emits (R56, R129). A stream that
takes its beats from the LOCAL port completes once all of them have come and the last has passed (R127). -/
def streamComplete (site id : Nat) (s : State) : State :=
  completeIf site id (fun f => match f.work with
    | .stream _ _ ws _ => some (fun s => match tileOfSite s site with
        | some l => tsWrites l ws s
        | none => s)
    | .portStream p =>
      if p.got = p.need && (p.fed.getLast?.getD 0) + streamTail p.fig ≤ s.cycle then some (fun s => match tileOfSite s site with
        | some l => tsWrites l p.writes s
        | none => s)
      else none
    | _ => none) s

def execStreamComplete (site : SiteId) (id : Nat) (s : State) : Out := commit s (streamComplete site.val id s)

/-! ### VECTOR -/

/-- A VECTOR figure's arguments (R120): 0 vectors means 65,536. -/
def vecArgs (e : Env) : VecArgs :=
  match e.fig with
  | .vector op r fin i o _ mi mo =>
    let fr := frame e.t e.fig
    { op := op, round := r, finite := fin, inf := vecFmt i, outf := vecFmt o, mxin := mi, mxout := mo, a := nth fr 0,
      b := nth fr 1, c := nth fr 2, d := nth fr 3, n := if nth fr 4 = 0 then 65536 else nth fr 4, sc := nth fr 5 }
  | _ => { op := 0, round := 0, finite := false, inf := .f32, outf := .f32, mxin := false, mxout := false, a := 0, b := 0,
           c := 0, d := 0, n := 0, sc := 0 }

/-- The step number of the random streams (R343). -/
def stepNumber (s : State) (e : Env) : Nat :=
  if e.x.pitch.flags.testBit 0 then getR s (Reg.STEP e.c) % 2 ^ 35 else e.t.steps % 2 ^ 35

/-- DEVICE of the pitch's vote records, 0 without FLAGS[0] (R342). -/
def deviceOf (p : Pitch) : Nat := if p.flags.testBit 0 then ((p.votes.head?).map (·.device)).getD 0 else 0

/-- The rounding of a lane (R77, R78). -/
def laneRnd (s : State) (e : Env) (round v lane : Nat) : Rnd :=
  match round with
  | 0 => .rne
  | 1 => .zero
  | _ => .stoch (stochValue e.x.pitch.seed e.t.opIndex (stepNumber s e) e.l (deviceOf e.x.pitch) v lane)

/-- The plan of a VECTOR figure whose operation is `op` (R82, R83, R120, R129). -/
def planVector (op : Nat → Bool) (e : Env) (s : State) : Option (List Nat × Plan) :=
  match e.fig with
  | .vector o _ _ _ _ _ _ _ =>
    if op o then
      let p := vecArgs e
      some (if 65536 < p.n then [8] else [], {
        unit := (siteGet s e.site).vecUntil ≤ s.cycle, reads := vecReads p, writes := vecDests p,
        act := fun s =>
          let r := runVector s e.l p (laneRnd s e p.round)
          let s := satR (satR s (Reg.VEC_SAT e.site) r.sat) (Reg.VEC_NONFINITE e.site) r.bad
          let s := if r.bad = 0 then s else setNonfinite e.c e.site s
          let s := if p.round = 2 then tcMod e.c e.site (fun t => { t with opIndex := t.opIndex + 1 }) s else s
          let s := siteMod e.site (fun st => { st with vecUntil := s.cycle + vecBusy p }) s
          fly e (.vector r.writes) (vecDue p) (vecReads p) (vecDests p) none s })
    else none
  | _ => none

/-- Issue the VECTOR figure that stands next when its OP is this one. -/
def issueVector (op : Nat) (site : SiteId) (s : State) : Out := commit s (issueIf site.val (planVector (· == op)) s)

def execConvert (site : SiteId) (s : State) : Out := issueVector 0x00 site s
def execAdd (site : SiteId) (s : State) : Out := issueVector 0x01 site s
def execSubtract (site : SiteId) (s : State) : Out := issueVector 0x02 site s
def execMultiply (site : SiteId) (s : State) : Out := issueVector 0x03 site s
def execFusedMultiplyAdd (site : SiteId) (s : State) : Out := issueVector 0x04 site s
def execMinimum (site : SiteId) (s : State) : Out := issueVector 0x05 site s
def execMaximum (site : SiteId) (s : State) : Out := issueVector 0x06 site s
def execEqual (site : SiteId) (s : State) : Out := issueVector 0x08 site s
def execNotEqual (site : SiteId) (s : State) : Out := issueVector 0x09 site s
def execLess (site : SiteId) (s : State) : Out := issueVector 0x0A site s
def execLessOrEqual (site : SiteId) (s : State) : Out := issueVector 0x0B site s
def execGreater (site : SiteId) (s : State) : Out := issueVector 0x0C site s
def execGreaterOrEqual (site : SiteId) (s : State) : Out := issueVector 0x0D site s
def execLaneSum (site : SiteId) (s : State) : Out := issueVector 0x10 site s
def execLaneMaximum (site : SiteId) (s : State) : Out := issueVector 0x11 site s
def execExp2 (site : SiteId) (s : State) : Out := issueVector 0x20 site s
def execLog2 (site : SiteId) (s : State) : Out := issueVector 0x21 site s
def execReciprocal (site : SiteId) (s : State) : Out := issueVector 0x22 site s
def execReciprocalSquareRoot (site : SiteId) (s : State) : Out := issueVector 0x23 site s
def execTanh (site : SiteId) (s : State) : Out := issueVector 0x24 site s
def execSigmoid (site : SiteId) (s : State) : Out := issueVector 0x25 site s
def execGelu (site : SiteId) (s : State) : Out := issueVector 0x26 site s
def execSilu (site : SiteId) (s : State) : Out := issueVector 0x27 site s
def execPitchTable (site : SiteId) (s : State) : Out := issueVector 0x28 site s
def execGradientQuantiser (site : SiteId) (s : State) : Out := issueVector 0x30 site s

/-- VECTOR_COMPLETE: the last result is written (R129). -/
def vectorComplete (site id : Nat) (s : State) : State :=
  completeIf site id (fun f => match f.work with
    | .vector ws => some (fun s => match tileOfSite s site with
        | some l => tsWrites l ws s
        | none => s)
    | _ => none) s

def execVectorComplete (site : SiteId) (id : Nat) (s : State) : Out := commit s (vectorComplete site.val id s)

/-! ### SEND, RECEIVE, and the LOCAL port -/

/-- The flits of a byte string. -/
def flitsOf (bs : Bytes) : List Bytes := (List.range (bs.length / 32)).map (fun k => (bs.drop (32 * k)).take 32)

/-- The cycle in which the last flit of a SEND leaves its tile at the earliest (R98, R129): its route owns `k` of 16 slots, and its flits
follow those of every earlier SEND on the route that is still in flight. -/
def sendDue (s : State) (e : Env) (rt k n : Nat) : Nat :=
  (siteGet s e.site).flights.foldl (fun t f => match f.work with
    | .send q _ => if f.ctx = e.c ∧ q = rt then max t (f.due + 16 * (n / k) + n % k) else t
    | _ => t) (s.cycle + 16 * ((n - 1) / k))

def planSend (e : Env) (_ : State) : Option (List Nat × Plan) :=
  match e.fig with
  | .send _ rt =>
    let fr := frame e.t e.fig
    let n := nth fr 1
    match routeOf e.x.pitch rt with
    | none => some ([2], { reads := [(nth fr 0, n)] })
    | some r =>
      some ((if endsAt r.src e.l then [] else [2]) ++ (if n == 0 || r.flits < n then [3] else []), {
        reads := [(nth fr 0, n)],
        act := fun s =>
          let fl := flitsOf (tsRead s e.l (nth fr 0) n)
          let s := if r.dst.testBit 15 then s
            else { s with mesh := s.mesh ++ fl.map (fun p => { ctx := e.c, route := rt, payload := p }) }
          fly e (.send rt fl) (sendDue s e rt (popcount r.slotMask) n - s.cycle) [(nth fr 0, n)] [] none s })
  | _ => none

/-- SEND (R98, R121). -/
def execSend (site : SiteId) (s : State) : Out := commit s (issueIf site.val planSend s)

/-- An open figure takes one flit of its route (R127): a RECEIVE writes it to the tile store, a stream feeds it to its arrays. -/
def takeFlit (l site : Nat) (f : Flight) (payload : Bytes) (s : State) : State :=
  match f.work with
  | .receive r d need got => setWork site f.id (.receive r d need (got + 1)) (tsWrite s l (d + got) payload)
  | .portStream p =>
    let (p, s) := feedBeat l f.ctx site payload s.cycle p s
    setWork site f.id (.portStream p) s
  | _ => s

/-- A figure in flight is open for a route and still lacks flits (R127). -/
def openFor (c r : Nat) (f : Flight) : Bool :=
  f.ctx == c && (match f.work with
    | .receive q _ need got => q == r && got < need
    | .portStream p => p.route == r && p.got < p.need
    | _ => false)

def planReceive (e : Env) (_ : State) : Option (List Nat × Plan) :=
  match e.fig with
  | .receive _ pf tok rt =>
    let fr := frame e.t e.fig
    let n := nth fr 1
    let post := if pf then some tok else none
    match routeOf e.x.pitch rt with
    | none => some ([2], { writes := [(nth fr 0, n)] })
    | some r =>
      some ((if endsAt r.dst e.l then [] else [2]) ++ (if n == 0 || r.flits < n then [3] else []), {
        writes := [(nth fr 0, n)],
        act := fun s =>
          let got := (bufferedFlits (siteGet s e.site) e.c rt).take n
          let s := claimFlits e.site e.c rt got.length s
          let s := tsWrites e.l ((List.zip (List.range got.length) got).map (fun p => (nth fr 0 + p.1, p.2))) s
          fly e (.receive rt (nth fr 0) n got.length) (got.length - 1) [] [(nth fr 0, n)] post s })
  | _ => none

/-- RECEIVE (R121, R127). -/
def execReceive (site : SiteId) (s : State) : Out := commit s (issueIf site.val planReceive s)

/-- RECEIVE_COMPLETE: the last flit has landed (R128, R129). -/
def receiveComplete (site id : Nat) (s : State) : State :=
  completeIf site id (fun f => match f.work with
    | .receive _ _ need got => if got = need then some (fun s => s) else none
    | _ => none) s

def execReceiveComplete (site : SiteId) (id : Nat) (s : State) : Out := commit s (receiveComplete site.val id s)

/-- The logical tile is the destination of a route of a context (R97). -/
def routeEndsAt (s : State) (c route l : Nat) : Bool :=
  match (ctxGet s c).bind (fun x => routeOf x.pitch route) with
  | some r => endsAt r.dst l
  | none => false

/-- LOCAL_ARRIVAL: the oldest flit of a context's route on the mesh reaches the LOCAL port of its destination tile. It
goes to the open figure of its route, or into the buffer; with the buffer full the assertion HOLD_OVERRUN follows
(R127). -/
def localArrival (site c route : Nat) (payload : Bytes) (s : State) : State :=
  match s.mesh.find? (fun m => m.ctx == c && m.route == route), tileOfSite s site with
  | some m, some l =>
    if m.payload = payload && routeEndsAt s c route l && healthy s then
      let s := { s with mesh := s.mesh.erase m }
      match (siteGet s site).flights.find? (openFor c route) with
      | some f => takeFlit l site f payload s
      | none =>
        if bufferLoad s site < 64 then
          siteMod site (fun st => { st with buffer := st.buffer ++ [(c, route, payload)] }) s
        else callerAssert site 0x06 s
    else s
  | _, _ => s

def execLocalArrival (site : SiteId) (c : CtxId) (route : Nat) (payload : Bytes) (s : State) : Out :=
  commit s (localArrival site.val c.val route payload s)

/-! ### WAIT and POST -/

def planWait (e : Env) (_ : State) : Option (List Nat × Plan) :=
  match e.fig with
  | .wait tok n => some ([], {
      own := n ≤ tokGet e.t tok, ownHold := 4, act := tcMod e.c e.site (fun t => tokSet t tok (tokGet t tok - n)) })
  | _ => none

/-- WAIT (R122, R128). -/
def execWait (site : SiteId) (s : State) : Out := commit s (issueIf site.val planWait s)

def planPost (e : Env) (_ : State) : Option (List Nat × Plan) :=
  match e.fig with
  | .post false tok _ => some ([], { act := postToken e.c e.site tok })
  | .post true tok rt =>
    let good := match routeOf e.x.pitch rt with | some r => endsAt r.src e.l && !r.dst.testBit 15 | none => false
    some (if good then [] else [2], { act := fly e (.remotePost rt tok) 0 [] [] none })
  | _ => none

/-- POST (R122, R128). -/
def execPostToken (site : SiteId) (s : State) : Out := commit s (issueIf site.val planPost s)

/-- REMOTE_POST_DELIVERY: the flit of a post reaches the destination tile, and the counter of the same context there
gains 1 (R128). -/
def remotePostDelivery (site id : Nat) (s : State) : State :=
  completeIf site id (fun f => match f.work with
    | .remotePost rt tok => some (fun s => match (ctxGet s f.ctx).bind (fun x => routeOf x.pitch rt) with
        | some r => postTile f.ctx (r.dst % 512) tok s
        | none => s)
    | _ => none) s

def execRemotePostDelivery (site : SiteId) (id : Nat) (s : State) : Out := commit s (remotePostDelivery site.val id s)

/-! ### FETCH and STORE -/

/-- Tile-store words of n packs with their scale blocks (R162). -/
def packWords (fmt n : Nat) : Nat := n * (packBytes fmt / 32) + (if fmtScaled fmt then n else 0)

/-- 110 ns in tile cycles (R162). -/
def ns110 (s : State) : Nat := ceilDiv (275 * tileRate s) 100

/-- The 64-byte requests of a FETCH or STORE that are still outstanding: one leaves in every two cycles, the last when the figure
completes. -/
def tapLeft (s : State) (f : Flight) : Nat :=
  let n := (f.reads ++ f.writes).foldl (fun m r => m + ceilDiv r.2 2) 0
  match f.work with
  | .fetch _ _ => min n (ceilDiv (f.due - s.cycle) 2)
  | .store _ _ => min n (ceilDiv (f.due - s.cycle) 2)
  | _ => 0

/-- The TAP port takes a further figure while fewer than 256 requests of the tile are outstanding (R124, R152). -/
def tapRoom (s : State) (site : Nat) : Bool := ((siteGet s site).flights.map (tapLeft s)).sum < 256

/-- The plan of a FETCH or STORE (R121, R124, R162). -/
def planMove (fetch : Bool) (e : Env) (obj : Nat) (post : Option Nat) (s : State) : Option (List Nat × Plan) :=
  let fr := frame e.t e.fig
  let first := nth fr 1 + nth fr 2 * 2 ^ 20
  let n := nth fr 3
  match e.x.pitch.objs[obj]? with
  | none => some ([4], {})
  | some o =>
    let words := packWords o.format n
    let range := [(nth fr 0, words)]
    let bad4 := o.kind != 1 || packsIn o.format o.oflags o.size < first + n
    some ((if bad4 then [4] else []) ++ (if n == 0 || 4096 < n then [8] else []), {
      unit := tapRoom s e.site, reads := if fetch then [] else range, writes := if fetch then range else [],
      act := fun s =>
        let m : Move := { handle := nth e.x.handles obj, first := first, packs := n, word := nth fr 0,
                          left := if flagged o.oflags then upFrom first n else [], sum := 0, excess := 0,
                          variant := false, extra := 0, waits := none }
        let codec := if flagged o.oflags then 24 else 0
        if fetch then fly e (.fetch obj m) (80 + ns110 s + words - 1 + codec) [] range post s
        else fly e (.store obj m) (words + 80 + codec) range [] post s })

def planFetch (e : Env) (s : State) : Option (List Nat × Plan) :=
  match e.fig with
  | .fetch _ pf tok obj => planMove true e obj (if pf then some tok else none) s
  | _ => none

def planStore (e : Env) (s : State) : Option (List Nat × Plan) :=
  match e.fig with
  | .store _ pf tok obj => planMove false e obj (if pf then some tok else none) s
  | _ => none

/-- FETCH (R121, R162). -/
def execFetch (site : SiteId) (s : State) : Out := commit s (issueIf site.val planFetch s)

/-- STORE (R121, R162). -/
def execStore (site : SiteId) (s : State) : Out := commit s (issueIf site.val planStore s)

end Sys2Proof.Machine
end

