-- ==== Sys2Proof/Machine/Steps.lean ====
section
/-! DEFINITION. Sleep, votes, steps and switching on a tile (R130-R137, R143). -/

namespace Sys2Proof.Machine

/-! ### SLEEP -/

def planSleep (e : Env) (s : State) : Option (List Nat × Plan) :=
  match e.fig with
  | .sleep fromIssue n =>
    let wake := (if fromIssue then s.cycle else e.t.stepStart) + n
    some ([], { act := fun s =>
      if wake < s.cycle then satR s (Reg.LATE_WAKES e.site) 1
      else if wake = s.cycle then s
      else holdOn 5 e.site (tcMod e.c e.site (fun t => { t with sleep := some wake }) s) })
  | _ => none

/-- SLEEP (R122, R130). -/
def execSleep (site : SiteId) (s : State) : Out := commit s (issueIf site.val planSleep s)

/-- The wake cycle of a sleep under way on a site. -/
def sleepOf (s : State) (site : Nat) : Option (Nat × Nat) := do
  let c ← (siteGet s site).active
  let t ← tcGet s c site
  let w ← t.sleep
  some (c, w)

/-- Array or vector work of any context is in flight on a tile (R130). -/
def computing (st : Site) : Bool :=
  st.flights.any (fun f => match f.work with
    | .load _ _ => true | .table _ _ _ => true | .stream _ _ _ _ => true | .portStream _ => true | .vector _ => true
    | _ => false)

/-- TILE_DOZE: with no array or vector work in flight, a sleeping tile enters DOZE until its wake time, but not in the 16 cycles after a
token has woken it (R26, R130). -/
def tileDoze (site : Nat) (s : State) : State :=
  match sleepOf s site with
  | some (_, w) =>
    let st := siteGet s site
    if s.cycle < w && st.upUntil ≤ s.cycle && tileState s site == 0 && !computing st then setTileState s site 1 else s
  | none => s

def execTileDoze (site : SiteId) (s : State) : Out := commit s (tileDoze site.val s)

/-- TIMED_WAKE: the wake time is reached and the SLEEP completes (R27, R130). -/
def timedWake (site : Nat) (s : State) : State :=
  match sleepOf s site with
  | some (c, w) =>
    if w ≤ s.cycle && healthy s then
      let s := tcMod c site (fun t => { t with sleep := none }) s
      syncSite site (holdOff site (if tileState s site = 1 then setTileState s site 0 else s))
    else s
  | none => s

def execTimedWake (site : SiteId) (s : State) : Out := commit s (timedWake site.val s)

/-! ### VOTE and END_STEP -/

/-- STEP_STATE when a tile issues a vote: the vote phase begins with the step's first VOTE (R236, R270). -/
def voteBegins (c v : Nat) (s : State) : State :=
  let k := Reg.STEP_STATE c
  let s := setF s k 15 0 v
  if fld s k 30 28 = 1 then setF s k 30 28 2 else s

/-- The tile waits in its vote with the flag it contributes (R131). -/
def voteAct (e : Env) (v : Nat) (post : Option Nat) (s : State) : State :=
  let nf := bitR s (Reg.CTX_FLAGS e.site (slotOf s e.c e.site)) 0
  let s := voteBegins e.c v s
  holdOn 6 e.site (tcMod e.c e.site (fun t => { t with vote := some (v, post, nf) }) s)

def planVote (e : Env) (_ : State) : Option (List Nat × Plan) :=
  match e.fig with
  | .vote pf tok v => some ([], { act := voteAct e v (if pf then some tok else none) })
  | _ => none

/-- VOTE: the tile's flag joins the chip flag, and the figure waits for the result (R122, R131). -/
def execVote (site : SiteId) (s : State) : Out := commit s (issueIf site.val planVote s)

/-- The tiles of a context on which it has started. -/
def startedSites (s : State) (c : Nat) : List Nat :=
  match ctxGet s c with
  | some x => (x.tiles.map (·.1)).filter (fun site => ctxStateAt s c site != 0)
  | none => []

/-- A context is DONE on every tile it uses (R132). -/
def doneEverywhere (s : State) (c : Nat) : Bool :=
  match ctxGet s c with
  | some x => x.tiles.all (fun e => ctxStateAt s c e.1 == 4)
  | none => false

/-- Post the end event of a context, once (R376): 0x00 DONE, 0x01 UNLOADED, 0x02 LOST. -/
def endEvent (c code : Nat) (s : State) : State :=
  match ctxGet s c with
  | some x => if x.ended then s
    else complete 2 0 (code * 0x1000000) 0 x.hdr (ctxMod c (fun x => { x with ended := true }) s)
  | none => s

/-- The tile is free for another context. -/
def freeTile (c site : Nat) (s : State) : State :=
  siteMod site (fun st => { st with active := none, lastYield := c, yieldF := (st.flights.filter (fun f => f.ctx == c)).length }) s

def planEndStep (e : Env) (s : State) : Option (List Nat × Plan) :=
  match e.fig with
  | .endStep fin next =>
    let quiet := (siteGet s e.site).flights.all (fun f => f.ctx != e.c)
    some ([], { own := quiet, ownHold := 9, act := fun s =>
      let k := slotOf s e.c e.site
      let s := setB s (Reg.CTX_FLAGS e.site k) 0 false
      let s := (List.range 4).foldl (fun s a => arrMod e.site a (fun x => { x with stepSat := 0, satRaised := false }) s) s
      let s := setR s (Reg.CTX_STEPS e.site k) (getR s (Reg.CTX_STEPS e.site k) + 1)
      let s := tcMod e.c e.site (fun t => { t with
        stepStart := s.cycle, opIndex := 0, votesDone := 0, loops := [], steps := t.steps + 1, atEnd := true,
        bodyAt := next }) s
      if fin then
        let s := freeTile e.c e.site (setCtxState e.c e.site 4 0 s)
        if doneEverywhere s e.c then endEvent e.c 0 s else s
      else setNext e.c e.site next s })
  | _ => none

/-- END_STEP (R122, R132). -/
def execEndStep (site : SiteId) (s : State) : Out := commit s (issueIf site.val planEndStep s)

/-! ### YIELD and switching -/

/-- A tile of a resident reserved set (R106, R137). -/
def reservedTile (x : Ctx) (l : Nat) : Bool := (x.pitch.tileMap.getD l 0#8).toNat.testBit 2

/-- Park a context with its condition (R134). -/
def parkCtx (e : Env) (p : Park) (s : State) : State :=
  let tok := match p with | .token t _ => t | .time _ => 0
  let s := tcMod e.c e.site (fun t => { t with park := some p }) (setCtxState e.c e.site 3 tok s)
  holdOn 7 e.site (freeTile e.c e.site s)

/-- The context's loads and streams have left their loaders and feeders (R134). -/
def feedersLeft (s : State) (site c : Nat) : Bool :=
  (siteGet s site).flights.all (fun f => f.ctx != c || (match f.work with
    | .load _ _ => false
    | .table _ _ _ => false
    | .portStream p => p.got == p.need && p.fed.all (· < s.cycle)
    | .stream as _ _ _ => as.all (fun a => (arrGet s site a).feedUntil ≤ s.cycle)
    | _ => true))

def planYield (e : Env) (s : State) : Option (List Nat × Plan) :=
  match e.fig with
  | .yieldToken t n => some ([], { own := feedersLeft s e.site e.c, ownHold := 7, act := parkCtx e (.token t n) })
  | .yieldTime n => some ([], { own := feedersLeft s e.site e.c, ownHold := 7, act := parkCtx e (.time (e.t.stepStart + n)) })
  | _ => none

/-- YIELD (R122, R134). -/
def execYieldFig (site : SiteId) (s : State) : Out := commit s (issueIf site.val planYield s)

/-- A context may take a waiting tile: it is READY, or parked with its condition met (R134). -/
def qualifies (s : State) (site c : Nat) : Bool :=
  match tcGet s c site with
  | none => false
  | some t =>
    !((ctxGet s c).map (·.freezing)).getD false && (match ctxStateAt s c site with
      | 1 => true
      | 3 => (match t.park with
          | some (.token k n) => n ≤ tokGet t k
          | some (.time w) => w ≤ s.cycle
          | none => false)
      | _ => false)

/-- The contexts on a site in the order of R134: ascending from the one that yielded, wrapping, itself last. -/
def yieldOrder (s : State) (site : Nat) : List Nat :=
  let from_ := (siteGet s site).lastYield
  ((upFrom (from_ + 1) 64).map (· % 64)).filter (fun c => (tcGet s c site).isSome)

/-- The arrays whose block must be restored for a context (R136). -/
def restores (s : State) (site c : Nat) : List (Nat × LoadRec) :=
  match tcGet s c site with
  | none => []
  | some t => t.loads.filter (fun e => match (arrGet s site e.1).latch with
      | some b => b.ctx != c
      | none => true)

/-- Repeat a recorded LOAD (R136). -/
def restoreBlock (site c l : Nat) (s : State) (e : Nat × LoadRec) : State :=
  addR (latchBlock site e.1 (loadLatch s c l e.2) s) (Reg.ARR_BUSY site e.1) 32

/-- Make a context the running one of its tile. -/
def runCtx (c site : Nat) (s : State) : State :=
  let s := tcMod c site (fun t => match t.park with
    | some (.token k n) => { tokSet t k (tokGet t k - n) with park := none }
    | _ => { t with park := none }) s
  siteMod site (fun st => { st with active := some c }) (setTileState (setCtxState c site 2 0 s) site 0)

/-- CONTEXT_RESUME: the first context that qualifies takes a waiting tile (R134-R136). The one that yielded goes on
without a switch; another takes the tile after T_switch, its blocks restored. -/
def contextResume (site : Nat) (s : State) : State :=
  match tileOfSite s site, (siteGet s site).active, (yieldOrder s site).find? (qualifies s site) with
  | some l, none, some c =>
    if !healthy s || !((ctxGet s c).map (fun x => tilePowered s x.pitch l)).getD false then s
    else if c = (siteGet s site).lastYield && ctxStateAt s c site == 3 then
      syncSite site (holdOff site (runCtx c site s))
    else
      let r := restores s site c
      let cost := 20 * tileRate s + 8 * (siteGet s site).yieldF + 32 * r.length + 64
      let s := r.foldl (restoreBlock site c l) s
      let s := satR (addR s (Reg.SWITCH_CYCLES site) cost) (Reg.SWITCHES site) 1
      let s := siteMod site (fun st => { st with busyUntil := s.cycle + cost }) (runCtx c site s)
      holdOn 8 site (holdOff site s)
  | _, _, _ => s

def execContextResume (site : SiteId) (s : State) : Out := commit s (contextResume site.val s)

/-- STALL_LONG: a single hold on a token, vote or yield has exceeded STALL_LIMIT, once for each hold (R143). -/
def stallLong (site : Nat) (s : State) : State :=
  match (siteGet s site).hold with
  | some h =>
    let lim := getR s (Reg.STALL_LIMIT site)
    if (h.kind == 4 || h.kind == 6 || h.kind == 7) && !h.raised && lim != 0 && lim < s.cycle - h.since then
      siteMod site (fun st => { st with hold := some { h with raised := true } }) (orR s (Reg.CALLER_CAUSE site) 8)
    else s
  | none => s

def execStallLong (site : SiteId) (s : State) : Out := commit s (stallLong site.val s)

/-! ### Starting and leaving a tile -/

/-- A context starts on a tile: at figure 0 with its registers and counters 0 (R116, R133). It runs at once where no
other context runs, and is READY otherwise. -/
def startOnTile (c : Nat) (s : State) (site : Nat) : State :=
  let s := setNext c site 0 (tcMod c site (fun t => { t with
    g := [], t := [], loops := [], stepStart := s.cycle, opIndex := 0, park := none, vote := none, sleep := none,
    votesDone := 0, steps := 0, bodyAt := 0, atEnd := true }) s)
  if (siteGet s site).active.isNone then syncSite site (runCtx c site (holdOff site s))
  else syncSite site (setCtxState c site 1 0 s)

/-- A context starts on every tile it uses (R133). -/
def startCtx (c : Nat) (s : State) : State :=
  match ctxGet s c with
  | some x => if x.started then s
    else (x.tiles.map (·.1)).foldl (startOnTile c) (ctxMod c (fun x => { x with started := true }) s)
  | none => s

/-- No context's number: a block that a context left behind in an array stays until the next load on it (R47). -/
def noCtx : Nat := 64

/-- A context leaves a tile: its slot takes its Reset values, its figures in flight, marks and buffered flits go, its hold ends, and a tile
of no context enters GATED, where the arrays lose their blocks with their power (R26, R47, R112, R139, R144). -/
def leaveTile (c : Nat) (s : State) (site : Nat) : State :=
  let k := slotOf s c site
  let s := [Reg.CTX_ID site k, Reg.CTX_STATE site k, Reg.CTX_STEPS site k, Reg.CTX_FLAGS site k].foldl resetR s
  let others := s.ctxs.any (fun e => e.1 != c && (tget e.2.tiles site).isSome)
  let s := if (siteGet s site).active = some c ∨ ¬ others then holdOff site s else s
  let s := siteMod site (fun st => { st with
    active := if st.active = some c then none else st.active,
    lastYield := if st.active = some c then c else st.lastYield,
    yieldF := if st.active = some c then 0 else st.yieldF,
    flights := st.flights.filter (fun f => f.ctx != c), buffer := st.buffer.filter (fun b => b.1 != c),
    arrs := st.arrs.map (fun e => (e.1, { e.2 with latch := match e.2.latch with
      | some b => if !others then none else some (if b.ctx = c then { b with ctx := noCtx } else b)
      | none => none })) }) s
  syncSite site (if others then s else setTileState s site 2)

end Sys2Proof.Machine
end

