-- ==== Sys2Proof/Machine/Moves.lean ====
section
/-! DEFINITION. FETCH and STORE at work: the packs that pass a codec unit (R187, R188, R198, R203, R204), and their
completions (R162). -/

namespace Sys2Proof.Machine

/-- The window that an object is of a serving context: set w and segment s as w * S + s (R277). -/
def windowOf (v : Serve) (o : Obj) : Option Nat :=
  if v.a.winBase ≤ o.id && o.id < v.a.winBase + v.a.sets * v.a.segments then some (o.id - v.a.winBase) else none

/-- The frames of a peg slot (R284). -/
def slotFrames (v : Serve) (k : Nat) : List PageLoc := (v.frames.drop (k * v.pages)).take v.pages

/-- An object as a context's FETCH figures reach it: a bound window shows the pages of its slot (R279, R283). -/
def boundObj (s : State) (c : Nat) (o : Obj) : Obj :=
  match tget s.serves c with
  | none => o
  | some v => match (if o.owner = c then windowOf v o else none).bind (tget v.binds) with
    | none => o
    | some k => { o with pages := slotFrames v k }

/-- The object that a move works on, with the function of its context. -/
def moveObj (s : State) (f : Flight) (m : Move) : Option Obj :=
  (ctxGet s f.ctx).bind (fun x => (objGet s x.fn m.handle).map (boundObj s f.ctx))

/-- The measured budget per pack of an object record of a context (R103); none is a raw budget. -/
def budgetOf (s : State) (c rec' : Nat) : Option Nat :=
  (ctxGet s c).bind (fun x => (x.pitch.objs[rec']?).bind (fun o =>
    (x.pitch.budgets.find? (fun b => b.id == o.id && b.mode == 1)).map (·.budget)))

/-- Tile-store words of one raw pack. -/
def rawWords (o : Obj) : Nat := packBytes o.format / 32

/-- Where pack p of a move lies in the tile store: its word and its scale word (R162). -/
def movePlace (o : Obj) (m : Move) (p : Nat) : Nat × Nat :=
  (m.word + (p - m.first) * rawWords o, m.word + m.packs * rawWords o + (p - m.first))

/-- Change a flight's earliest completion and work. -/
def setFlight (site id due : Nat) (w : Work) (s : State) : State :=
  siteMod site (fun st => { st with flights := st.flights.map (fun f => if f.id = id then { f with due := due, work := w } else f) }) s

/-- The base and factor bytes that a pack's prediction read: the U slice only at the first pack of the operation and at each new
pack row (R201, R204). -/
def predictionBytes (o : Obj) (m : Move) (p extra : Nat) : Nat :=
  match curBind o with
  | some b => extra - (if p ≠ m.first ∧ p % b.packCols ≠ 0 then 64 * b.rank else 0)
  | none => extra

/-- The extra cycles of a move once its last pack has passed (R203, R204). -/
def moveExtra (fetch : Bool) (m : Move) : Nat :=
  (if m.variant then 8 else 0) + (if fetch then 0 else ceilDiv m.extra 32) + ceilDiv m.excess 32

/-- A pack of a move has passed the codec: the running excess of a measured budget, late packs, and the completion time
once it was the last (R203). -/
def moveOn (fetch : Bool) (site u rec' : Nat) (o : Obj) (f : Flight) (m : Move) (p : Nat) (r : PackOut) (s : State) : State :=
  let sum := m.sum + r.charge
  let late := match budgetOf s f.ctx rec' with
    | some b => sum - (p - m.first + 1) * b
    | none => 0
  let s := if late = 0 then s else satR s (Reg.LATE_PACKS u) 1
  let m := { m with left := m.left.tail, sum := sum, excess := max m.excess late, variant := if fetch then m.variant || r.kind == 3 else (curBind o).isSome,
                    extra := m.extra + predictionBytes o m p r.extra, waits := none }
  let last := m.left.isEmpty
  let s := if last && m.excess != 0 then orR (addR s (Reg.LATE_BYTES u) m.excess) (Reg.CODEC_CAUSE u) 1 else s
  setFlight site f.id (if last then f.due + moveExtra fetch m else f.due)
    (if fetch then .fetch rec' m else .store rec' m) s

/-- CODEC_STATUS of a unit: EXPANDING and PACKING while a move's next pack is to pass its expander or packer, RUN while a coding
run's target has pages that it serves (R213). -/
def codecStatus (s : State) (u : Nat) : Nat :=
  let moves := fun (fetch : Bool) => s.sites.any (fun e => e.2.flights.any (fun f =>
    match f.work with
    | .fetch _ m => fetch && nextUnit f m
    | .store _ m => !fetch && nextUnit f m
    | _ => false))
  let run := s.runs.any (fun r => match objGet s r.fn r.handle with
    | some o => (objUnits s o).contains u
    | none => false)
  setBits (setBits (setBits (getR s (Reg.CODEC_STATUS u)) 30 30 (b2n (moves true))) 29 29 (b2n (moves false))) 28 28 (b2n run)
where
  nextUnit (f : Flight) (m : Move) : Bool :=
    match moveObj s f m, m.left with
    | some o, p :: _ => flagged o.oflags && unitOf s o p == u
    | _, _ => false

/-- Contexts' packs move: no chip fault keeps them, and the unit is in service. -/
def unitWorks (s : State) (u : Nat) : Bool := healthy s && awake s && bitR s (Reg.CODEC_STATUS u) 31

/-- PACK_READ: the unit takes the next pack of a FETCH, and the pack and its scale block land in the tile store (R187,
R188). -/
def packRead (u site id : Nat) (s : State) : State :=
  match flightOf s site id, tileOfSite s site with
  | some f, some l =>
    match f.work with
    | .fetch rec' m =>
      match moveObj s f m, m.left with
      | some o, p :: _ =>
        if unitWorks s u && unitOf s o p == u && !packHeld s o p then
          let (s, r) := expandPack true o p s
          if r.err ≠ 0 then s
          else
            let (w, sw) := movePlace o m p
            let s := tsWrite s l w r.raw
            let s := if scaleLen o = 0 then s else tsWrite s l sw r.scale
            moveOn true site u rec' o f m p r s
        else s
      | _, _ => s
    | _ => s
  | _, _ => s

def execPackRead (u : StackId) (site : SiteId) (id : Nat) (s : State) : Out := commit s (packRead u.val site.val id s)

/-- PACK_WRITE: the unit takes the next pack of a STORE from the tile store and writes its stored form (R188, R192). A
write that needs a salt while the pool is empty waits (R198). -/
def packWrite (u site id : Nat) (s : State) : State :=
  match flightOf s site id, tileOfSite s site with
  | some f, some l =>
    match f.work with
    | .store rec' m =>
      match moveObj s f m, m.left with
      | some o, p :: _ =>
        if unitWorks s u && unitOf s o p == u && (m.waits.isSome || !packHeld s o p) then
          let (w, sw) := movePlace o m p
          let raw := tsRead s l w (rawWords o)
          let sc := if scaleLen o = 0 then [] else tsRead s l sw 1
          let (t, r) := writePack true o p raw sc s
          if r.err = 8 then
            setFlight site f.id f.due (.store rec' { m with waits := some (m.waits.getD s.timeBase) }) s
          else if r.err ≠ 0 then t
          else moveOn false site u rec' o f m p r t
        else s
      | _, _ => s
    | _ => s
  | _, _ => s

def execPackWrite (u : StackId) (site : SiteId) (id : Nat) (s : State) : Out := commit s (packWrite u.val site.val id s)

/-- ENTROPY_WAIT: a write has waited 10 ms with the pool still empty; it is abandoned with the pack unchanged (R198,
R199). -/
def entropyWait (u site id : Nat) (s : State) : State :=
  match flightOf s site id with
  | some f =>
    match f.work with
    | .store _ m =>
      match moveObj s f m, m.left, m.waits with
      | some o, p :: _, some t =>
        if healthy s && unitOf s o p == u && saltsOf s u == [] && t + 250000 ≤ s.timeBase then
          landFlight site id (packFail true u 8 s)
        else s
      | _, _, _ => s
    | _ => s
  | none => s

def execEntropyWait (u : StackId) (site : SiteId) (id : Nat) (s : State) : Out := commit s (entropyWait u.val site.val id s)

/-- Read an unflagged object's packs and scale blocks into the tile store (R162). -/
def fetchPlain (o : Obj) (l : Nat) (m : Move) (s : State) : State :=
  let (s, a) := objRead true o (slotOff o m.first) (m.packs * packBytes o.format) s
  match a with
  | none => s
  | some bs =>
    let s := tsWrite s l m.word bs
    if scaleLen o = 0 then s
    else
      let (s, b) := objRead true o (scaleOff o m.first) (m.packs * 32) s
      match b with
      | none => s
      | some sc => tsWrite s l (m.word + m.packs * rawWords o) sc

/-- Write an unflagged object's packs and scale blocks from the tile store (R162). -/
def storePlain (o : Obj) (l : Nat) (m : Move) (s : State) : State :=
  if frozenObj s o.fn o.handle then packFail true (unitOf s o m.first) 7 s
  else
    let s := objWrite o (slotOff o m.first) (tsRead s l m.word (m.packs * rawWords o)) s
    if scaleLen o = 0 then s
    else objWrite o (scaleOff o m.first) (tsRead s l (m.word + m.packs * rawWords o) m.packs) s

/-- The completion of a move: an unflagged object's bytes move now, a flagged one's packs have all passed the codec. -/
def finishMove (fetch : Bool) (site : Nat) (f : Flight) (m : Move) (s : State) : Option (State → State) :=
  match moveObj s f m, tileOfSite s site with
  | some o, some l =>
    if flagged o.oflags then (if m.left.isEmpty then some (fun s => s) else none)
    else some (fun s => if fetch then fetchPlain o l m s else storePlain o l m s)
  | _, _ => none

/-- FETCH_COMPLETE (R162). -/
def execFetchComplete (site : SiteId) (id : Nat) (s : State) : Out :=
  commit s (completeIf site.val id (fun f => match f.work with
    | .fetch _ m => finishMove true site.val f m s
    | _ => none) s)

/-- STORE_COMPLETE (R162). -/
def execStoreComplete (site : SiteId) (id : Nat) (s : State) : Out :=
  commit s (completeIf site.val id (fun f => match f.work with
    | .store _ m => finishMove false site.val f m s
    | _ => none) s)

end Sys2Proof.Machine
end

