-- ==== Sys2Proof/Machine/Fabric.lean ====
section
/-! DEFINITION. The fabric ports (R384-R408): flits, retry and credits, training, quiet lanes, messages of each class that
are sent, delivered, forwarded or dropped. -/

namespace Sys2Proof.Machine

/-! ### CRC-64 and flits (R387, R388) -/

/-- One bit of the reflected CRC-64. -/
def crc64Step (c : Nat) : Nat := if c % 2 = 1 then (c / 2) ^^^ 0xC96C5795D7870F42 else c / 2

/-- The CRC-64 of R387. -/
def crc64 (bs : Bytes) : Nat :=
  bs.foldl (fun c b => (List.range 8).foldl (fun c _ => crc64Step c) (c ^^^ b.toNat)) 0xFFFFFFFFFFFFFFFF ^^^ 0xFFFFFFFFFFFFFFFF

/-- A flit header (R388). -/
structure FlitHdr where
  fseq : Nat
  ack : Nat
  type : Nat
  cls : Nat
  first : Bool
  last : Bool
  creditClass : Nat
  credits : Nat
  bytes : Nat
  deriving DecidableEq, Repr

/-- The fields of a header word. -/
def readHdr (w : Nat) : FlitHdr :=
  { fseq := bitsOf w 63 52, ack := bitsOf w 51 40, type := bitsOf w 39 37, cls := bitsOf w 36 35, first := w.testBit 34,
    last := w.testBit 33, creditClass := bitsOf w 32 31, credits := bitsOf w 30 21, bytes := bitsOf w 20 12 }

/-- The word of a header. -/
def hdrWord (h : FlitHdr) : Nat :=
  h.fseq * 2 ^ 52 + h.ack * 2 ^ 40 + h.type * 2 ^ 37 + h.cls * 2 ^ 35 + (if h.first then 2 ^ 34 else 0)
    + (if h.last then 2 ^ 33 else 0) + h.creditClass * 2 ^ 31 + h.credits * 2 ^ 21 + h.bytes * 2 ^ 12

/-- The 320 bytes of a flit. -/
def flitBytes (h : FlitHdr) (body : Bytes) : Bytes :=
  let b := natLe 8 (hdrWord h) ++ slice body 0 304
  b ++ natLe 8 (crc64 b)

/-! ### Ports -/

/-- A port that has never trained. -/
def FabPort.fresh : FabPort where
  txq := []
  replay := []
  nextSeq := 0
  rxNext := 0
  ahead := []
  asm := []
  inbox := []
  owe := []
  credits := []
  turn := 0
  replayTimes := []
  lastData := 0
  quietBoth := false
  sentQuiet := false
  sentMask := 0

/-- A port's inner state. -/
def portGet (s : State) (p : Nat) : FabPort := tgetD s.fab p FabPort.fresh
/-- Set a port's inner state. -/
def portPut (s : State) (p : Nat) (x : FabPort) : State := { s with fab := tput s.fab p x }
/-- Change a port's inner state. -/
def portMod (p : Nat) (f : FabPort → FabPort) (s : State) : State := portPut s p (f (portGet s p))

/-- STATE of a port (R406). -/
def portState (s : State) (p : Nat) : Nat := fld s (Reg.PORT_STATUS p) 31 29

/-- A port carries messages: it is up or quiet. -/
def portUp (s : State) (p : Nat) : Bool := p < 8 && (portState s p == 2 || portState s p == 4)

/-- Set STATE and DOWN_REASON, with FAB_STATUS.UP. -/
def setPort (p st reason : Nat) (s : State) : State :=
  let s := setF (setF s (Reg.PORT_STATUS p) 31 29 st) (Reg.PORT_STATUS p) 25 23 reason
  setB s Reg.FAB_STATUS p (st == 2 || st == 4)

/-- This part's fabric identifier (R398). -/
def fabricId (s : State) : Nat := fld s Reg.FABRIC_ID 15 0

/-- Take credits to return, of the lowest class that has some: class and count. -/
def takeOwed (x : FabPort) : Nat × Nat × FabPort :=
  match x.owe.find? (fun e => e.2 != 0) with
  | none => (0, 0, x)
  | some (c, n) => (c, min n 1023, { x with owe := tput x.owe c (n - min n 1023) })

/-- Put a flit on the wire: ACK names the last flit received in order, and credits ride along (R388). -/
def putFlit (p type : Nat) (t : TxFlit) (s : State) : State :=
  let (cc, cn, x) := takeOwed (portGet s p)
  let h : FlitHdr := { fseq := t.fseq, ack := (x.rxNext + 4095) % 4096, type := type, cls := t.cls, first := t.first,
                       last := t.last, creditClass := cc, credits := cn, bytes := t.body.length }
  emit (portPut s p x) (.flit p t.fseq (flitBytes h t.body))

/-- A flit that carries no message: idle 0, NACK 2, control 3. -/
def emptyFlit : TxFlit := { cls := 0, first := false, last := false, body := [], fseq := 0, sentAt := 0, replays := 0 }

/-- Send an idle flit, with ACK and credits. -/
def sendIdle (p : Nat) (s : State) : State := putFlit p 0 emptyFlit s

/-- The class that goes next (R393): VOTE, ACK, then JOB and DELTA 3 to 1, among those with a flit and a credit. -/
def nextClass (x : FabPort) : Option Nat :=
  let ready := fun c => x.txq.any (fun t => t.cls == c) && tgetD x.credits c 0 != 0
  if ready 1 then some 1
  else if ready 3 then some 3
  else if ready 0 && ready 2 then some (if x.turn < 3 then 0 else 2)
  else if ready 0 then some 0
  else if ready 2 then some 2
  else none

/-- Send waiting flits while a class holds credit and the replay buffer has room (R390, R392). -/
def pump : Nat → Nat → State → State
  | 0, _, s => s
  | k + 1, p, s =>
    let x := portGet s p
    if 2048 ≤ x.replay.length || !portUp s p then s
    else match nextClass x with
      | none => s
      | some c => match x.txq.find? (fun t => t.cls == c) with
        | none => s
        | some t =>
          let t' := { t with fseq := x.nextSeq, sentAt := s.timeBase, replays := 0 }
          let x' := { x with
            txq := x.txq.erase t, replay := x.replay ++ [t'], nextSeq := (x.nextSeq + 1) % 4096,
            credits := tput x.credits c (tgetD x.credits c 0 - 1), lastData := s.timeBase,
            turn := if c = 0 then min 3 (x.turn + 1) else if c = 2 then 0 else x.turn }
          let s := portPut s p x'
          let s := if portState s p = 4 then setPort p 2 0 s else s
          let s := addR (addR s (Reg.FLITS_TX p) 1) (Reg.PAYLOAD_TX p) t.body.length
          pump k p (putFlit p 1 t' s)

/-- Send whatever may go. -/
def pumpPort (p : Nat) (s : State) : State := pump (portGet s p).txq.length p s

/-- The flits of a message (R389). -/
def messageFlits (cls : Nat) (bs : Bytes) : List TxFlit :=
  let n := ceilDiv bs.length 304
  (List.range n).map (fun k => { cls := cls, first := k == 0, last := k + 1 == n, body := (bs.drop (304 * k)).take 304,
                                 fseq := 0, sentAt := 0, replays := 0 })

/-- The 16-byte message header and the body (R389). -/
def messageBytes (s : State) (cls dest hops : Nat) (body : Bytes) : Bytes :=
  natLe 2 dest ++ natLe 2 (fabricId s) ++ natLe 1 hops ++ natLe 1 cls ++ natLe 2 0 ++ natLe 4 body.length ++ natLe 4 0 ++ body

/-- A message is discarded under R391 or R398. -/
def fwdDrop (n : Nat) (s : State) : State := if n = 0 then s else satR (orR s Reg.FAB_CAUSE 1) Reg.FWD_DROPS n

/-- Hand a message to a port: it is queued while the port is up. While it trains, a VOTE message waits (R264); every other
message is discarded (R391). -/
def sendMsg (p cls dest hops : Nat) (body : Bytes) (s : State) : State :=
  let up := portUp s p
  if up || (p < 8 && cls == 1 && (portState s p == 1 || portState s p == 3 || portState s p == 5)) then
    let s := emit s (.fabric p cls dest hops body)
    let s := portMod p (fun x => { x with txq := x.txq ++ messageFlits cls (messageBytes s cls dest hops body) }) s
    if up then pumpPort p s else s
  else fwdDrop 1 s

/-- The identifier of the peer on a port, as training reported it (R398). -/
def peerId (s : State) (p : Nat) : Nat := fld s (Reg.PEER p) 15 0

/-! ### Replay (R390, R391) -/

/-- Flits of the replay buffer up to the one that an ACK names are freed. An ACK that names none frees none. -/
def freeAcked (n : Nat) (l : List TxFlit) : List TxFlit :=
  if l.any (fun t => t.fseq == n) then (l.dropWhile (fun t => t.fseq != n)).drop 1 else l

/-- Replay the flits after an acknowledged one: all of them at version 1.0, the next one alone from 1.1. -/
def replayAfter (p : Nat) (s : State) : State :=
  let x := portGet s p
  let n := if fld s (Reg.PORT_STATUS p) 28 27 = 0 then x.replay.length else 1
  let again := (x.replay.take n).map (fun t => { t with sentAt := s.timeBase, replays := t.replays + 1 })
  let recent := x.replayTimes.filter (fun t => s.timeBase < t + 25000)
  let s := portPut s p { x with replay := again ++ x.replay.drop n,
                                replayTimes := recent ++ List.replicate again.length s.timeBase }
  satR (again.foldl (fun s t => putFlit p 1 t s) s) (Reg.RETRIES p) again.length

/-- A NACK that names the last good flit (R390). -/
def nackIn (p lastGood : Nat) (s : State) : State :=
  if portUp s p then
    pumpPort p (replayAfter p (portMod p (fun x => { x with replay := freeAcked (lastGood % 4096) x.replay }) s))
  else s

/-- NACK. -/
def execNack (p : PortId) (lastGood : Nat) (s : State) : Out := commit s (nackIn p.val lastGood s)

/-- REPLAY_TIMEOUT: the oldest data flit has not been acknowledged within 5 µs; it is replayed as if a NACK had named it
(R390). -/
def replayTimeout (p : Nat) (s : State) : State :=
  match (portGet s p).replay with
  | t :: _ => if portUp s p && t.sentAt + 125 ≤ s.timeBase then replayAfter p s else s
  | [] => s

def execReplayTimeout (p : PortId) (s : State) : Out := commit s (replayTimeout p.val s)

/-- A port gives up every message not yet fully delivered, in both directions; VOTE messages of its own wait where
`keep` holds (R264, R391). -/
def portDrop (keep : Bool) (p : Nat) (s : State) : State :=
  let x := portGet s p
  let mine := x.replay ++ x.txq
  let stay := if keep then mine.filter (fun t => t.cls == 1) else []
  let lost := ((mine.filter (fun t => t.last && !(keep && t.cls == 1))).length) + (x.asm.filter (fun e => !e.2.isEmpty)).length
  let s := portPut s p { x with txq := stay, replay := [], ahead := [], asm := [], owe := [], credits := [], replayTimes := [] }
  fwdDrop lost s

/-- What the part's next training control flit carries: its version mask and its QUIET_OK setting (R394). -/
def trainingStarts (p : Nat) (s : State) : State :=
  portMod p (fun x => { x with sentQuiet := bitR s (Reg.PORT_CONTROL p) 30, sentMask := fld s Reg.FAB_VERSIONS 7 0 }) s

/-- A port goes down and retrains at once (R391). -/
def retrain (p : Nat) (s : State) : State :=
  let s := orR (portDrop true p s) (Reg.PORT_CAUSE p) 2
  trainingStarts p (satR (setPort p 3 0 s) (Reg.RETRAINS p) 1)

/-- A port's retry is exhausted: a flit was replayed 16 times in succession, or 1,000 replays came within 1 ms (R391). -/
def exhausted (s : State) (p : Nat) : Bool :=
  let x := portGet s p
  x.replay.any (fun t => 16 ≤ t.replays) || 1000 ≤ (x.replayTimes.filter (fun t => s.timeBase < t + 25000)).length

/-- RETRY_EXHAUSTED (R391). -/
def retryExhausted (p : Nat) (s : State) : State := if portUp s p && exhausted s p then retrain p s else s

def execRetryExhausted (p : PortId) (s : State) : Out := commit s (retryExhausted p.val s)

/-! ### Flits that arrive (R387-R392) -/

/-- Accept a data flit in order: it is counted and its bytes join the message in assembly; a whole message waits for the
hub. -/
def acceptFlit (p : Nat) (t : TxFlit) (s : State) : State :=
  let x := portGet s p
  let sofar := (if t.first then [] else tgetD x.asm t.cls []) ++ t.body
  let x := { x with rxNext := (x.rxNext + 1) % 4096, lastData := s.timeBase,
                    asm := tput x.asm t.cls (if t.last then [] else sofar),
                    inbox := if t.last then x.inbox ++ [(t.cls, sofar)] else x.inbox }
  addR (addR (portPut s p x) (Reg.FLITS_RX p) 1) (Reg.PAYLOAD_RX p) t.body.length

/-- Deliver the held flits that now follow in order. -/
def acceptHeld : Nat → Nat → State → State
  | 0, _, s => s
  | k + 1, p, s =>
    let x := portGet s p
    match x.ahead.find? (fun t => t.fseq == x.rxNext) with
    | none => s
    | some t => acceptHeld k p (acceptFlit p t (portPut s p { x with ahead := x.ahead.erase t }))

/-- Ask for the flit after the last good one. -/
def sendNack (p : Nat) (s : State) : State := putFlit p 2 emptyFlit s

/-- A data flit (R389, R390). -/
def dataFlit (p : Nat) (h : FlitHdr) (body : Bytes) (s : State) : State :=
  let x := portGet s p
  let t : TxFlit := { cls := h.cls, first := h.first, last := h.last, body := body.take h.bytes, fseq := h.fseq, sentAt := 0, replays := 0 }
  let gap := (h.fseq + 4096 - x.rxNext) % 4096
  if h.bytes = 0 ∨ 304 < h.bytes then s
  else if gap = 0 then sendIdle p (acceptHeld 64 p (acceptFlit p t s))
  else if gap < 2048 then
    let held := fld s (Reg.PORT_STATUS p) 28 27 != 0 && x.ahead.length < 64 && x.ahead.all (fun u => u.fseq != h.fseq)
    sendNack p (if held then portPut s p { x with ahead := x.ahead ++ [t] } else s)
  else s

/-- FLIT: the CRC-64 and FSEQ are checked, ACK frees the replay buffer, credits are returned; a failure or a gap leads to
a NACK (R387, R388, R390, R392). -/
def flitIn (p : Nat) (hw : Nat) (payload : Bytes) (crc : Nat) (s : State) : State :=
  if !portUp s p then s
  else
    let body := slice payload 0 304
    if crc64 (natLe 8 hw ++ body) ≠ crc then sendNack p (satR s (Reg.CRC_ERRORS p) 1)
    else
      let h := readHdr hw
      if 3 < h.type then s
      else
        let s := portMod p (fun x => { x with
          replay := freeAcked h.ack x.replay,
          credits := tput x.credits h.creditClass (tgetD x.credits h.creditClass 0 + h.credits) }) s
        let s := if h.type = 1 then dataFlit p h body (leaveDoze s) else if h.type = 2 then replayAfter p s else s
        pumpPort p s

def execFlit (p : PortId) (header : BitVec 64) (payload : Bytes) (crc : BitVec 64) (s : State) : Out :=
  commit s (flitIn p.val header.toNat payload crc.toNat s)

/-- The hub takes a message of a class out of the port's buffer, where its flits stand there, and returns their credits
(R392). A JOB or VOTE message ends NAP (R483). -/
def takeMessage (p cls : Nat) (body : Bytes) (s : State) : State :=
  let x := portGet s p
  match x.inbox.find? (fun m => m.1 == cls && m.2.drop 16 == body) with
  | none => if cls ≤ 1 then endNap s else s
  | some m => sendIdle p (portPut (if cls ≤ 1 then endNap s else s) p { x with
      inbox := x.inbox.erase m, owe := tput x.owe cls (tgetD x.owe cls 0 + ceilDiv m.2.length 304) })

/-! ### Training (R385, R386, R394, R396, R401) -/

/-- The fabric reference clock runs and the part is outside reset and base camp. -/
def fabricOn (s : State) : Bool := !s.start.inReset && s.pins.fabClk && !baseCamp s

/-- A port starts to train. -/
def startTraining (p : Nat) (s : State) : State :=
  if fabricOn s then trainingStarts p (setPort p 1 0 s) else s

/-- Every enabled port that is down starts to train (R396). -/
def trainPorts (s : State) : State :=
  (List.range 8).foldl (fun s p => if bitR s (Reg.PORT_CONTROL p) 31 && portState s p == 0 then startTraining p s else s) s

/-- The lowest eight lanes that pass (R385). -/
def lanesUsed (pass : Nat) : Nat := ((bitPositions 9 pass).take 8).foldl (fun m k => m + 2 ^ k) 0

/-- The highest version that two masks share (R394). -/
def commonVersion (a b : Nat) : Option Nat := (bitPositions 8 (a &&& b)).getLast?

/-- The part's own control flit of a training (R392, R394). -/
def sendTraining (p used : Nat) (s : State) : State :=
  let x := portGet s p
  emit s (.training p x.sentMask (fabricId s) used [1024, 32, 512, 32] x.sentQuiet)

/-- Training ends: the port comes up, or stays down with its reason; without a signal it goes on training. `again` holds where the
training was a retrain (R396). -/
def trainEnd (again : Bool) (p : Nat) (t : TrainInfo) (s : State) : State :=
  let x := portGet s p
  let used := lanesUsed t.lanesPass.val
  let s := if t.signal then sendTraining p used s else s
  if !t.signal then setPort p (if portState s p = 3 then 3 else 1) 1 s
  else if popcount t.lanesPass.val < 8 then setF (setPort p 0 2 s) (Reg.LANE_MAP p) 24 16 (511 - t.lanesPass.val)
  else match commonVersion x.sentMask t.peerVersions.val with
    | none => orR (setPort p 0 3 s) (Reg.PORT_CAUSE p) 0x10
    | some v =>
      if t.peerId % 65536 = fabricId s then setPort p 0 5 s
      else
        let old := fld s (Reg.LANE_MAP p) 8 0
        let was := if old = 0 then 0xFF else old
        let spare := ((List.range 9).find? (fun k => !used.testBit k)).getD 8
        let s := setR s (Reg.LANE_MAP p) ((511 - t.lanesPass.val) * 2 ^ 16 + spare * 2 ^ 12 + used)
        let s := setR s (Reg.PEER p) ((if t.peerQuiet then 2 ^ 24 else 0) + t.peerVersions.val * 2 ^ 16 + t.peerId % 65536)
        let s := setB (setF (setPort p 2 0 s) (Reg.PORT_STATUS p) 28 27 v) (Reg.PORT_STATUS p) 26 (used.testBit 8)
        let swapped := used != was && (was &&& (511 - t.lanesPass.val)) != 0
        let s := orR s (Reg.PORT_CAUSE p) (1 + (if again then 4 else 0) + (if swapped then 8 else 0))
        let s := portPut s p { x with
          replay := [], nextSeq := 0, rxNext := 0, ahead := [], asm := [], owe := [],
          credits := (List.range 4).foldl (fun m c => tput m c (nth t.credits c)) [], turn := 0, replayTimes := [],
          lastData := s.timeBase, quietBoth := x.sentQuiet && t.peerQuiet && v == 3 }
        pumpPort p s

/-- LINK_UP: the training of a port ends (R396). -/
def linkUpEvent (p : Nat) (t : TrainInfo) (s : State) : State :=
  if fabricOn s && bitR s (Reg.PORT_CONTROL p) 31 && (portState s p == 1 || portState s p == 3) then
    trainEnd (portState s p == 3) p t s
  else s

def execLinkUp (p : PortId) (t : TrainInfo) (s : State) : Out := commit s (linkUpEvent p.val t s)

/-- PORT_ENABLE: ENABLE set after clearing starts training; cleared, the port goes down at once as under R391 (R396,
R402). While a lane retrain holds the port the write is ignored and sets ACCESS_ERROR (R406). -/
def portEnable (p : Nat) (on : Bool) (s : State) : State :=
  if s.start.inReset then s
  else if portState s p = 5 then
    accessError 0 4 (Reg.PORT_CONTROL p) s
  else
    let was := bitR s (Reg.PORT_CONTROL p) 31
    let s := setB (setB s (Reg.PORT_CONTROL p) 31 on) Reg.FAB_STATUS (8 + p) on
    if on && !was then (if early s || full s then startTraining p s else s)
    else if !on && was then
      let up := portUp s p
      let s := setPort p 0 4 (portDrop false p s)
      if up then orR s (Reg.PORT_CAUSE p) 2 else s
    else s

def execPortEnable (p : PortId) (on : Bool) (s : State) : Out := commit s (access (.portEnable p on) (portEnable p.val on) s)

/-- A resident training context has a vote record that names the port (R401). -/
def votesOnPort (s : State) (p : Nat) : Bool :=
  s.ctxs.any (fun e => e.2.pitch.flags.testBit 0 && e.2.pitch.votes.any (fun v => v.parentPort == p || v.children.testBit p))

/-- The ports that a training context's vote records name leave the quiet state when it becomes resident, so that no wake enters the bound
of R244 (R401). -/
def wakeVotePorts (s : State) : State :=
  (List.range 8).foldl (fun s p => if portState s p == 4 && votesOnPort s p then setPort p 2 0 s else s) s

/-- QUIET: no data flit has crossed for 100 µs on a port that both sides let go quiet (R401). -/
def quietPort (p : Nat) (s : State) : State :=
  let x := portGet s p
  if portState s p == 2 && x.quietBoth && x.lastData + 2500 ≤ s.timeBase && !votesOnPort s p then setPort p 4 0 s else s

def execQuiet (p : PortId) (s : State) : Out := commit s (quietPort p.val s)

/-! ### Messages (R398-R400) -/

/-- A stray message (R400). -/
def fabStray (s : State) : State := satR (orR s Reg.FAB_CAUSE 2) Reg.FAB_STRAYS 1

/-- Latent errors of the switch buffer that a message passed: a corrected one is a notice, an uncorrectable one discards
the message, and is a chip fault where it was a JOB or VOTE message to this part (R408). False where it is lost. -/
def switchMeet (p : Nat) (mine : Bool) (s : State) : State × Bool :=
  let hit := fun (e : ErrPlace × Bool) => e.1 == .switch p
  let bad := s.errs.any (fun e => hit e && e.2)
  let fixed := s.errs.any (fun e => hit e && !e.2)
  let s := { s with errs := s.errs.filter (fun e => !hit e) }
  let s := if fixed then orR s Reg.FAB_CAUSE 4 else s
  if bad then
    let s := orR s Reg.FAB_CAUSE 8
    (if mine then chipFault 0x10 p s else fwdDrop 1 s, false)
  else (s, true)

/-- The entry of the forwarding table (R407). -/
def fwdEntry (s : State) (v : Nat) : Nat := bitsOf (getR s (Reg.FWD_TABLE (v / 8))) (4 * (v % 8) + 3) (4 * (v % 8))

/-- Forward a DELTA or ACK message (R398). -/
def forward (cls dest hops : Nat) (body : Bytes) (s : State) : State :=
  let e := fwdEntry s dest
  if hops ≤ 1 ∨ 8 ≤ e ∨ ¬ portUp s e then fwdDrop 1 s
  else sendMsg e cls dest (hops - 1) body (addR s Reg.TRANSIT_FLITS (ceilDiv (body.length + 16) 304))

/-- A message's body has a length that R389 allows, and its port carries messages. -/
def arrives (s : State) (p : Nat) (body : Bytes) : Bool := portUp s p && 1 ≤ body.length && body.length ≤ 1048576

/-- DELTA: forwarded, or a stray where it is for this part (R398, R400). -/
def deltaIn (p dest hops : Nat) (body : Bytes) (s : State) : State :=
  if arrives s p body then
    let (s, ok) := switchMeet p false (takeMessage p 2 body s)
    if !ok then s else if dest % 65536 = fabricId s then fabStray s else forward 2 (dest % 65536) hops body s
  else s

def execDelta (p : PortId) (dest hops : Nat) (body : Bytes) (s : State) : Out := commit s (deltaIn p.val dest hops body s)

/-- The resident context and route that a job message is for (R399): the lowest context with its PITCH_ID whose route of
that number starts at a hub link. -/
def jobTarget (s : State) (pitchId route : Nat) : Option Nat :=
  (s.ctxs.find? (fun e => e.2.pitch.pitchId == pitchId && (match routeOf e.2.pitch route with
    | some r => r.src.testBit 15
    | none => false))).map (·.1)

/-- JOB: the mesh flits after the job header are delivered onto the matching route (R399). -/
def jobIn (p dest : Nat) (body : Bytes) (s : State) : State :=
  if arrives s p body then
    let (s, ok) := switchMeet p (dest % 65536 == fabricId s) (takeMessage p 0 body s)
    if !ok then s
    else
      let route := fieldAt body 8 2
      match (if healthy s && dest % 65536 == fabricId s && body.length % 32 == 0 then jobTarget s (fieldAt body 0 8) route else none) with
      | none => fabStray s
      | some c => { s with mesh := s.mesh ++ (flitsOf (body.drop 32)).map (fun f => { ctx := c, route := route, payload := f }) }
  else s

def execJob (p : PortId) (dest : Nat) (body : Bytes) (s : State) : Out := commit s (jobIn p.val dest body s)

/-- SEND_COMPLETE: the last flit has left the tile; flits of a route to the hub leave as one JOB message on the port that
their job header names (R129, R399). -/
def sendComplete (site id : Nat) (s : State) : State :=
  completeIf site id (fun f => match f.work with
    | .send rt fl => some (fun s => match (ctxGet s f.ctx).bind (fun x => routeOf x.pitch rt) with
        | some r => if r.dst.testBit 15 then
            let b := fl.flatten
            let p := fieldAt b 10 1
            if p < 8 then sendMsg p 0 (peerId s p) 32 b s else fwdDrop 1 s
          else s
        | none => s)
    | _ => none) s

def execSendComplete (site : SiteId) (id : Nat) (s : State) : Out := commit s (sendComplete site.val id s)

end Sys2Proof.Machine
end

