-- ==== Sys2Proof/Machine/PitchForm.lean ====
section
/-! DEFINITION. The pitch as bytes (R91-R105): its header, directory and records, and the checks of steps 1-5 of R107 that
need nothing but the image and the pitch-signing keys. -/

namespace Sys2Proof.Machine

/-- Why a load is refused: code, SECTION and DETAIL (R108, R109). -/
structure LoadErr where
  code : Nat
  sect : Nat
  detail : Nat
  deriving DecidableEq, Repr

/-- A check of the loader. -/
abbrev Chk := Except LoadErr

/-- Refuse unless `b` holds. -/
def must (b : Bool) (code sect detail : Nat) : Chk Unit := if b then .ok () else .error ⟨code, sect, detail⟩

/-- Apply a check to each element in order. -/
def each {α : Type} (f : α → Chk Unit) : List α → Chk Unit
  | [] => .ok ()
  | a :: t => match f a with
    | .ok _ => each f t
    | .error e => .error e

/-- Number the elements of a list from 0. -/
def indexed {α : Type} (l : List α) : List (Nat × α) := List.zip (List.range l.length) l

/-- A directory entry (R93). -/
structure DirEntry where
  type : Nat
  flags : Nat
  off : Nat
  len : Nat
  check : Nat
  deriving DecidableEq, Repr

/-- An entry put before the first of a higher type. -/
def dirInsert (e : DirEntry) : List DirEntry → List DirEntry
  | [] => [e]
  | x :: t => if x.type < e.type then x :: dirInsert e t else e :: x :: t

/-- The directory's entries, in order of type: R91 orders the sections, and no rule orders the directory (log entry 16). -/
def dirOf (img : Bytes) : List DirEntry :=
  ((List.range (fieldAt img 0x10 2)).map (fun k =>
    let o := 0x40 + 16 * k
    { type := fieldAt img o 2, flags := fieldAt img (o + 2) 2, off := fieldAt img (o + 4) 4, len := fieldAt img (o + 8) 4,
      check := fieldAt img (o + 12) 4 })).foldr dirInsert []

/-- Sections in ascending order of type, on 64-byte boundaries, without overlap, from `low` upward (R91). -/
def dirOrdered : Nat → Nat → List DirEntry → Bool
  | _, _, [] => true
  | low, ty, e :: t => e.off % 64 == 0 && low ≤ e.off && ty < e.type + 1 && dirOrdered (e.off + e.len) (e.type + 1) t

/-- The section types of format 1.0 (R94). -/
def knownTypes : List Nat := [0x10, 0x11, 0x12, 0x13, 0x14, 0x15, 0x16, 0x17, 0x18, 0xFF]

/-- The section types that a pitch with these FLAGS must have (R94). -/
def neededTypes (flags : Nat) : List Nat :=
  [0x10, 0x11, 0x12, 0x13, 0x14] ++ (if flags.testBit 0 then [0x16, 0x17] else []) ++ (if flags.testBit 2 then [0x18] else []) ++ [0xFF]

/-- A run of bytes is zero. -/
def zeroAt (b : Bytes) (off n : Nat) : Bool := (slice b off n).all (· == 0#8)

/-- Step 1 of R107: header, directory, R91 and the required sections. -/
def checkHeader (img : Bytes) (length : Nat) : Chk (List DirEntry) := do
  let total := fieldAt img 0x0C 4
  let n := fieldAt img 0x10 2
  let flags := fieldAt img 0x12 2
  must (64 ≤ length && slice img 0 4 == [0x4A#8, 0x58#8, 0x50#8, 0x54#8] && fieldAt img 6 2 == 0x40) 1 0 0
  must (total ≤ length && total ≤ 0x4000000 && 2 ≤ n && n ≤ 64 && 64 + 16 * n ≤ total) 1 0 0
  must (zeroAt img 0x14 4 && zeroAt img 0x28 24 && flags < 16) 1 0 0
  let d := dirOf img
  must (d.all (fun e => e.flags < 2)) 1 0 0
  must (dirOrdered (64 + 16 * n) 0 d) 1 0 0
  each (fun t => must (d.any (fun e => e.type == t)) 1 t 0) (neededTypes flags)
  match d.getLast? with
  | none => .error ⟨1, 0, 0⟩
  | some e => do
    must (e.type == 0xFF && e.len == 104 && e.off + e.len == total) 1 0 0
    .ok d

/-- Step 2 of R107: format version, unknown sections and contract version (R90, R96). -/
def checkVersion (img : Bytes) (d : List DirEntry) : Chk Unit := do
  must (fieldAt img 5 1 == 1) 2 0 0
  each (fun e => must (knownTypes.contains e.type || !e.flags.testBit 0) 5 (e.type % 256) 0) d
  must (fieldAt img 8 2 == 1 && fieldAt img 0x0B 1 == 1 && fieldAt img 0x0A 1 == 0) 3 0 0

/-- Step 3 of R107: the CRC-32C of each section, the signature section's among them (R93). -/
def checkCrc (img : Bytes) (d : List DirEntry) : Chk Unit :=
  each (fun e => must (crc32c (slice img e.off e.len) == e.check) 4 (e.type % 256) 0) d

/-- Step 4 of R107: the signature (R95). -/
def checkSignature (keys : Tbl Bytes) (img : Bytes) (d : List DirEntry) : Chk Unit :=
  match d.getLast? with
  | none => .error ⟨6, 0xFF, 0⟩
  | some e => do
    let sg := slice img e.off 104
    let slot := fieldAt sg 0 1
    match tget keys slot with
    | none => .error ⟨7, 0xFF, slot⟩
    | some key => do
      must (slot < 8) 7 0xFF slot
      must (ecdsaVerify key (sha384 (slice img 0 e.off)) (beNat (slice sg 8 48)) (beNat (slice sg 56 48))) 6 0xFF slot
      must (zeroAt sg 1 7) 1 0xFF 0

/-- A section's bytes; empty when it is absent. -/
def sectionOf (img : Bytes) (d : List DirEntry) (t : Nat) : Bytes :=
  match d.find? (fun e => e.type == t) with
  | some e => slice img e.off e.len
  | none => []

/-- The directory holds a section of a type. -/
def hasSection (d : List DirEntry) (t : Nat) : Bool := d.any (fun e => e.type == t)

/-- The records of `n` bytes of a section. -/
def recordsOf (b : Bytes) (n : Nat) : List Bytes := (List.range (b.length / n)).map (fun k => slice b (n * k) n)

/-- TILE_MAP marks a logical tile used (R94). -/
def tileUsed (m : Bytes) (l : Nat) : Bool := l < 512 && (m.getD l 0#8).toNat.testBit 0
/-- TILE_MAP marks a hub link (R94). -/
def tileHub (m : Bytes) (l : Nat) : Bool := (m.getD l 0#8).toNat.testBit 1
/-- The used logical tiles of a map, ascending. -/
def usedTiles (m : Bytes) : List Nat := (List.range 512).filter (tileUsed m)

/-- TILE_MAP (R94). -/
def checkTileMap (m : Bytes) : Chk Unit := do
  must (m.length == 512) 1 0x10 0
  each (fun l =>
    let v := (m.getD l 0#8).toNat
    must (v < 8 && (v == 0 || v.testBit 0)) 1 0x10 l) (List.range 512)

/-- A route record (R97). -/
def routeRec (r : Bytes) : Route :=
  { id := fieldAt r 0 2, src := fieldAt r 2 2, dst := fieldAt r 4 2, path := fieldAt r 6 1, slotMask := fieldAt r 8 2,
    flits := fieldAt r 10 2, deadline := fieldAt r 12 2 }

/-- An endpoint is well-formed: a used logical tile, or a hub link of a die and column (R97). -/
def endpointOk (m : Bytes) (e : Nat) : Bool :=
  if e.testBit 15 then e % 16 < 12 && bitsOf e 8 4 == 0 && bitsOf e 14 11 == 0
  else bitsOf e 14 9 == 0 && tileUsed m (e % 512)

/-- ROUTES (R97, R99). DETAIL is the ROUTE_ID. -/
def checkRoutes (m : Bytes) (b : Bytes) : Chk (List Route) := do
  must (b.length % 16 == 0) 1 0x11 0
  let rs := recordsOf b 16
  each (fun r =>
    let x := routeRec r
    must (zeroAt r 7 1 && zeroAt r 14 2 && x.path < 8 && bitsOf x.path 2 1 != 3 && endpointOk m x.src && endpointOk m x.dst
      && x.flits != 0 && x.slotMask != 0 && !(x.src.testBit 15 && x.dst.testBit 15)
      && (x.flits ≤ 32768 || !(x.src.testBit 15 || x.dst.testBit 15))
      && (rs.filter (fun q => fieldAt q 0 2 == x.id)).length == 1) 1 0x11 x.id) rs
  .ok (rs.map routeRec)

/-- An array record (R100). -/
def arrRecOf (r : Bytes) : ArrRec :=
  { tile := fieldAt r 0 2, arr := fieldAt r 2 1, modes := fieldAt r 3 1, accBase := fieldAt r 4 2, accCount := fieldAt r 6 2,
    chBase := fieldAt r 8 2, chCount := fieldAt r 10 2 }

/-- ARRAY_MODES (R100): counts outside their range are refused here, ranges beyond the array and unknown modes in step 6. -/
def checkArrays (m : Bytes) (b : Bytes) : Chk (List ArrRec) := do
  must (b.length % 12 == 0) 1 0x12 0
  let rs := (recordsOf b 12).map arrRecOf
  each (fun e => must (tileUsed m e.2.tile && e.2.arr < 4 && 1 ≤ e.2.accCount && e.2.accCount ≤ 512 && e.2.chCount ≤ 4096
    && ((rs.take e.1).all (fun q => !(q.tile == e.2.tile && q.arr == e.2.arr)))) 1 0x12 e.1) (indexed rs)
  .ok rs

/-- Figure `i` of a list lies inside the body of some REPEAT (R118). -/
def inBody (fs : List (Option Fig)) (i : Nat) : Bool :=
  (indexed fs).any (fun e => match e.2 with
    | some (.repeatBody b _) => e.1 < i && i ≤ e.1 + b + 1
    | _ => false)

/-- The REPEAT rules of R118 for a body that begins after figure `i`. -/
def bodyOk (fs : List (Option Fig)) (i b : Nat) : Bool :=
  i + b + 1 < fs.length &&
  (indexed ((fs.drop (i + 1)).take (b + 1))).all (fun e => match e.2 with
    | some (.repeatBody b' _) => e.1 + b' + 1 ≤ b &&
        ((fs.drop (i + 2 + e.1)).take (b' + 1)).all (fun x => match x with
          | some (.repeatBody _ _) => false
          | _ => true)
    | some (.yieldToken _ _) => false
    | some (.yieldTime _) => false
    | some (.vote _ _ _) => false
    | some (.endStep _ _) => false
    | _ => true)

/-- A tile's list: every figure decodes, REPEAT and NEXT keep their rules (R114, R118, R122). -/
def listOk (ws : List Nat) : Bool :=
  let fs := ws.map decodeFig
  (indexed fs).all (fun e => match e.2 with
    | none => false
    | some (.repeatBody b _) => bodyOk fs e.1 b
    | some (.endStep false n) => n < fs.length && !inBody fs n
    | some _ => true)

/-- The figure lists: for each used tile in ascending order its number, its count and its words (R94). A list that is cut
short, stands under another number or breaks a figure's rule is the fault of the tile whose turn it is (R114). -/
def figureLists : List Nat → Bytes → Chk (Tbl (List Nat))
  | [], b => if b = [] then .ok [] else .error ⟨1, 0x13, 0⟩
  | l :: ls, b =>
    let n := fieldAt b 2 2
    let ws := (List.range n).map (fun k => fieldAt b (4 + 4 * k) 4)
    if b.length < 4 + 4 * n ∨ fieldAt b 0 2 ≠ l ∨ listOk ws = false then .error ⟨1, 0x13, l⟩
    else (figureLists ls (b.drop (4 + 4 * n))).map (fun t => (l, ws) :: t)

/-- FIGURES (R94, R114). -/
def checkFigures (m : Bytes) (b : Bytes) : Chk (Tbl (List Nat)) := figureLists (usedTiles m) b

/-- An object record (R101). -/
def objRec (r : Bytes) : ObjRec :=
  { id := fieldAt r 0 4, kind := fieldAt r 4 1, oflags := fieldAt r 5 1, keySlot := fieldAt r 6 1, format := fieldAt r 7 1,
    size := fieldAt r 8 8, tile := fieldAt r 0x10 2, banks := fieldAt r 0x12 2, offset := fieldAt r 0x14 4,
    tier := fieldAt r 0x18 1, stackMask := fieldAt r 0x19 1 }

/-- The record's own rules (R101, R150, R161). -/
def objRecOk (m : Bytes) (o : ObjRec) : Bool :=
  o.id != 0 && o.oflags < 32 && fmtOk o.format && o.tier ≤ 1 &&
  (match o.kind with
    | 0 => o.banks != 0 && !o.oflags.testBit 0 && !o.oflags.testBit 2 && !o.oflags.testBit 3 && tileUsed m o.tile
        && o.offset % 32 == 0 && o.size % (32 * popcount o.banks) == 0
    | 1 => !(o.tier == 0 && o.stackMask == 0)
    | _ => false)

/-- MEMORY_SLOTS (R101). -/
def checkObjects (m : Bytes) (b : Bytes) : Chk (List ObjRec) := do
  must (b.length % 32 == 0) 1 0x14 0
  let rs := recordsOf b 32
  let os := rs.map objRec
  each (fun e => must (zeroAt e.2 0x1A 6 && objRecOk m (objRec e.2)
    && (os.take e.1).all (fun q => q.id != fieldAt e.2 0 4)) 1 0x14 e.1) (indexed rs)
  .ok os

/-- CODEC_BUDGETS (R103). -/
def checkBudgets (b : Bytes) : Chk (List BudgetRec) := do
  must (b.length % 8 == 0) 1 0x15 0
  let rs := recordsOf b 8
  each (fun e => must (fieldAt e.2 4 1 ≤ 1 && zeroAt e.2 5 1) 1 0x15 e.1) (indexed rs)
  .ok (rs.map (fun r => { id := fieldAt r 0 4, mode := fieldAt r 4 1, budget := fieldAt r 6 2 }))

/-- A sweep record (R104). -/
def sweepRecOf (r : Bytes) : SweepRec :=
  { group := fieldAt r 0 2, rule := fieldAt r 2 1, gflags := fieldAt r 3 1, params := fieldAt r 8 8,
    objs := (List.range 6).map (fun k => fieldAt r (0x10 + 4 * k) 4), constIndex := fieldAt r 0x28 4,
    constSteps := fieldAt r 0x2C 4 }

/-- SWEEP_PLAN (R104), where the directory holds it. -/
def checkSweepForm (there : Bool) (b : Bytes) : Chk (Option SweepPlan) :=
  if !there then .ok none
  else do
    let n := fieldAt b 8 4
    let c := fieldAt b 12 4
    must (16 ≤ b.length && 16 + 48 * n ≤ c && c ≤ b.length) 1 0x16 0
    let rs := recordsOf (slice b 16 (48 * n)) 48
    each (fun e => must (fieldAt e.2 2 1 ≤ 5 && fieldAt e.2 3 1 ≤ 1 && zeroAt e.2 4 4 && fieldAt e.2 0x2C 4 != 0) 1 0x16 e.1)
      (indexed rs)
    .ok (some { lossScale := fieldAt b 0 4, growth := fieldAt b 4 4, consts := b.drop c,
                recs := rs.map sweepRecOf })

/-- VOTE_POINTS: the fields (R105). -/
def checkVotesForm (b : Bytes) : Chk (List VoteRec) := do
  must (b.length % 16 == 0) 1 0x17 0
  let rs := recordsOf b 16
  each (fun e =>
    let p := fieldAt e.2 10 1
    let jobs := fieldAt e.2 4 4
    must (p % 16 == 0 && (p / 16 < 8 || p / 16 == 15) && 1 ≤ jobs && jobs ≤ 65536) 1 0x17 e.1) (indexed rs)
  .ok (rs.map (fun r => { id := fieldAt r 0 2, device := fieldAt r 2 2, jobDevices := fieldAt r 4 4, parent := fieldAt r 8 2,
                          parentPort := fieldAt r 10 1 / 16, children := fieldAt r 11 1, timeout := fieldAt r 12 4 }))

/-- RESERVED_SET (R94), where the directory holds it. -/
def checkReserved (there : Bool) (b : Bytes) : Chk Nat := do
  must (!there || (b.length == 8 && zeroAt b 6 2)) 1 0x18 0
  .ok (leNat b)

/-- The records of a pitch (step 5 of R107, as far as the image alone decides it). -/
def checkRecords (img : Bytes) (d : List DirEntry) : Chk Pitch := do
  let m := sectionOf img d 0x10
  checkTileMap m
  let routes ← checkRoutes m (sectionOf img d 0x11)
  let arrays ← checkArrays m (sectionOf img d 0x12)
  let figures ← checkFigures m (sectionOf img d 0x13)
  let objs ← checkObjects m (sectionOf img d 0x14)
  let budgets ← checkBudgets (sectionOf img d 0x15)
  let sweep ← checkSweepForm (hasSection d 0x16) (sectionOf img d 0x16)
  let votes ← checkVotesForm (sectionOf img d 0x17)
  let engines ← checkReserved (hasSection d 0x18) (sectionOf img d 0x18)
  .ok { flags := fieldAt img 0x12 2, pitchId := fieldAt img 0x18 8, seed := fieldAt img 0x20 8, tileMap := m,
        routes := routes, arrays := arrays, objs := objs, figures := figures, budgets := budgets, sweep := sweep,
        votes := votes, engines := engines }

/-- Steps 1-4 of R107 and the records of step 5. -/
def parsePitch (keys : Tbl Bytes) (img : Bytes) (length : Nat) : Chk Pitch := do
  let d ← checkHeader img length
  let img := img.take (fieldAt img 0x0C 4)
  checkVersion img d
  checkCrc img d
  checkSignature keys img d
  checkRecords img d

/-! ### Step bodies (R123) -/

/-- The figures of a tile. -/
def figsOf (p : Pitch) (l : Nat) : List Fig := ((tget p.figures l).getD []).filterMap decodeFig

/-- The votes of the body that begins at a figure, and the NEXT of the END_STEP that closes it; none after FINAL. -/
def bodyVotes (fs : List Fig) : Nat → Nat → List Nat × Option Nat
  | 0, _ => ([], none)
  | k + 1, i => match fs[i]? with
    | none => ([], none)
    | some (.endStep fin n) => ([], if fin then none else some n)
    | some (.vote _ _ v) => let (vs, n) := bodyVotes fs k (i + 1); (v :: vs, n)
    | some _ => bodyVotes fs k (i + 1)

/-- The vote sequences of a tile's step bodies, in chain order (R123). -/
def stepBodies (fs : List Fig) : Nat → List Nat → Nat → List (List Nat)
  | 0, _, _ => []
  | k + 1, seen, i =>
    if i ∈ seen then []
    else
      let (vs, n) := bodyVotes fs fs.length i
      match n with
      | none => [vs]
      | some n => vs :: stepBodies fs k (i :: seen) n

/-- The bodies of one tile of a pitch. -/
def bodiesOf (p : Pitch) (l : Nat) : List (List Nat) := let fs := figsOf p l; stepBodies fs (fs.length + 1) [] 0

end Sys2Proof.Machine
end

