-- ==== Sys2Proof/Machine/SweepForm.lean ====
section
/-! DEFINITION. What the loader checks of a training pitch: the sweep plan (R104, R216-R222, R237, R238, R249, R258, R260)
and the vote points (R105, R123). -/

namespace Sys2Proof.Machine

/-- An FP32 word is finite. -/
def finite32 (w : Nat) : Bool := bitsOf w 30 23 != 255

/-- An FP32 word is positive. -/
def positive32 (w : Nat) : Bool := w < 0x7F800001 && w != 0

/-- A loss scale: a power of two from 1.0 to 2^32 (R249). -/
def lossScaleOk (w : Nat) : Bool := w % 2 ^ 23 == 0 && 127 ≤ w / 2 ^ 23 && w / 2 ^ 23 ≤ 159

/-- The forms that a rule uses, by position in OBJECTS (R216, R221). -/
def usesForm (rule k : Nat) : Bool :=
  k < 4 || (k == 4 && (rule == 1 || rule == 2 || rule == 3 || rule == 5)) || (k == 5 && (rule == 3 || rule == 4))

/-- The FORMAT of a form (R216). -/
def formFormat (k : Nat) : Nat := nth [0x01, 0x01, 0x13, 0x12, 0x00, 0x00] k

/-- Word j of constants entry i (R254). -/
def constWord (p : SweepPlan) (i j : Nat) : Nat := fieldAt p.consts (32 * i + 4 * j) 4

/-- Rows and columns of an Adafactor group (R222). -/
def matrixOf (p : SweepPlan) (r : SweepRec) : Nat × Nat := (constWord p r.constIndex 6, constWord p r.constIndex 7)

/-- Packs of a form: K of R218, or those of the factored second moment (R222). -/
def formPacks (p : SweepPlan) (r : SweepRec) (k : Nat) : Nat :=
  if k = 5 ∧ r.rule = 4 then ceilDiv (matrixOf p r).1 1024 + ceilDiv (matrixOf p r).2 1024 else r.params / 1024

/-- The SIZE that R218 and R222 give a form. -/
def formSize (p : SweepPlan) (r : SweepRec) (k : Nat) (oflags : Nat) : Nat :=
  formPacks p r k * (packBytes (formFormat k) + (if fmtScaled (formFormat k) then 32 else 0) + (if flagged oflags then 32 else 0))

/-- The object record of an OBJECT_ID. -/
def objById (p : Pitch) (id : Nat) : Option ObjRec := p.objs.find? (fun o => o.id == id)

/-- One form's object is right (R104, R216, R218, R221, R275). -/
def formOk (p : Pitch) (pl : SweepPlan) (r : SweepRec) (k : Nat) : Bool :=
  let id := nth r.objs k
  if usesForm r.rule k then
    match objById p id with
    | none => false
    | some o => id != 0 && o.kind == 1 && o.oflags.testBit 4 && !o.oflags.testBit 0 && o.format == formFormat k
        && o.size == formSize pl r k o.oflags
  else id == 0

/-- One constants entry is right (R260). -/
def constOk (pl : SweepPlan) (r : SweepRec) (i : Nat) : Bool :=
  let w := constWord pl i
  32 * i + 32 ≤ pl.consts.length && (List.range 6).all (fun j => finite32 (w j)) && (r.rule == 4 || finite32 (w 6))
    && (r.rule != 3 || positive32 (w 7))
    && (r.rule != 4 || (positive32 (w 4) && positive32 (w 5) && w 6 == (matrixOf pl r).1 && w 7 == (matrixOf pl r).2))

/-- One sweep record is right. -/
def sweepRecOk (p : Pitch) (pl : SweepPlan) (r : SweepRec) : Bool :=
  let (rows, cols) := matrixOf pl r
  r.params % 1024 == 0 && (upFrom r.constIndex r.constSteps).all (constOk pl r)
    && (r.rule != 4 || (rows % 32 == 0 && cols % 32 == 0 && rows * cols == r.params && rows ≤ 65536 && cols ≤ 65536))
    && (List.range 6).all (formOk p pl r)

/-- The record numbers that FETCH and STORE figures of a list name. -/
def namedObjs (fetch : Bool) (fs : List Fig) : List Nat :=
  fs.filterMap (fun f => match f with
    | .fetch _ _ _ o => if fetch then some o else none
    | .store _ _ _ o => some o
    | _ => none)

/-- A figure names a token (R238). -/
def namesToken (t : Nat) : Fig → Bool
  | .wait k _ => k == t
  | .post _ k _ => k == t
  | .receive _ p k _ => p && k == t
  | .fetch _ p k _ => p && k == t
  | .store _ p k _ => p && k == t
  | .vote p k _ => p && k == t
  | .yieldToken k _ => k == t
  | _ => false

/-- The figures at which the WAIT of a signal token must stand: figure 0 and every NEXT (R238, R281). -/
def waitPlaces (fs : List Fig) : List Nat :=
  0 :: fs.filterMap (fun f => match f with | .endStep false n => some n | _ => none)

/-- A tile keeps the rules of T31 (R238), or of T30 in a serving context (R281). -/
def tokenRuleOk (tok : Nat) (fs : List Fig) : Bool :=
  (waitPlaces fs).all (fun i => fs[i]? == some (.wait tok 1))
    && (indexed fs).all (fun e => !namesToken tok e.2 || ((waitPlaces fs).contains e.1 && e.2 == .wait tok 1))

/-- The OBJECT_IDs of the forms that a figure may not name: with `store`, the high half too (R219). -/
def hiddenForms (pl : SweepPlan) (store : Bool) : List Nat :=
  pl.recs.flatMap (fun r => [nth r.objs 1, nth r.objs 4, nth r.objs 5] ++ (if store then [nth r.objs 0] else []))

/-- A tile's FETCH and STORE figures keep R219. -/
def formsHidden (p : Pitch) (pl : SweepPlan) (fs : List Fig) : Bool :=
  let ids := fun (l : List Nat) => l.filterMap (fun k => (p.objs[k]?).map (·.id))
  (ids (namedObjs true fs)).all (fun i => !(hiddenForms pl false).contains i)
    && (ids (namedObjs false fs)).all (fun i => !(hiddenForms pl true).contains i)

/-- SWEEP_PLAN: the checks of step 6 on a pitch that holds a sweep plan (R104, R218-R222, R249, R260, R275), and the step words and
T31 of a training pitch (R237, R238). -/
def checkSweep (p : Pitch) : Chk Unit :=
  match p.sweep with
  | none => .ok ()
  | some pl => do
    let training := p.flags.testBit 0
    must (lossScaleOk pl.lossScale) 0x12 0x16 0
    each (fun e => must (sweepRecOk p pl e.2) 0x12 0x16 e.1) (indexed pl.recs)
    let ids := (pl.recs.flatMap (·.objs)).filter (· != 0)
    each (fun e => must (e.2.objs.all (fun i => i == 0 || ids.count i == 1)) 0x12 0x16 e.1) (indexed pl.recs)
    let used := usedTiles p.tileMap
    each (fun l => must (!training || p.objs.any (fun o => o.kind == 0 && o.tile == l)) 0x12 0x14 l) used
    each (fun l => must ((!training || tokenRuleOk 31 (figsOf p l)) && formsHidden p pl (figsOf p l)) 0x12 0x13 l) used

/-- One vote record is right after the records before it (R105). -/
def voteRecOk (vs : List VoteRec) (v : VoteRec) : Bool :=
  v.device < v.jobDevices && v.parent < v.jobDevices
    && (v.parent == v.device) == (v.parentPort == 15) && (v.parentPort == 15 || !v.children.testBit v.parentPort)
    && 1 ≤ v.timeout && v.timeout ≤ 10000000 && !vs.any (fun x => x.id == v.id)

/-- The VOTE_IDs that a list names. -/
def votesNamed (fs : List Fig) : List Nat := fs.filterMap (fun f => match f with | .vote _ _ v => some v | _ => none)

/-- VOTE_PLAN (R105, R123). -/
def checkVotes (p : Pitch) : Chk Unit := do
  let training := p.flags.testBit 0
  each (fun e => must (voteRecOk (p.votes.take e.1) e.2) 0x13 0x17 e.1) (indexed p.votes)
  let used := usedTiles p.tileMap
  each (fun l =>
    let vs := votesNamed (figsOf p l)
    must (vs.all (fun v => training && p.votes.any (fun r => r.id == v))) 0x13 0x13 l) used
  if training then
    let first := match used with
      | [] => []
      | l :: _ => bodiesOf p l
    each (fun l =>
      let bs := bodiesOf p l
      must (bs == first && bs.all (fun b => !b.isEmpty)) 0x13 0x13 l) used
  else .ok ()

end Sys2Proof.Machine
end

