-- ==== Sys2Proof/Machine/Delta.lean ====
section
/-! DEFINITION. The delta stream (R224-R235): records, rings and fabric destinations, acceptance, attach and end. -/

namespace Sys2Proof.Machine

/-! ### Training contexts and their forms -/

/-- A training context that has done nothing. -/
def Train.fresh : Train where
  body := 0
  votesDone := 0
  vote := { flag := none, ups := [] }
  result := none
  tasks := []
  fac := []
  began := 0
  took := []
  stream := none
  next := none
  wait := none
  salt := []

/-- The training state of a context. -/
def trainGet (s : State) (c : Nat) : Train := tgetD s.train c Train.fresh
/-- Change the training state of a context. -/
def trainMod (c : Nat) (f : Train → Train) (s : State) : State := { s with train := tput s.train c (f (trainGet s c)) }

/-- A resident training context (FLAGS[0]). -/
def training (s : State) (c : Nat) : Option Ctx :=
  match ctxGet s c with
  | some x => if x.pitch.flags.testBit 0 then some x else none
  | none => none

/-- PHASE of a context (R270). -/
def phaseOf (s : State) (c : Nat) : Nat := fld s (Reg.STEP_STATE c) 30 28
/-- Set PHASE. -/
def setPhase (c v : Nat) (s : State) : State := setF s (Reg.STEP_STATE c) 30 28 v

/-- The sweep plan of a pitch. -/
def planOf (p : Pitch) : SweepPlan := p.sweep.getD { lossScale := 0, growth := 0, recs := [], consts := [] }

/-- The sweep record of a group by its place in the plan. -/
def groupRec (p : Pitch) (g : Nat) : Option SweepRec := (planOf p).recs[g]?

/-- The object of a form: `k` is its place in OBJECTS (R104). -/
def formObj (s : State) (x : Ctx) (r : SweepRec) (k : Nat) : Option Obj :=
  let id := nth r.objs k
  if id = 0 then none
  else match (indexed x.pitch.objs).find? (fun e => e.2.id == id) with
    | some (i, _) => objGet s x.fn (nth x.handles i)
    | none => none

/-- The place in OBJECTS of a FORM code of R225. -/
def formPlace (f : Nat) : Nat := nth [0, 1, 3, 4, 5] f

/-- Runs of at most 64 packs. -/
def packRuns (n : Nat) : List (Nat × Nat) := (List.range (ceilDiv n 64)).map (fun k => (64 * k, min 64 (n - 64 * k)))

/-- The PACKS records of a state (R229): group by group, form by form; of a skipped step the error terms alone. -/
def stateJobs (p : Pitch) (state : Nat) (skipped : Bool) : List DeltaJob :=
  (indexed (planOf p).recs).flatMap (fun e =>
    ((List.range 5).filter (fun f => usesForm e.2.rule (formPlace f) && (!skipped || f == 2))).flatMap (fun f =>
      (packRuns (formPacks (planOf p) e.2 (formPlace f))).map (fun r => DeltaJob.packs state e.1 f r.1 r.2 [])))

/-- The state that a record belongs to. -/
def jobState : DeltaJob → Nat
  | .start n => n
  | .packs n _ _ _ _ _ => n
  | .stepEnd n _ _ => n
  | .endRec _ => 0

/-- Whether a record ends the stream. -/
def isEnd : DeltaJob → Bool
  | .endRec _ => true
  | _ => false

/-! ### Records (R225-R228) -/

/-- DEVICE, and JOB_DEVICES, of the context's vote records (R105). -/
def jobDevices (p : Pitch) : Nat := ((p.votes.head?).map (·.jobDevices)).getD 0

/-- The bytes of a record header up to CHECK. -/
def recordHead (st : Stream) (p : Pitch) (type rflags seq state group form key packs first len obj : Nat) : Bytes :=
  [0x4A#8, 0x58#8, 0x44#8, 0x53#8] ++ natLe 1 st.minor ++ natLe 1 1 ++ natLe 1 type ++ natLe 1 rflags ++ natLe 8 seq
    ++ natLe 8 state ++ natLe 8 p.pitchId ++ natLe 8 st.id ++ natLe 2 (deviceOf p) ++ natLe 2 group ++ natLe 1 form
    ++ natLe 1 key ++ natLe 2 packs ++ natLe 4 first ++ natLe 4 len ++ natLe 4 obj

/-- A record: header, CHECK over header and payload, payload padded to 64 B (R225, R227). -/
def sealRecord (head payload : Bytes) : Bytes := head ++ natLe 4 (crc32c (head ++ payload)) ++ padTo 64 payload

/-- A record with no PACKS fields. -/
def plainRecord (st : Stream) (p : Pitch) (type seq state : Nat) (payload : Bytes) : Bytes :=
  sealRecord (recordHead st p type 0 seq state 0 0 0 0 0 payload.length 0) payload

/-- 64 B of payload. -/
def pad64 (b : Bytes) : Bytes := slice b 0 64

/-- A PAD that fills a ring to its end: `rest` bytes are left (R226). -/
def padRecord (st : Stream) (p : Pitch) (rest : Nat) : Bytes :=
  let head := recordHead st p 0 0 0 0 0 0 0 0 0 (rest - 64) 0
  head ++ natLe 4 (crc32c head)

/-- The delivered bytes of some packs (R226); none where one fails. -/
def runPacks (o : Obj) : List Nat → State → State × Option (List (Nat × Bytes × Bytes))
  | [], s => (s, some [])
  | k :: ks, s =>
    let (s, r) := expandPack true o k s
    if r.err ≠ 0 then (s, none)
    else
      let (s, q) := runPacks o ks s
      (s, q.map ((k, r.raw, r.scale) :: ·))

/-- The payload of a run of packs from what was got of them: the packs in order, then their scale blocks (R226). -/
def gotBytes (first n : Nat) (got : List (Nat × Bytes × Bytes)) : Bytes :=
  let ps := (upFrom first n).map (fun k => tgetD got k ([], []))
  ps.flatMap (·.1) ++ ps.flatMap (·.2)

/-- The bytes of a PACKS record; none where its key fails (R228). -/
def packsRecord (st : Stream) (x : Ctx) (state g form first n : Nat) (got : List (Nat × Bytes × Bytes)) (s : State) :
    State × Option Bytes :=
  match (groupRec x.pitch g).bind (fun r => (formObj s x r (formPlace form)).map (fun o => (r, o))) with
  | none => (s, none)
  | some (r, o) =>
    let data := gotBytes first n got
    if o.oflags.testBit 3 then
      match tenantKey s o.fn o.keySlot with
      | none => (packFail true (unitOf s o first) 6 s, none)
      | some key =>
        let head := recordHead st x.pitch 2 1 st.seq state r.group form o.keySlot n first (data.length + 16) o.id
        let (ct, tag) := gcmSeal key (st.id % 2 ^ 64 * 2 ^ 32 + st.seq % 2 ^ 32) head data
        (s, some (sealRecord head (ct ++ tag)))
    else (s, some (sealRecord (recordHead st x.pitch 2 0 st.seq state r.group form 0 n first data.length o.id) data))

/-- The payload bytes of a PACKS record, without building it. -/
def packsLen (s : State) (x : Ctx) (g form n : Nat) : Nat :=
  match (groupRec x.pitch g).bind (fun r => formObj s x r (formPlace form)) with
  | none => 0
  | some o => n * (packBytes o.format + scaleLen o) + (if o.oflags.testBit 3 then 16 else 0)

/-- The bytes that a record takes. -/
def jobBytes (s : State) (x : Ctx) : DeltaJob → Nat
  | .packs _ g f _ n _ => 64 + ceilDiv (packsLen s x g f n) 64 * 64
  | _ => 128

/-- A record can be built: the sweep has handed over every pack of it, and a STEP_END follows its sweep (R229, R249). -/
def jobReady : DeltaJob → Bool
  | .packs _ _ _ _ n got => got.length == n
  | .stepEnd _ _ a => a.isSome
  | _ => true

/-- Bytes of the records that stand built in the staging buffer (R230). -/
def staged (s : State) (c : Nat) (x : Ctx) : Nat :=
  match (trainGet s c).stream with
  | none => 0
  | some st => if st.broken then 0 else ((st.jobs.takeWhile jobReady).map (jobBytes s x)).foldl (· + ·) 0

/-- The staging buffer holds 4 MiB. -/
def stagingFull (s : State) (c : Nat) (x : Ctx) : Bool := 0x400000 ≤ staged s c x

/-- The loss scale and the good-step count of a context. -/
def scaleOf (s : State) (c : Nat) : Nat × Nat := (getR s (Reg.LOSS_SCALE c), getR s (Reg.GOOD_STEPS c))

/-- The payload of a STEP_END (R226). -/
def stepEndPayload (after : Nat × Nat) (st : Stream) (result : Nat) : Bytes :=
  pad64 (natLe 4 after.1 ++ natLe 4 after.2 ++ natLe 1 result ++ natLe 3 0
    ++ natLe 4 st.records ++ natLe 8 (if st.records = 0 then st.seq else st.firstSeq) ++ natLe 8 st.bytes)

/-- LAST_STEP of END and FINAL; where no STEP_END was sent it is a free value. -/
def lastStepOf (st : Stream) (s : State) : Nat × State :=
  match st.lastStep with
  | some n => (n, s)
  | none => freshVal s 64

/-- Build the record of a job. -/
def buildRecord (x : Ctx) (st : Stream) (j : DeltaJob) (s : State) : State × Option Bytes :=
  match j with
  | .start n => (s, some (plainRecord st x.pitch 1 st.seq n
      (pad64 (natLe 8 n ++ natLe 1 st.lag ++ natLe 3 0 ++ natLe 4 (jobDevices x.pitch) ++ natLe 4 (planOf x.pitch).recs.length))))
  | .packs n g f first k got => packsRecord st x n g f first k got s
  | .stepEnd n r a => (s, some (plainRecord st x.pitch 3 st.seq n (stepEndPayload (a.getD (0, 0)) st r)))
  | .endRec r =>
    let (n, s) := lastStepOf st s
    (s, some (plainRecord st x.pitch 4 st.seq n (pad64 (natLe 8 n ++ natLe 4 r))))

/-! ### Destinations (R229, R230, R398) -/

/-- Room in a ring from TAIL on, with one 64-byte unit kept free. -/
def ringFree (st : Stream) : Nat :=
  let cap := st.size - 64
  cap - (st.tail + cap - st.head) % cap - 64

/-- The ring bytes that a record takes at TAIL: the record, after a PAD where it does not fit before the end. -/
def ringNeeds (st : Stream) (n : Nat) : Nat := if st.tail + n ≤ st.size then n else st.size - st.tail + n

/-- The next TAIL after `n` bytes at `a`. -/
def ringNext (st : Stream) (a n : Nat) : Nat := if a + n = st.size then 64 else a + n

/-- Write a record into the ring, with its PAD and TAIL (R229). -/
def ringPut (f : Nat) (p : Pitch) (st : Stream) (rec' : Bytes) (s : State) : State × Stream :=
  let fits := decide (st.tail + rec'.length ≤ st.size)
  let s := if fits then s else hostWrite s f (st.ring + st.tail) (padRecord st p (st.size - st.tail))
  let a := if fits then st.tail else 64
  let s := hostWrite s f (st.ring + a) rec'
  let t := ringNext st a rec'.length
  (hostWrite s f (st.ring + 8) (natLe 8 t), { st with tail := t })

/-- What an attempt to send gives. -/
inductive Sent where
  | done (s : State) (st : Stream)
  | noRoom (st : Stream)
  | failed

/-- Send a record: into a ring once it has room, HEAD being read where it lacks it; or as one DELTA message (R229, R398). -/
def sendRecord (f state : Nat) (p : Pitch) (st : Stream) (rec' : Bytes) (s : State) : Sent :=
  if st.dest = 1 then
    let n := rec'.length
    let lacks := decide (ringFree st < ringNeeds st n)
    let st := if lacks then { st with head := leNat (hostRead s f st.ring 8) } else st
    if lacks && !hostOk s f st.ring 8 then .failed
    else if ringFree st < ringNeeds st n then .noRoom st
    else
      let (s, st) := ringPut f p st rec' s
      .done s { st with seq := st.seq + 1 }
  else if portUp s st.port then
    .done (sendMsg st.port 2 st.device 32 rec' s)
      { st with seq := st.seq + 1, sent := st.sent ++ [(st.seq, state, rec'.length, st.id)],
                ackAt := if st.sent.isEmpty then s.timeBase else st.ackAt }
  else .failed

/-- STREAM and BROKEN of STEP_STATE follow the stream. -/
def syncStream (c : Nat) (s : State) : State :=
  let t := trainGet s c
  let k := Reg.STEP_STATE c
  setB (setB s k 26 t.stream.isSome) k 25 ((t.stream.map (·.broken)).getD false)

/-- The snapshot has been accepted once no record of it is left (R232). -/
def snapDone (st : Stream) : Stream :=
  match st.snapState with
  | none => st
  | some n => if st.jobs.any (fun j => !isEnd j && jobState j ≤ n) || st.sent.any (fun e => e.2.1 ≤ n) then st
    else { st with snapState := none }

/-- Set the stream of a context. -/
def setStream (c : Nat) (st : Option Stream) (s : State) : State :=
  syncStream c (trainMod c (fun t => { t with stream := st.map snapDone }) s)

/-- A destination fails: the stream is broken, nothing more is sent, and a context that has finished its sweep is held
(R231). Where a later attach waits for the stream's end, its stream takes over (log entry 96). -/
def breakStream (c : Nat) (s : State) : State :=
  match (trainGet s c).stream with
  | none => s
  | some st =>
    let s := orR s (Reg.CTX_SWEEP_CAUSE c) 0x10
    match (trainGet s c).next with
    | some n => setStream c (some n) (trainMod c (fun t => { t with next := none }) s)
    | none =>
      let s := setStream c (some { st with broken := true, jobs := [], sent := [], snapState := none }) s
      if phaseOf s c = 4 then setPhase c 5 s else s

/-- A stream as it opens. -/
def newStream (a : DeltaArgs) (id : Nat) : Stream :=
  { minor := if a.verMajor = 1 ∧ a.verMinor = 0 then 0 else 1, dest := a.dest, ring := a.ringAddr, size := a.ringSize,
    port := a.port, device := a.device, lag := a.lag, id := id, seq := 0, tail := 64, head := 64, jobs := [], sent := [],
    lastStep := none, records := 0, firstSeq := 0, bytes := 0, ackAt := 0, broken := false, snapOwed := true,
    snapState := none }

/-- A fresh STREAM_ID (R225); none where the DRBG does not serve. -/
def streamId (s : State) : State × Option Nat := let (s, b) := draw false 8 s; (s, b.map leNat)

/-- The stream's counts after a record has been sent. -/
def countRecord (j : DeltaJob) (len : Nat) (st : Stream) : Stream :=
  match j with
  | .packs _ _ _ _ _ _ => { st with firstSeq := if st.records = 0 then st.seq else st.firstSeq, records := st.records + 1, bytes := st.bytes + len }
  | .stepEnd n _ _ => { st with lastStep := some n, records := 0, firstSeq := 0, bytes := 0 }
  | _ => st

/-- The stream ends with REASON 0x04, and a new one opens as at attach; records of the old one may still be unacknowledged (R228). -/
def renewStream (c : Nat) (st : Stream) (s : State) : State :=
  match streamId s with
  | (s, none) => breakStream c s
  | (s, some id) => setStream c (some { st with
      id := id, seq := 0, jobs := [], records := 0, firstSeq := 0, bytes := 0, lastStep := none, snapOwed := true, snapState := none }) s

/-- Build and send the next record of a context's stream (R229). -/
def deltaStep (c : Nat) (x : Ctx) (st : Stream) (s : State) : State :=
  let st := if 2 ^ 32 - 1 ≤ st.seq ∧ ¬ (st.jobs.head?.map isEnd).getD false then { st with jobs := [.endRec 4] } else st
  match st.jobs with
  | [] => s
  | j :: js =>
    if !jobReady j then s
    else
      let (t, r) := buildRecord x st j s
      match r with
      | none => t
      | some b => match sendRecord x.fn (jobState j) x.pitch st b t with
        | .failed => breakStream c s
        | .noRoom st' => trainMod c (fun t => { t with stream := some st' }) s
        | .done u st' =>
          let len := match j with
            | .packs _ g f _ n _ => packsLen s x g f n
            | _ => 0
          let st' := { countRecord j len { st' with seq := st.seq } with seq := st'.seq, jobs := js }
          let u := if st'.dest = 1 then addR u (Reg.DELTA_BYTES c) (ringNeeds st b.length) else u
          match j with
          | .endRec 4 => renewStream c st' u
          | _ => setStream c (some st') u

/-- The END of a stream that has ended is sent once its ring has room (R233). -/
def sendEnding (e : Ending) (s : State) : State :=
  match sendRecord e.fn 0 e.pitch e.stream e.record s with
  | .done t _ => addR { t with endings := t.endings.erase e } (Reg.DELTA_BYTES e.ctx) (ringNeeds e.stream e.record.length)
  | .noRoom _ => s
  | .failed => { s with endings := s.endings.erase e }

/-- DELTA_RECORD: what an ended stream of the context has left goes first (R229, R233). -/
def deltaRecord (c : Nat) (s : State) : State :=
  match s.endings.find? (fun e => e.ctx == c) with
  | some e => if healthy s && awake s then sendEnding e s else s
  | none =>
    match training s c, (trainGet s c).stream with
    | some x, some st => if healthy s && awake s && !st.broken then deltaStep c x st s else s
    | _, _ => s

def execDeltaRecord (c : CtxId) (s : State) : Out := commit s (deltaRecord c.val s)

/-! ### Acceptance and waits (R230, R398) -/

/-- Every record of a state and of those before it has been accepted. -/
def acceptedTo (st : Stream) (state : Nat) : Bool :=
  st.jobs.all (fun j => isEnd j || state < jobState j) && st.sent.all (fun e => state < e.2.1)

/-- The open stream of the part that an identifier names. -/
def streamOf (s : State) (id : Nat) : Option (Nat × Stream) :=
  s.train.findSome? (fun e => match e.2.stream with
    | some st => if (st.id = id ∨ st.sent.any (fun r => r.2.2.2 == id)) ∧ st.dest = 2 ∧ ¬ st.broken then some (e.1, st) else none
    | none => none)

/-- An ACK for this part accepts every record up to its SEQ (R398). -/
def ackStream (body : Bytes) (s : State) : State :=
  match (if body.length = 32 then streamOf s (fieldAt body 0 8) else none) with
  | none => fabStray s
  | some (c, st) =>
    let (done, left) := st.sent.partition (fun e => e.2.2.2 == fieldAt body 0 8 && e.1 ≤ fieldAt body 8 8)
    if done.isEmpty then s
    else
      let s := addR s (Reg.DELTA_BYTES c) ((done.map (·.2.2.1)).foldl (· + ·) 0)
      setStream c (some { st with sent := left, ackAt := s.timeBase }) s

/-- ACK: an ACK message accepts records, is forwarded, or is a stray (R398). -/
def ackIn (p dest hops : Nat) (body : Bytes) (s : State) : State :=
  if arrives s p body then
    let (s, ok) := switchMeet p false (takeMessage p 3 body s)
    if !ok then s
    else if dest % 65536 = fabricId s then ackStream body s
    else forward 3 (dest % 65536) hops body s
  else s

def execAck (p : PortId) (dest hops : Nat) (body : Bytes) (s : State) : Out := commit s (ackIn p.val dest hops body s)

/-- ACK_TIMEOUT: records are outstanding and no ACK has advanced for 100 ms (R398). -/
def ackTimeout (c : Nat) (s : State) : State :=
  match (trainGet s c).stream with
  | some st => if !st.broken && !st.sent.isEmpty && st.ackAt + 2500000 ≤ s.timeBase && healthy s then breakStream c s else s
  | none => s

def execAckTimeout (c : CtxId) (s : State) : Out := commit s (ackTimeout c.val s)

/-- A wait under R230 begins, unless one is under way. -/
def beginWait (c : Nat) (s : State) : State :=
  trainMod c (fun t => { t with wait := some (t.wait.getD (s.timeBase, false)) }) s

/-- A wait under R230 ends, and its cycles are counted. -/
def endWait (c : Nat) (s : State) : State :=
  match (trainGet s c).wait with
  | none => s
  | some (t, _) => trainMod c (fun x => { x with wait := none }) (addR s (Reg.DELTA_WAIT c) (s.timeBase - t))

/-- DELTA_WAIT: a single wait exceeds 1 ms, once for each wait (R230). -/
def deltaWait (c : Nat) (s : State) : State :=
  match (trainGet s c).wait with
  | some (t, false) =>
    if t + msAon < s.timeBase then
      orR (trainMod c (fun x => { x with wait := some (t, true) }) s) (Reg.CTX_SWEEP_CAUSE c) 8
    else s
  | _ => s

def execDeltaWait (c : CtxId) (s : State) : Out := commit s (deltaWait c.val s)

/-! ### Opening and ending (R224, R231-R233) -/

/-- The packs that some PACKS records name, as they are delivered now (R232); none where a read fails. -/
def captureAll (x : Ctx) : List DeltaJob → State → State × List DeltaJob
  | [], s => (s, [])
  | .packs n g f first k got :: js, s =>
    let (s, q) := match (groupRec x.pitch g).bind (fun r => formObj s x r (formPlace f)) with
      | some o => runPacks o (upFrom first k) s
      | none => (s, none)
    let (s, js) := captureAll x js s
    (s, .packs n g f first k (q.getD got) :: js)
  | j :: js, s =>
    let (s, js) := captureAll x js s
    (s, j :: js)

/-- Enqueue a snapshot of a state as it stands: START, every pack, STEP_END with RESULT 2 (R232). -/
def takeSnapshot (c : Nat) (x : Ctx) (state : Nat) (s : State) : State :=
  match (trainGet s c).stream with
  | some st => if st.snapOwed then
      let (s, js) := captureAll x (stateJobs x.pitch state false) s
      setStream c (some { st with snapOwed := false, snapState := some state,
                                  jobs := [.start state] ++ js ++ [.stepEnd state 2 (some (scaleOf s c))] }) s
    else s
  | none => s

/-- Packs of a form, as the sweep hands them over, enter the records of a state that carry them (R229). -/
def capture (c state g : Nat) (got : List (Nat × Nat × Bytes × Bytes)) (s : State) : State :=
  let take := fun (j : DeltaJob) => match j with
    | .packs n h f first k old =>
      if n = state ∧ h = g then
        .packs n h f first k (old ++ (got.filter (fun e => e.1 == formPlace f && first ≤ e.2.1 && e.2.1 < first + k)).map (·.2))
      else j
    | _ => j
  trainMod c (fun t => { t with stream := t.stream.map (fun st => { st with jobs := st.jobs.map take }) }) s

/-- A wait under R230 ends with its stream, and the stream is gone. -/
def closeStream (c : Nat) (s : State) : State :=
  syncStream c (trainMod c (fun t => { t with stream := none, next := none }) (endWait c s))

/-- The path of a stream works and it has begun, without having sent its END. -/
def streamOpen (t : Train) (st : Stream) : Bool := !st.broken && st.seq != 0 && !(t.next.isSome && st.jobs.isEmpty)

/-- A stream ends: its records in progress are dropped, END is sent where the path works and the stream has sent its
START; with no room in its ring END waits for room (R226, R233). -/
def endStream (c reason : Nat) (s : State) : State :=
  match ctxGet s c, (trainGet s c).stream with
  | some x, some st =>
    if streamOpen (trainGet s c) st then
      let (n, s) := lastStepOf st s
      let b := plainRecord st x.pitch 4 st.seq n (pad64 (natLe 8 n ++ natLe 4 reason))
      match sendRecord x.fn 0 x.pitch st b s with
      | .done t _ => closeStream c (if st.dest = 1 then addR t (Reg.DELTA_BYTES c) (ringNeeds st b.length) else t)
      | .noRoom st' => closeStream c { s with
          endings := s.endings ++ [{ ctx := c, fn := x.fn, pitch := x.pitch, stream := st', record := b }] }
      | .failed => closeStream c s
    else closeStream c s
  | _, _ => s

/-- FINAL on a stream whose path works (R233); a ring that has no room within the 1 ms of R466 takes none. -/
def finalStream (code : Nat) (s : State) (c : Nat) : State :=
  match ctxGet s c, (trainGet s c).stream with
  | some x, some st =>
    if streamOpen (trainGet s c) st then
      let (n, s) := lastStepOf st s
      let b := plainRecord st x.pitch 5 st.seq n (pad64 (natLe 8 n ++ natLe 4 0x10 ++ natLe 4 code))
      match sendRecord x.fn 0 x.pitch st b s with
      | .done t _ => closeStream c (if st.dest = 1 then addR t (Reg.DELTA_BYTES c) (ringNeeds st b.length) else t)
      | _ => closeStream c s
    else closeStream c s
  | _, _ => s

/-- A ring keeps its rule (R224). -/
def ringOk (a n : Nat) : Bool := a % 65536 == 0 && ((upFrom 20 11).any (fun k => n == 2 ^ k))

/-- The result code of an attach that is refused (R224). -/
def attachCode (s : State) (x : Ctx) (a : DeltaArgs) (st : Option Stream) : Nat :=
  let sealed := (planOf x.pitch).recs.any (fun r => (List.range 6).any (fun k => match formObj s x r k with
    | some o => o.oflags.testBit 3
    | none => false))
  if a.dest ≠ 0 ∧ (a.verMajor = 0 ∨ (a.verMajor = 1 ∧ a.verMinor = 0 ∧ sealed)) then 3
  else if a.dest = 1 ∧ ¬ ringOk a.ringAddr a.ringSize then 4
  else if a.dest = 2 ∧ (¬ portUp s a.port ∨ a.device = fabricId s) then 5
  else if (st.bind (·.snapState)).isSome then 6
  else 0

/-- A context held on a broken stream goes on to its completion signal. -/
def releaseHold (c : Nat) (s : State) : State := if phaseOf s c = 5 then setPhase c 4 s else s

/-- DELTA_ATTACH (R224, R231-R233). -/
def deltaAttach (h : CmdHdr) (a : DeltaArgs) (s : State) : State :=
  if 2 < a.dest ∨ 3 < a.lag then reject h 2 s
  else match ctxGet s a.ctx with
    | none => finish h 1 0 0 s
    | some x =>
      let st := (trainGet s a.ctx).stream
      let code := attachCode s x a st
      if x.fn ≠ h.fn.val then finish h 1 0 0 s
      else if ¬ x.pitch.flags.testBit 0 then finish h 2 0 0 s
      else if code ≠ 0 then finish h code 0 0 s
      else if a.dest = 0 then
        finish h 0 0 0 (releaseHold a.ctx (syncStream a.ctx (trainMod a.ctx (fun t => { t with stream := none, next := none }) (endWait a.ctx s))))
      else match streamId s with
        | (s, none) => reject h 6 s
        | (s, some id) =>
          let new := newStream a id
          let openOld := match st with | some o => !o.broken && !o.snapOwed | none => false
          let s := if openOld then
              trainMod a.ctx (fun t => { t with next := some new, stream := t.stream.map (fun o =>
                { o with jobs := if o.jobs.any isEnd then o.jobs else o.jobs ++ [.endRec 2] }) }) s
            else releaseHold a.ctx (setStream a.ctx (some new) (trainMod a.ctx (fun t => { t with next := none }) s))
          finish h 0 0 0 s

def execDeltaAttach (h : CmdHdr) (a : DeltaArgs) (s : State) : Out :=
  commit s (hostCmd (.deltaAttach h a) h .refused (deltaAttach h a) s)

end Sys2Proof.Machine
end

