-- ==== Sys2Proof/Machine/Train.lean ====
section
/-! DEFINITION. The training step (R236-R271): the finite vote, the sweep engines and their update rules, the loss scale, the
completion of a step. -/

namespace Sys2Proof.Machine

/-! ### The vote (R242-R247) -/

/-- The vote sequence of the step body under way, with the figure at which the next body begins. -/
def bodyNow (x : Ctx) (t : Train) : List Nat × Option Nat :=
  match usedTiles x.pitch.tileMap with
  | [] => ([], none)
  | l :: _ => let fs := figsOf x.pitch l; bodyVotes fs fs.length t.body

/-- The step and VOTE_ID of the vote that a context is in or takes next (R246). -/
def nextVote (s : State) (c : Nat) (x : Ctx) : Option (Nat × Nat) :=
  let t := trainGet s c
  let (vs, n) := bodyNow x t
  let step := getR s (Reg.STEP c)
  match vs[t.votesDone]? with
  | some v => some (step, v)
  | none => match n with
    | none => none
    | some b => (bodyNow x { t with body := b }).1.head?.map (fun v => ((step + 1) % 2 ^ 64, v))

/-- The vote record of a VOTE_ID. -/
def voteRec (p : Pitch) (id : Nat) : Option VoteRec := p.votes.find? (fun v => v.id == id)

/-- A device that is its own root. -/
def isRoot (v : VoteRec) : Bool := v.jobDevices == 1 || v.parent == v.device

/-- The ports behind which children lie. -/
def childPorts (v : VoteRec) : List Nat := if v.jobDevices = 1 then [] else bitPositions 8 v.children

/-- A vote message (R243). -/
def voteMessage (p : Pitch) (step : Nat) (v : VoteRec) (kind : Nat) (flag : Bool) : Bytes :=
  natLe 8 p.pitchId ++ natLe 8 step ++ natLe 2 v.id ++ natLe 2 v.device ++ natLe 1 kind ++ natLe 1 (b2n flag) ++ natLe 10 0

/-- The VOTE of a tile completes: the result is stored, and a token posted (R131). -/
def landVote (c : Nat) (res : Bool) (s : State) (site : Nat) : State :=
  match (tcGet s c site).bind (·.vote) with
  | none => s
  | some (_, post, _) =>
    let k := Reg.CTX_FLAGS site (slotOf s c site)
    let s := setF s k 2 1 (2 + b2n res)
    let s := tcMod c site (fun t => { t with vote := none, votesDone := t.votesDone + 1 }) s
    let s := match post with
      | some tok => postToken c site tok s
      | none => s
    syncSite site (if (siteGet s site).active = some c then holdOff site s else s)

/-- A device applies the result of a vote: it sends DOWN to its children, and every VOTE of the vote completes (R242). -/
def applyVote (c : Nat) (x : Ctx) (step : Nat) (v : VoteRec) (res : Bool) (s : State) : State :=
  let s := (childPorts v).foldl (fun s p => sendMsg p 1 (peerId s p) 32 (voteMessage x.pitch step v 1 res) s) s
  let took := match (trainGet s c).vote.flag with
    | some (_, t) => s.timeBase - t
    | none => 0
  let s := maxR (setR s (Reg.VOTE_TIME c) (min took 0xFFFFFFFF)) (Reg.VOTE_MAX c) (min took 0xFFFFFFFF)
  let s := trainMod c (fun t => { t with
    votesDone := t.votesDone + 1, result := some res, vote := { flag := none, ups := [] } }) s
  (x.tiles.map (·.1)).foldl (landVote c res) s

/-- Once the chip flag is formed and every child has sent UP: the root takes the OR, every other device sends UP (R242). -/
def resolveVote (c : Nat) (x : Ctx) (step : Nat) (v : VoteRec) (s : State) : State :=
  let t := trainGet s c
  match t.vote.flag with
  | none => s
  | some (f, _) =>
    if (childPorts v).all (fun p => (tget t.vote.ups p).isSome) then
      let all := f || t.vote.ups.any (·.2)
      if isRoot v then applyVote c x step v all s
      else sendMsg v.parentPort 1 (peerId s v.parentPort) 32 (voteMessage x.pitch step v 0 all) s
    else s

/-- The flags that the tiles of a context have put into a vote, once every used tile has issued it (R131). -/
def tileFlags (x : Ctx) (id : Nat) : Option Bool :=
  let vs := x.tiles.map (fun e => e.2.vote)
  if vs.isEmpty then none
  else if vs.all (fun v => match v with | some (i, _, _) => i == id | none => false) then
    some (vs.any (fun v => match v with | some (_, _, f) => f | none => false))
  else none

/-- CHIP_FLAG: every used tile has issued the vote; the chip flag is formed and enters the vote tree (R131, R242). -/
def chipFlag (c : Nat) (s : State) : State :=
  match training s c with
  | none => s
  | some x =>
    match nextVote s c x with
    | none => s
    | some (step, id) =>
      match tileFlags x id, voteRec x.pitch id with
      | some f, some v =>
        if healthy s && awake s && (trainGet s c).vote.flag.isNone then
          resolveVote c x step v (trainMod c (fun t => { t with vote := { t.vote with flag := some (f, s.timeBase) } }) s)
        else s
      | _, _ => s

def execChipFlag (c : CtxId) (s : State) : Out := commit s (chipFlag c.val s)

/-- A stray vote message (R246). -/
def voteStray (s : State) : State := satR (orR s Reg.VOTE_CAUSE 1) Reg.VOTE_STRAYS 1

/-- The lowest resident context whose next vote a message names: its context, step, record; a context that has not started is in no
vote, and takes none but an UP. -/
def voteTarget (s : State) (kind : Nat) (body : Bytes) : Option (Nat × Ctx × Nat × VoteRec) :=
  s.ctxs.findSome? (fun e =>
    if e.2.pitch.flags.testBit 0 && (kind == 0 || e.2.started) && e.2.pitch.pitchId == fieldAt body 0 8 then
      match nextVote s e.1 e.2 with
      | some (step, id) =>
        if step = fieldAt body 8 8 ∧ id = fieldAt body 16 2 then (voteRec e.2.pitch id).map (fun v => (e.1, e.2, step, v)) else none
      | none => none
    else none)

/-- A vote message for this part, well-formed; otherwise none, and it is a stray (R243, R398, R402). -/
def voteBody (dest kind : Nat) (body : Bytes) (s : State) : Option (Nat × Ctx × Nat × VoteRec) :=
  if healthy s && dest % 65536 == fabricId s && body.length == 32 && fieldAt body 20 1 == kind then voteTarget s kind body else none

/-- UP: held by its child port, and the vote goes on once all are there (R242, R246). -/
def upIn (p dest : Nat) (body : Bytes) (s : State) : State :=
  if arrives s p body then
    let (s, ok) := switchMeet p (dest % 65536 == fabricId s) (takeMessage p 1 body s)
    if !ok then s
    else match voteBody dest 0 body s with
      | none => voteStray s
      | some (c, x, step, v) =>
        if (childPorts v).contains p && (tget (trainGet s c).vote.ups p).isNone then
          resolveVote c x step v
            (trainMod c (fun t => { t with vote := { t.vote with ups := tput t.vote.ups p (fieldAt body 21 1 == 1) } }) s)
        else voteStray s
  else s

def execUp (p : PortId) (dest : Nat) (body : Bytes) (s : State) : Out := commit s (upIn p.val dest body s)

/-- DOWN: applied on the parent port when it matches the vote that the context is in (R242, R246). -/
def downIn (p dest : Nat) (body : Bytes) (s : State) : State :=
  if arrives s p body then
    let (s, ok) := switchMeet p (dest % 65536 == fabricId s) (takeMessage p 1 body s)
    if !ok then s
    else match voteBody dest 1 body s with
      | none => voteStray s
      | some (c, x, step, v) =>
        if !isRoot v && v.parentPort == p && (trainGet s c).vote.flag.isSome then
          applyVote c x step v (fieldAt body 21 1 == 1) s
        else voteStray s
  else s

def execDown (p : PortId) (dest : Nat) (body : Bytes) (s : State) : Out := commit s (downIn p.val dest body s)

/-- VOTE_TIMEOUT: the result has not come TIMEOUT µs after the chip flag (R245). -/
def voteTimeout (c : Nat) (s : State) : State :=
  match training s c, (trainGet s c).vote.flag with
  | some x, some (_, t) =>
    match nextVote s c x with
    | some (_, id) => match voteRec x.pitch id with
      | some v =>
        if healthy s && t + v.timeout * usAon ≤ s.timeBase then
          chipFault 0x0E (c * 2 ^ 16 + id) (orR s (Reg.CTX_SWEEP_CAUSE c) 0x20)
        else s
      | none => s
    | none => s
  | _, _ => s

def execVoteTimeout (c : CtxId) (s : State) : Out := commit s (voteTimeout c.val s)

/-! ### Arithmetic of the engines (R253) -/

/-- Division, correctly rounded. -/
def div32 (a b : Fp) : Fp :=
  match a, b with
  | .nan, _ => .nan
  | _, .nan => .nan
  | .inf _, .inf _ => .nan
  | .inf n, .fin m _ _ => .inf (n != m)
  | .fin n _ _, .inf m => .fin (n != m) 0 0
  | .fin n ma ea, .fin m mb eb =>
    if mb = 0 then (if ma = 0 then .nan else .inf (n != m))
    else r32 (.fin (n != m) (2 * (ma * 2 ^ 300 / mb) + (if ma * 2 ^ 300 % mb = 0 then 0 else 1)) (ea - eb - 301))

/-- Square root, correctly rounded. -/
def sqrt32 (a : Fp) : Fp :=
  match a with
  | .nan => .nan
  | .inf n => if n then .nan else .inf false
  | .fin n m e =>
    if m = 0 then .fin n 0 0
    else if n then .nan
    else
      let (m, e) := if e % 2 = 0 then (m, e) else (2 * m, e - 1)
      let q := m * 2 ^ 200
      let r := Nat.sqrt q
      r32 (.fin false (2 * r + (if r * r = q then 0 else 1)) (e / 2 - 101))

/-- sign of R259. -/
def signOf (a : Fp) : Fp :=
  if a.isZero then .fin false 0 0
  else match a with
    | .nan => .nan
    | _ => .fin a.isNeg 1 0

/-- The new values of one parameter: master, first moment, second moment (R255-R257, R259). `w` gives the constants. -/
def ruleStep (rule : Nat) (w : Nat → Fp) (th g m v : Fp) : Fp × Fp × Fp :=
  let a := fma32 (w 1).negate th th
  match rule with
  | 0 => (fma32 (w 0).negate g a, m, v)
  | 1 =>
    let v' := fma32 (w 2) m (mul32 (w 3) g)
    (fma32 (w 0).negate v' a, v', v)
  | 2 =>
    let v' := fma32 (w 2) m (mul32 (w 3) g)
    (fma32 (w 0).negate (fma32 (w 2) v' g) a, v', v)
  | 3 =>
    let m' := fma32 (w 2) m (mul32 (w 3) g)
    let v' := fma32 (w 4) v (mul32 (w 5) (mul32 g g))
    let d := fma32 (sqrt32 v') (w 6) (w 7)
    (fma32 (w 0).negate (div32 m' d) a, m', v')
  | _ =>
    let c := fma32 (w 2) m (mul32 (w 3) g)
    (fma32 (w 0).negate (signOf c) a, fma32 (w 4) m (mul32 (w 5) g), v)

/-- INV_SCALE (R237). -/
def invScale (w : Nat) : Nat := (254 - w / 2 ^ 23) * 2 ^ 23

/-- The constants of a group in a step (R254). -/
def stepConst (pl : SweepPlan) (r : SweepRec) (n j : Nat) : Nat := constWord pl (r.constIndex + min n (r.constSteps - 1)) j

/-! ### Packs of a sweep (R250-R252) -/

/-- Sweep engines in service, ascending. -/
def enginesOn (s : State) : List Nat := (List.range 8).filter (fun u => bitR s (Reg.SWEEP_STATUS u) 31)

/-- The page of pack k of an object. -/
def packPage (o : Obj) (k : Nat) : Option PageLoc := o.pages[slotOff o k / pageSize]?

/-- The engine of pack k of the high half (R250). -/
def engineOf (s : State) (hi : Obj) (k : Nat) : Nat :=
  match packPage hi k with
  | some (.near st _) => st
  | _ => let us := enginesOn s; nth us (slotOff hi k / pageSize % us.length)

/-- The tasks of one group: every pack once, or three passes by one engine under Adafactor (R250, R258); in a skipped step, the error
term of every pack for the delta stream (R229, R248). -/
def groupTasks (s : State) (x : Ctx) (skip : Bool) (g : Nat) (r : SweepRec) : List SweepTask :=
  match formObj s x r 0 with
  | none => []
  | some hi =>
    let n := r.params / 1024
    if skip then (List.range n).map (fun k => { group := g, pack := k, pass := 4, engine := engineOf s hi (if r.rule = 4 then 0 else k) })
    else if r.rule = 4 then
      (upFrom 1 3).flatMap (fun p => (List.range n).map (fun k => { group := g, pack := k, pass := p, engine := engineOf s hi 0 }))
    else (List.range n).map (fun k => { group := g, pack := k, pass := 0, engine := engineOf s hi k })

/-- The forms whose pack k a rule's pass reads, by place in OBJECTS: every form, the error term for the delta stream, which is all
that a skipped step reads (R216, R252, R258, R261). The accumulators of Adafactor are read at the end of pass 1. -/
def passForms (r : SweepRec) (pass : Nat) : List Nat :=
  if pass = 4 then [3]
  else if r.rule = 4 then (if pass = 3 then [0, 1, 2, 3] else [2])
  else (List.range 6).filter (usesForm r.rule)

/-- The forms of a pack, with the packs of each that belong to it: pack k of every form, and under Adafactor every pack of the
accumulators (R222, R251). -/
def packForms (pl : SweepPlan) (r : SweepRec) (k : Nat) : List (Nat × Nat) :=
  ((List.range 6).filter (usesForm r.rule)).flatMap (fun f =>
    if f = 5 ∧ r.rule = 4 then (List.range (formPacks pl r 5)).map (fun p => (5, p)) else [(f, k)])

/-- A pack of a form lies in the far store. -/
def farPack (o : Obj) (k : Nat) : Bool :=
  match packPage o k with
  | some (.far _) => true
  | _ => false

/-- A pack is swept in the far phase: its group is planned so, or some form of it lies in the far store (R251). -/
def farTask (s : State) (x : Ctx) (k : SweepTask) : Bool :=
  match groupRec x.pitch k.group with
  | none => false
  | some r => r.gflags.testBit 0 || (packForms (planOf x.pitch) r k.pack).any (fun e =>
      match formObj s x r e.1 with | some o => farPack o e.2 | none => false)

/-- Read a pack of each form named; none where a read fails. -/
def readForms (x : Ctx) (r : SweepRec) (k : Nat) : List Nat → State → State × Option (Tbl (Bytes × Bytes))
  | [], s => (s, some [])
  | f :: fs, s =>
    match formObj s x r f with
    | none => (s, none)
    | some o =>
      let (s, q) := expandPack true o k s
      if q.err ≠ 0 then (s, none)
      else
        let (s, t) := readForms x r k fs s
        (s, t.map (fun t => (f, (q.raw, q.scale)) :: t))

/-- What writing some packs gives: done, a wait for a salt, or a failure. -/
inductive Wrote where
  | done (s : State)
  | salt (u : Nat)
  | failed (s : State)

/-- Write packs of forms in order: place in OBJECTS, pack, bytes. -/
def writeForms (x : Ctx) (r : SweepRec) : List (Nat × Nat × Bytes) → State → Wrote
  | [], s => .done s
  | (f, k, b) :: rest, s =>
    match formObj s x r f with
    | none => .failed s
    | some o =>
      let (t, q) := writePack true o k b [] s
      if q.err = 8 then .salt (unitOf s o k)
      else if q.err ≠ 0 then .failed t
      else writeForms x r rest t

/-- The FP32 values of a pack of a first- or second-moment form. -/
def f32s (b : Bytes) : List Fp := (elemCodes 32 b).map ofF32

/-- The gradient of each parameter of a pack: decoded, times INV_SCALE, rounded (R85, R255). -/
def grads (inv : Nat) (b : Bytes × Bytes) : List Fp :=
  let c := elemCodes 8 b.1
  (indexed c).map (fun e => r32 ((scaled32 (fieldAt b.2 (e.1 / 32) 1) (decode .e5m2 e.2)).mul (ofF32 inv)))

/-- The masters of a pack (R84). -/
def masters (hi lo : Bytes) : List Fp :=
  (List.zip (elemCodes 16 hi) (elemCodes 16 lo)).map (fun e => ofF32 (e.1 * 65536 + e.2))

/-- Bytes of the high halves and of the low halves of masters. -/
def highBytes (l : List Nat) : Bytes := l.flatMap (fun w => natLe 2 (w / 65536))
def lowBytes (l : List Nat) : Bytes := l.flatMap (fun w => natLe 2 w)
def wordBytes (l : List Nat) : Bytes := l.flatMap (fun w => natLe 4 w)

/-- Values that are not finite. -/
def badWords (l : List Nat) : Nat := (l.filter (fun w => !finite32 w)).length

/-- The bytes of a form of a table of packs read. -/
def formBytes (t : Tbl (Bytes × Bytes)) (f : Nat) : Bytes × Bytes := tgetD t f ([], [])

/-- What one task computes: the packs to write in the order of R252, the non-finite values among them, the group's
Adafactor state. -/
structure TaskOut where
  writes : List (Nat × Nat × Bytes)
  bad : Nat
  fac : Option Factors
  deriving DecidableEq, Repr

/-- One pack under every rule but Adafactor (R252-R257, R259). -/
def sweepPlain (pl : SweepPlan) (r : SweepRec) (step inv k : Nat) (t : Tbl (Bytes × Bytes)) : TaskOut :=
  let w := fun j => ofF32 (stepConst pl r step j)
  let th := masters (formBytes t 0).1 (formBytes t 1).1
  let gs := grads inv (formBytes t 2)
  let zero := List.replicate 1024 (Fp.fin false 0 0)
  let ms := if usesForm r.rule 4 then f32s (formBytes t 4).1 else zero
  let vs := if usesForm r.rule 5 then f32s (formBytes t 5).1 else zero
  let out := (List.zip (List.zip th gs) (List.zip ms vs)).map (fun e => ruleStep r.rule w e.1.1 e.1.2 e.2.1 e.2.2)
  let nth' := out.map (fun o => toF32 o.1)
  let nm := out.map (fun o => toF32 o.2.1)
  let nv := out.map (fun o => toF32 o.2.2)
  { writes := (if usesForm r.rule 4 then [(4, k, wordBytes nm)] else [])
      ++ (if usesForm r.rule 5 then [(5, k, wordBytes nv)] else []) ++ [(1, k, lowBytes nth'), (0, k, highBytes nth')],
    bad := badWords nth' + (if usesForm r.rule 4 then badWords nm else 0) + (if usesForm r.rule 5 then badWords nv else 0),
    fac := none }

/-! ### Adafactor (R258) -/

/-- Row and column of element e of pack k of a matrix with C columns (R161, R222). -/
def matrixAt (cols k e : Nat) : Nat × Nat := (32 * (k / (cols / 32)) + e / 32, 32 * (k % (cols / 32)) + e % 32)

/-- An FP32 word of a sparse vector; +0.0 where it is not listed. -/
def vec32 (t : Tbl Nat) (i : Nat) : Fp := ofF32 (tgetD t i 0)
/-- Set a word of a sparse vector. -/
def vecSet (t : Tbl Nat) (i : Nat) (x : Fp) : Tbl Nat := let w := toF32 x; if w = 0 then tdel t i else tput t i w

/-- Pass 1 adds the squares of a pack to its row and column sums. -/
def adaSums (c4 : Fp) (cols k : Nat) (gs : List Fp) (f : Factors) : Factors :=
  (indexed gs).foldl (fun f e =>
    let (a, b) := matrixAt cols k e.1
    let q := fma32 e.2 e.2 c4
    { f with rs := vecSet f.rs a (add32 (vec32 f.rs a) q), cs := vecSet f.cs b (add32 (vec32 f.cs b) q) }) f

/-- An unsigned integer as FP32. -/
def ofCount (n : Nat) : Fp := r32 (Fp.ofInt n)

/-- The end of pass 1: new accumulators and their mean. -/
def adaClose (w : Nat → Fp) (rows cols : Nat) (r0 k0 : List Fp) (f : Factors) : Factors :=
  let r' := (List.range rows).map (fun a =>
    fma32 (w 2) (r0.getD a (.fin false 0 0)) (mul32 (w 3) (div32 (vec32 f.rs a) (ofCount cols))))
  let k' := (List.range cols).map (fun b =>
    fma32 (w 2) (k0.getD b (.fin false 0 0)) (mul32 (w 3) (div32 (vec32 f.cs b) (ofCount rows))))
  let fill := fun (l : List Fp) => (indexed l).foldl (fun t e => vecSet t e.1 e.2) ([] : Tbl Nat)
  { f with rs := [], cs := [], r := fill r', k := fill k',
           rbar := toF32 (div32 (r'.foldl add32 (.fin false 0 0)) (ofCount rows)) }

/-- u of passes 2 and 3. -/
def adaU (f : Factors) (cols k : Nat) (gs : List Fp) : List Fp :=
  (indexed gs).map (fun e =>
    let (a, b) := matrixAt cols k e.1
    div32 e.2 (sqrt32 (div32 (mul32 (vec32 f.r a) (vec32 f.k b)) (ofF32 f.rbar))))

/-- The end of pass 2: the step. -/
def adaStep (w : Nat → Fp) (rows cols : Nat) (f : Factors) : Factors :=
  let rms := sqrt32 (div32 (div32 (ofF32 f.uu) (ofCount rows)) (ofCount cols))
  { f with step := toF32 (div32 (w 0) (Fp.max (.fin false 1 0) (div32 rms (w 5)))) }

/-- The packs of one accumulator vector, padded with +0.0 (R222). -/
def vecPacks (t : Tbl Nat) (first n : Nat) : List (Nat × Nat × Bytes) :=
  (List.range (ceilDiv n 1024)).map (fun p =>
    (5, first + p, wordBytes ((upFrom (1024 * p) 1024).map (fun i => if i < n then tgetD t i 0 else 0))))

/-- The words of one accumulator vector as they were read. -/
def vecOld (t : List Bytes) : List Fp := t.flatMap f32s

/-- One pack of one pass under Adafactor; `old` holds the packs of the second-moment object, read at the end of pass 1. -/
def sweepAda (pl : SweepPlan) (r : SweepRec) (step inv k pass : Nat) (old : List Bytes) (t : Tbl (Bytes × Bytes)) (f : Factors) :
    TaskOut :=
  let w := fun j => ofF32 (stepConst pl r step j)
  let (rows, cols) := matrixOf pl r
  let gs := grads inv (formBytes t 2)
  let last := k + 1 == r.params / 1024
  match pass with
  | 1 =>
    let f := adaSums (w 4) cols k gs f
    if last then
      let n := ceilDiv rows 1024
      let f := adaClose w rows cols (vecOld (old.take n)) (vecOld (old.drop n)) f
      { writes := vecPacks f.r 0 rows ++ vecPacks f.k n cols,
        bad := badWords (f.r.map (·.2)) + badWords (f.k.map (·.2)), fac := some f }
    else { writes := [], bad := 0, fac := some f }
  | 2 =>
    let f := { f with uu := toF32 ((adaU f cols k gs).foldl (fun a u => add32 a (mul32 u u)) (ofF32 f.uu)) }
    { writes := [], bad := 0, fac := some (if last then adaStep w rows cols f else f) }
  | _ =>
    let th := masters (formBytes t 0).1 (formBytes t 1).1
    let nth' := (List.zip th (adaU f cols k gs)).map (fun e =>
      toF32 (fma32 (ofF32 f.step).negate e.2 (fma32 (w 1).negate e.1 e.1)))
    { writes := [(1, k, lowBytes nth'), (0, k, highBytes nth')], bad := badWords nth', fac := if last then none else some f }

/-! ### The engines at work -/

/-- A context comes before another on an engine: it has begun there, or its sweep phase began first, the lower number first of those
that began in one AON cycle (R263). -/
def sweepsFirst (u : Nat) (a b : Nat × Train) : Bool :=
  if a.2.took.contains u != b.2.took.contains u then a.2.took.contains u
  else a.2.began < b.2.began || (a.2.began == b.2.began && a.1 < b.1)

/-- The context whose sweep an engine does (R263). -/
def sweeping (s : State) (u : Nat) : Option (Nat × Train) :=
  (s.train.filter (fun e => e.2.tasks.any (fun t => t.engine == u))).foldl (fun b e => match b with
    | none => some e
    | some f => if sweepsFirst u e f then some e else some f) none

/-- SWEEP_STATUS of an engine: CONTEXT, NEAR_BUSY, FAR_BUSY and HELD follow its work (R263, R267). -/
def sweepStatus (s : State) (u : Nat) : Nat :=
  let (c, near, far, held) : Nat × Bool × Bool × Bool := match sweeping s u with
    | none => (0, false, false, false)
    | some (c, t) => match ctxGet s c with
      | none => (c, false, false, false)
      | some x =>
        let ks := t.tasks.filter (fun k => k.engine == u)
        (c, ks.any (fun k => !farTask s x k), ks.any (farTask s x), stagingFull s c x)
  setBits (setBits (setBits (setBits (getR s (Reg.SWEEP_STATUS u)) 30 30 (b2n near)) 29 29 (b2n far)) 28 28 (b2n held)) 21 16 c

/-- The snapshot of a stream has been accepted, or there is none (R232). -/
def snapshotClear (t : Train) : Bool := match t.stream with | some st => st.snapState.isNone || st.broken | none => true

/-- Every vote of the step has its result, and every tile has completed END_STEP (R236). -/
def stepReady (s : State) (c : Nat) (x : Ctx) : Bool :=
  let t := trainGet s c
  t.result.isSome && t.votesDone == (bodyNow x t).1.length && x.tiles.all (fun e => e.2.atEnd && e.2.vote.isNone)

/-- The records of a state enter a stream that goes on: not one that is broken, still owes its snapshot or is to end (R229, R233). -/
def carries (t : Train) (st : Stream) : Bool := !st.broken && !st.snapOwed && t.next.isNone && !st.jobs.any isEnd

/-- SWEEP_BEGIN: the sweep phase begins; a skipped step reads the error terms for the delta stream alone (R236, R248, R263). -/
def sweepBegin (c : Nat) (s : State) : State :=
  match training s c with
  | none => s
  | some x =>
    let t := trainGet s c
    if healthy s && awake s && phaseOf s c == 2 && stepReady s c x && snapshotClear t then
      let skip := t.result == some true
      let state := getR s (Reg.STEP c) + 1
      let jobs := stateJobs x.pitch state skip ++ [DeltaJob.stepEnd state (b2n skip) none]
      let on := (t.stream.map (carries t)).getD false
      let stream := t.stream.map (fun st => if on then { st with jobs := st.jobs ++ jobs } else st)
      let tasks := if skip && !on then [] else (indexed (planOf x.pitch).recs).flatMap (fun e => groupTasks s x skip e.1 e.2)
      setPhase c 3 (trainMod c (fun t =>
        { t with tasks := tasks, fac := [], began := s.timeBase, took := [], stream := stream, salt := [] }) s)
    else s

def execSweepBegin (c : CtxId) (s : State) : Out := commit s (sweepBegin c.val s)

/-- Latent errors of an engine's buffers (R268). False where its work is lost. -/
def engineMeet (u : Nat) (s : State) : State × Bool :=
  let hit := fun (e : ErrPlace × Bool) => e.1 == .sweep u
  let bad := s.errs.any (fun e => hit e && e.2)
  let fixed := (s.errs.filter (fun e => hit e && !e.2)).length
  let s := { s with errs := s.errs.filter (fun e => !hit e) }
  let s := if fixed = 0 then s else satR (orR s (Reg.SWEEP_CAUSE u) 4) (Reg.SWEEP_CORRECTED u) fixed
  if bad then (chipFault 0x0D (u * 2 ^ 21) (orR s (Reg.SWEEP_CAUSE u) 8), false) else (s, true)

/-- Bytes of the far-resident packs among some: place in OBJECTS, pack. -/
def farBytes (s : State) (x : Ctx) (r : SweepRec) (ps : List (Nat × Nat)) : Nat :=
  (ps.map (fun e => match formObj s x r e.1 with
    | some o => if farPack o e.2 then packBytes o.format + scaleLen o else 0
    | none => 0)).foldl (· + ·) 0

/-- The packs that a task reads: those of its pass, and at the end of Adafactor's pass 1 the accumulators. -/
def taskReads (pl : SweepPlan) (r : SweepRec) (k pass : Nat) : List (Nat × Nat) :=
  (passForms r pass).map (fun f => (f, k))
    ++ (if r.rule = 4 ∧ pass = 1 ∧ k + 1 = r.params / 1024 then (List.range (formPacks pl r 5)).map (fun p => (5, p)) else [])

/-- The traffic of a pack of the far phase, of source group 4 (R169, R251). -/
def farTraffic (s : State) (x : Ctx) (r : SweepRec) (ps : List (Nat × Nat)) : State :=
  passing 4 (ps.flatMap (fun e => match formObj s x r e.1 with
    | some o => objSpans s o 2 (slotOff o e.2) (packBytes o.format)
    | none => [])) s

/-- The counters of a task that has ended, given the packs that it wrote (R251, R253, R266). -/
def countTask (x : Ctx) (task : SweepTask) (r : SweepRec) (writes : List (Nat × Nat)) (bad : Nat) (s : State) : State :=
  let u := task.engine
  let reads := taskReads (planOf x.pitch) r task.pack task.pass
  let far := farTask s x task
  let (busy, s) := freshVal s 16
  let s := addR (if task.pass = 4 then s else addR s (Reg.PARAMS_SWEPT u) 1024) (Reg.SWEEP_BUSY u) (8 + busy)
  let s := addR (addR s (Reg.FAR_READ_BYTES u) (farBytes s x r reads)) (Reg.FAR_WRITE_BYTES u) (farBytes s x r writes)
  let s := if far then farTraffic s x r (reads ++ writes) else s
  let s := if far && !r.gflags.testBit 0 then satR (orR s (Reg.SWEEP_CAUSE u) 2) (Reg.FAR_UNPLANNED u) 1 else s
  if bad = 0 then s else satR (orR s (Reg.SWEEP_CAUSE u) 1) (Reg.SWEEP_NONFINITE u) bad

/-- Read the whole second-moment object of an Adafactor group. -/
def readVecs (o : Obj) : List Nat → State → State × Option (List Bytes)
  | [], s => (s, some [])
  | k :: ks, s =>
    let (s, q) := expandPack true o k s
    if q.err ≠ 0 then (s, none)
    else
      let (s, t) := readVecs o ks s
      (s, t.map (q.raw :: ·))

/-- The old accumulators, where a task needs them. -/
def oldVecs (x : Ctx) (r : SweepRec) (k pass : Nat) (s : State) : State × Option (List Bytes) :=
  if r.rule = 4 ∧ pass = 1 ∧ k + 1 = r.params / 1024 then
    match formObj s x r 5 with
    | some o => readVecs o (List.range (formPacks (planOf x.pitch) r 5)) s
    | none => (s, none)
  else (s, some [])

/-- The Adafactor state of a group. -/
def facOf (t : Train) (g : Nat) : Factors :=
  (t.fac.find? (fun f => f.group == g)).getD
    { group := g, rs := [], cs := [], r := [], k := [], rbar := 0, uu := 0, step := 0 }

/-- A write of the sweep by engine e waits for a salt of unit u: after 10 ms with the pool empty it is abandoned (R198). -/
def sweepSalt (c e u : Nat) (s : State) : State :=
  match tget (trainGet s c).salt e with
  | none => trainMod c (fun t => { t with salt := tput t.salt e s.timeBase }) s
  | some t => if t + 250000 ≤ s.timeBase then packFail true u 8 s else s

/-- What a task computes from the packs that it read. -/
def taskOut (pl : SweepPlan) (r : SweepRec) (task : SweepTask) (step inv : Nat) (old : List Bytes) (t : Tbl (Bytes × Bytes))
    (f : Factors) : TaskOut :=
  if task.pass = 4 then { writes := [], bad := 0, fac := none }
  else if r.rule = 4 then sweepAda pl r step inv task.pack task.pass old t f
  else sweepPlain pl r step inv task.pack t

/-- What a task hands over to the delta stream: the packs that it wrote and the error term that it read (R229). -/
def taskGot (task : SweepTask) (writes : List (Nat × Nat × Bytes)) (t : Tbl (Bytes × Bytes)) : List (Nat × Nat × Bytes × Bytes) :=
  writes.map (fun w => (w.1, w.2.1, w.2.2, [])) ++ (tget t 3).toList.map (fun e => (3, task.pack, e))

/-- A pack that the task needs is held at its codec unit (R184, R188). -/
def taskHeld (s : State) (x : Ctx) (r : SweepRec) (ps : List (Nat × Nat)) : Bool :=
  ps.any (fun e => match formObj s x r e.1 with | some o => flagged o.oflags && packHeld s o e.2 | none => false)

/-- Run one task on an engine (R252). -/
def runTask (c : Nat) (x : Ctx) (task : SweepTask) (r : SweepRec) (s0 : State) : State :=
  let pl := planOf x.pitch
  if taskHeld s0 x r (taskReads pl r task.pack task.pass) then s0 else
  let step := getR s0 (Reg.STEP c)
  let inv := invScale (getR s0 (Reg.LOSS_SCALE c))
  let (s, ok) := engineMeet task.engine s0
  if !ok then s
  else
    let (s, got) := readForms x r task.pack (passForms r task.pass) s
    let (s, old) := oldVecs x r task.pack task.pass s
    match got, old with
    | some t, some old =>
      let out := taskOut pl r task step inv old t (facOf (trainGet s c) task.group)
      match writeForms x r out.writes s with
      | .salt u => sweepSalt c task.engine u s0
      | .failed s => s
      | .done s =>
        let s := countTask x task r (out.writes.map (fun w => (w.1, w.2.1))) out.bad s
        let s := capture c (step + 1) task.group (taskGot task out.writes t) s
        endWait c (trainMod c (fun t => { t with
          tasks := t.tasks.erase task, salt := tdel t.salt task.engine,
          took := if t.took.contains task.engine then t.took else t.took ++ [task.engine],
          fac := t.fac.filter (fun f => f.group != task.group) ++ out.fac.toList }) s)
    | _, _ => s

/-- A task is next in its phase: a group under Adafactor goes pack by pack through both phases, since its sums have one order
(R250, R258). -/
def taskNext (x : Ctx) (ks : List SweepTask) (k : SweepTask) : Bool :=
  match groupRec x.pitch k.group with
  | some r => r.rule != 4 || (ks.find? (fun j => j.group == k.group)) == some k
  | none => true

/-- The task that an engine takes next for a context, when no other context is first there (R263): the next pack of the near phase or of
the far phase, which run alongside each other; where both have one, which is first is a free value (R251). -/
def nextTask (s : State) (c u : Nat) (x : Ctx) : State × Option SweepTask :=
  if (sweeping s u).map (·.1) ≠ some c then (s, none)
  else
    let ks := (trainGet s c).tasks.filter (fun k => k.engine == u)
    let near := (ks.find? (fun k => !farTask s x k)).filter (taskNext x ks)
    let far := (ks.find? (farTask s x)).filter (taskNext x ks)
    match near, far with
    | some a, some b => let (v, s) := freshVal s 1; (s, some (if v = 0 then a else b))
    | some a, none => (s, some a)
    | none, b => (s, b)

/-- SWEEP_PACK: an engine takes its next pack, computes its rule and writes its forms. With the staging buffer full it
waits (R230, R250-R252). -/
def sweepPack (c u : Nat) (s : State) : State :=
  match training s c with
  | none => s
  | some x =>
    let (t, k) := nextTask s c u x
    match k with
    | none => s
    | some task =>
      if healthy s && awake s && phaseOf s c == 3 && bitR s (Reg.SWEEP_STATUS u) 31 then
        if stagingFull s c x then beginWait c s
        else match groupRec x.pitch task.group with
          | some r => runTask c x task r t
          | none => s
      else s

def execSweepPack (c : CtxId) (u : StackId) (s : State) : Out := commit s (sweepPack c.val u.val s)

/-! ### The end of a step (R239, R249) -/

/-- The loss scale and good-step count at the end of a sweep phase (R249). -/
def scaleUpdate (c : Nat) (growth : Nat) (skip : Bool) (s : State) : State :=
  let w := getR s (Reg.LOSS_SCALE c)
  if skip then
    let s := setR s (Reg.GOOD_STEPS c) 0
    if 0x3F800000 < w then setR s (Reg.LOSS_SCALE c) (w - 2 ^ 23) else orR s (Reg.CTX_SWEEP_CAUSE c) 4
  else
    let n := getR s (Reg.GOOD_STEPS c) + 1
    if 0 < growth ∧ n = growth then
      let s := setR s (Reg.GOOD_STEPS c) 0
      if w < 0x4F800000 then setR s (Reg.LOSS_SCALE c) (w + 2 ^ 23) else orR s (Reg.CTX_SWEEP_CAUSE c) 2
    else setR s (Reg.GOOD_STEPS c) n

/-- The records of a state may still stand in the staging buffer when its sweep ends (R230). -/
def tailStaged (s : State) (c : Nat) (x : Ctx) : Bool :=
  match (trainGet s c).stream with
  | none => true
  | some st => st.broken || ((st.jobs.map (jobBytes s x)).foldl (· + ·) 0 ≤ 0x400000) || st.snapOwed

/-- Every record that a completion signal waits for has been accepted (R230, R239). -/
def mayComplete (s : State) (c : Nat) : Bool :=
  let t := trainGet s c
  match t.stream with
  | none => true
  | some st => !st.broken && (st.snapOwed || (getR s (Reg.STEP c) + 1 < st.lag) || acceptedTo st (getR s (Reg.STEP c) + 1 - st.lag))
      && (t.next.isNone || st.jobs.isEmpty)

/-- SWEEP_END (R249). -/
def sweepEnd (c : Nat) (s : State) : State :=
  match training s c with
  | none => s
  | some x =>
    let t := trainGet s c
    if healthy s && awake s && phaseOf s c == 3 && t.tasks.isEmpty then
      if !tailStaged s c x then beginWait c s
      else
        let skip := t.result == some true
        let s := scaleUpdate c (planOf x.pitch).growth skip (endWait c s)
        let s := if skip then satR s (Reg.SKIPS c) 1 else s
        let close := fun (j : DeltaJob) => match j with
          | .stepEnd n r none => .stepEnd n r (some (scaleOf s c))
          | _ => j
        let s := trainMod c (fun t => { t with stream := t.stream.map (fun st => { st with jobs := st.jobs.map close }) }) s
        let s := setPhase c (if (t.stream.map (·.broken)).getD false then 5 else 4) s
        if mayComplete s c then s else beginWait c s
    else s

def execSweepEnd (c : CtxId) (s : State) : Out := commit s (sweepEnd c.val s)

/-- The step word of a tile: the word address, from the first KIND 0 record that names it (R237). -/
def stepWordAt (p : Pitch) (l : Nat) : Option Nat :=
  (p.objs.find? (fun o => o.kind == 0 && o.tile == l)).map (fun o => nth (bitPositions 16 o.banks) 0 * 8192 + o.offset / 32)

/-- The bytes of a step word (R237). -/
def stepWord (s : State) (c last : Nat) : Bytes :=
  let w := getR s (Reg.LOSS_SCALE c)
  natLe 8 (getR s (Reg.STEP c)) ++ natLe 4 w ++ natLe 4 (invScale w) ++ natLe 1 last ++ natLe 15 0

/-- Write every step word of a context, and post T31 on every used tile (R237, R238). -/
def completionSignal (c : Nat) (x : Ctx) (last : Nat) (s : State) : State :=
  let s := (usedTiles x.pitch.tileMap).foldl (fun s l => match stepWordAt x.pitch l with
    | some w => tsWrite s l w (stepWord s c last)
    | none => s) s
  (x.tiles.map (·.1)).foldl (fun s site => postToken c site 31 s) s

/-- A stream that waits takes over, and a snapshot that is owed is taken (R232, R233). -/
def swapStream (c : Nat) (x : Ctx) (state : Nat) (s : State) : State :=
  let t := trainGet s c
  let s := match t.next with
    | some n => trainMod c (fun t => { t with stream := some n, next := none }) s
    | none => s
  syncStream c (takeSnapshot c x state s)

/-- STEP_COMPLETE: the step words are written, T31 is posted, STEP increments (R239). -/
def stepComplete (c : Nat) (s : State) : State :=
  match training s c with
  | none => s
  | some x =>
    let t := trainGet s c
    if healthy s && awake s && phaseOf s c == 4 then
      if !mayComplete s c then beginWait c s
      else
        let skip := t.result == some true
        let s := endWait c s
        let s := setR s (Reg.STEP c) (getR s (Reg.STEP c) + 1)
        let s := orR (setB s (Reg.STEP_STATE c) 27 skip) (Reg.CTX_SWEEP_CAUSE c) 1
        let s := trainMod c (fun t => { t with body := ((bodyNow x t).2).getD t.body, votesDone := 0, result := none }) s
        let s := swapStream c x (getR s (Reg.STEP c)) s
        let s := setPhase c (if doneEverywhere s c then 6 else 1) s
        completionSignal c x (b2n skip) s
    else s

def execStepComplete (c : CtxId) (s : State) : Out := commit s (stepComplete c.val s)

/-! ### Starting (R133, R238, R249) -/

/-- A training context starts: its registers, its first step words, T31, and the snapshot of its initial state (R232,
R238, R249, R264). UP messages that it holds stay while they name its next vote (R246). -/
def startTrain (c : Nat) (x : Ctx) (a : StartArgs) (s : State) : State :=
  let old := getR s (Reg.STEP c)
  let s := setR s (Reg.STEP c) (if a.use.testBit 0 then a.step else 0)
  let s := setR s (Reg.LOSS_SCALE c) (if a.use.testBit 1 then a.lossScale else (planOf x.pitch).lossScale)
  let s := setR s (Reg.GOOD_STEPS c) (if a.use.testBit 1 then a.goodSteps else 0)
  let s := trainMod c (fun t => { t with
    body := 0, votesDone := 0, result := none
    vote := { flag := none, ups := if a.use.testBit 0 ∧ a.step ≠ old then [] else t.vote.ups } }) s
  completionSignal c x 2 (swapStream c x (getR s (Reg.STEP c)) (setPhase c 1 s))

/-- A context starts (R133). -/
def startAll (c : Nat) (a : StartArgs) (s : State) : State :=
  match ctxGet s c with
  | none => s
  | some x =>
    if x.started then s
    else
      let s := startCtx c s
      if x.pitch.flags.testBit 0 then startTrain c x a s else s

/-- A start with no arguments, as FLAGS[3] gives (R110). -/
def plainStart (c : Nat) : StartArgs := { ctx := c, use := 0, step := 0, lossScale := 0, goodSteps := 0 }

end Sys2Proof.Machine
end

