-- ==== Sys2Proof/Machine/Serve.lean ====
section
/-! DEFINITION. Serving (R277-R302): opening and closing, batches, pegs, the model cache. -/

namespace Sys2Proof.Machine

/-! ### Shared pieces -/

/-- The resident context of a number, when the function loaded it. -/
def ctxOf (s : State) (f c : Nat) : Option Ctx := if tget s.ctxFn c = some f then ctxGet s c else none

/-- Serving on a context. -/
def serveGet (s : State) (c : Nat) : Option Serve := tget s.serves c

/-- A context's object record by OBJECT_ID, with its device object where it has one. -/
def ctxObj (s : State) (x : Ctx) (id : Nat) : Option (ObjRec × Option Obj) :=
  (indexed x.pitch.objs).findSome? (fun e =>
    if e.2.id = id then some (e.2, objGet s x.fn (nth x.handles e.1)) else none)

/-- The fewest END_STEP figures that a used tile of a context has completed. -/
def minSteps (x : Ctx) : Nat :=
  match x.tiles.map (fun e => e.2.steps) with
  | [] => 0
  | n :: t => t.foldl min n

/-- The OBJECT_IDs that STORE figures of a pitch name. -/
def storedIds (p : Pitch) : List Nat :=
  (usedTiles p.tileMap).flatMap (fun l => (namedObjs false (figsOf p l)).filterMap (fun k => (p.objs[k]?).map (·.id)))

/-- A context imports a cached object that has a staged version in the serving context `e` (R294). -/
def importsStaged (s : State) (e : Nat × Serve) (x : Ctx) : Bool :=
  match ctxGet s e.1 with
  | none => false
  | some y => x.fn == y.fn && e.2.staged.any (fun t => match ctxObj s y t.1 with
      | some (_, some o) => x.handles.contains o.handle && o.owner == e.1
      | _ => false)

/-- A commit of another context holds this one's batches back (R294). -/
def heldBack (s : State) (c : Nat) : Bool :=
  match ctxGet s c with
  | none => false
  | some x => s.serves.any (fun e => e.1 != c && e.2.turn.isSome && importsStaged s e x)

/-- The conditions of R283 for the next batch of a context. -/
def mayStart (s : State) (c : Nat) (v : Serve) : Bool :=
  v.batches.any (fun b => b.seq == v.nextStart) && v.turn.isNone && !heldBack s c
    && (v.nextStart < v.a.sets || v.batches.all (fun b => v.nextStart - v.a.sets < b.seq))
    && fnActive s ((tget s.ctxFn c).getD 0)

/-- The serving registers, and since when each next batch may start, follow the serving contexts. -/
def syncServes (s : State) : State :=
  syncServeRegs { s with serves := s.serves.map (fun e =>
    (e.1, { e.2 with ready := if mayStart s e.1 e.2 then some (e.2.ready.getD s.timeBase) else none })) }

/-- Change a serving context. -/
def serveMod (c : Nat) (g : Serve → Serve) (s : State) : State :=
  match serveGet s c with
  | some v => syncServes { s with serves := tput s.serves c (g v) }
  | none => s

/-- Zero some pages, in either tier. -/
def clearPages (f : Nat) (ps : List PageLoc) (s : State) : State :=
  ps.foldl (fun s p => match pageDev s f p 0 with
    | .far g x => { s with host := mzero s.host (hostKey g x) pageSize }
    | _ => s) (zeroPages s ps)

/-! ### SERVE_OPEN -/

/-- The fields of SERVE_OPEN lie within their ranges (R277). -/
def serveFieldsOk (a : ServeArgs) : Bool :=
  [4, 8, 16, 32, 64].contains a.rank && 1 ≤ a.targets && a.targets ≤ 4096 && 1 ≤ a.segments && a.segments ≤ 256
    && 1 ≤ a.capacity && a.segments * a.capacity ≤ 256 && (a.sets == 1 || a.sets == 2)
    && 1 ≤ a.poolSlots && a.poolSlots ≤ 65536 && a.regions ≤ 4096 && a.objects ≤ 256

/-- The target list: K and N of each target (R280). -/
def targetsOf (b : Bytes) : List (Nat × Nat) := (List.range (b.length / 8)).map (fun i => (fieldAt b (8 * i) 4, fieldAt b (8 * i + 4) 4))

/-- A dimension of a target (R280). -/
def dimOk (n : Nat) : Bool := n % 32 == 0 && 32 ≤ n && n ≤ 65536

/-- A length padded to whole KiB. -/
def kib (n : Nat) : Nat := ceilDiv n 1024 * 1024

/-- Bytes of a target's factor area (R274). -/
def areaBytes (r : Nat) (t : Nat × Nat) : Nat :=
  let d := ceilDiv t.1 32 * ceilDiv r 32
  kib (1024 * d) + kib (32 * d) + kib (512 * (ceilDiv r 16 * ceilDiv t.2 16))

/-- LENGTH of an image of a target list and rank (R273, R274). -/
def imageLength (r : Nat) (ts : List (Nat × Nat)) : Nat := 4096 + (ts.map (areaBytes r)).foldl (· + ·) 0

/-- The windows' OBJECT_IDs (R277). -/
def windowIds (a : ServeArgs) : List Nat := upFrom a.winBase (a.sets * a.segments)

/-- A window keeps R279. -/
def windowOk (s : State) (x : Ctx) (pages : Nat) (stored : List Nat) (id : Nat) : Bool :=
  match ctxObj s x id with
  | some (r, some _) => r.kind == 1 && r.format == 8 && r.size == pages * pageSize
      && !r.oflags.testBit 0 && !r.oflags.testBit 2 && !r.oflags.testBit 3 && !r.oflags.testBit 4
      && !stored.contains id && (match x.pitch.sweep with
        | some p => p.recs.all (fun q => !q.objs.contains id)
        | none => true)
  | _ => false

/-- A cached object or region keeps 0x08 of R278. -/
def cachedOk (s : State) (x : Ctx) (kind : Nat) (stored : List Nat) (id : Nat) : Bool :=
  match ctxObj s x id with
  | some (r, _) => r.kind == kind && !r.oflags.testBit 0 && !stored.contains id
  | none => false

/-- Peg slots of the open serving contexts of a function (R368). -/
def slotsOpen (s : State) (f : Nat) : Nat :=
  ((s.serves.filter (fun e => tget s.ctxFn e.1 == some f)).map (fun e => e.2.a.poolSlots)).foldl (· + ·) 0

/-- The checks of R278 in the order of its codes, once the target list is read: none is OPENED, with the pool's frames. -/
def serveCheck (f : Nat) (x : Ctx) (a : ServeArgs) (list : Bytes) (s : State) : Except Nat (List PageLoc) :=
  let ts := targetsOf list
  let pages := ceilDiv (imageLength a.rank ts) pageSize
  let stored := storedIds x.pitch
  let part := (s.serves.map (fun e => e.2.a.poolSlots)).foldl (· + ·) 0
  if !ts.all (fun t => dimOk t.1 && dimOk t.2) then .error 4
  else if !(windowIds a).all (windowOk s x pages stored) then .error 5
  else if !(usedTiles x.pitch.tileMap).all (fun l => tokenRuleOk 30 (figsOf x.pitch l)) then .error 6
  else if 65536 < part + a.poolSlots ∨ shapePegs s f < slotsOpen s f + a.poolSlots ∨ a.poolStacks = 0 then .error 7
  else match placePages s f (wants 0 a.poolStacks (a.poolSlots * pages)) with
    | none => .error 7
    | some fr =>
      if (upFrom a.regionsBase a.regions).all (cachedOk s x 0 stored) && (upFrom a.objectsBase a.objects).all (cachedOk s x 1 stored)
      then .ok fr else .error 8

/-- Serving opens: the windows' own pages are zeroed, the block takes its Reset values (R279, R300). -/
def serveBegin (x : Ctx) (a : ServeArgs) (list : Bytes) (frames : List PageLoc) (s : State) : State :=
  let len := imageLength a.rank (targetsOf list)
  let c := a.ctx
  let s := (windowIds a).foldl (fun s id => match ctxObj s x id with
    | some (_, some o) => clearPages x.fn o.pages s
    | _ => s) s
  let s := resetRange s (Reg.SERVE_STATE c) (Reg.SERVE_STATE c + 0x80)
  let v : Serve := { a := a, shape := crc32c list, pages := ceilDiv len pageSize, length := len, frames := frames, pegs := [],
                     copies := [], batches := [], nextStart := 0, binds := [], staged := [], turn := none, closing := none,
                     ready := none, base := minSteps x }
  syncServes { s with serves := tput s.serves c v }

/-- SERVE_OPEN (R277-R281). -/
def serveOpen (h : CmdHdr) (a : ServeArgs) (s : State) : State :=
  let f := h.fn.val
  match ctxOf s f a.ctx with
  | none => finish h 1 0 0 s
  | some x =>
    if !x.pitch.flags.testBit 1 ∨ x.pitch.flags.testBit 0 then finish h 2 0 0 s
    else if (serveGet s a.ctx).isSome then finish h 3 0 0 s
    else if !serveFieldsOk a then finish h 4 0 0 s
    else
      let (s, st, list) := devRead f a.targetAddr (8 * a.targets) s
      if st ≠ 0 then reject h st s
      else match serveCheck f x a list s with
        | .error e => finish h e 0 0 s
        | .ok fr => finish h 0 0 0 (serveBegin x a list fr s)

def execServeOpen (h : CmdHdr) (a : ServeArgs) (s : State) : Out :=
  commit s (hostCmd (.serveOpen h a) h .refused (serveOpen h a) s)

/-! ### Closing -/

/-- Copies of a context end with a code of R285. -/
def dropCopies (c code : Nat) (s : State) : State :=
  match serveGet s c with
  | none => s
  | some v => serveMod c (fun v => { v with copies := [] })
      (v.copies.foldl (fun s k => finish k.hdr code 0 0 (leave k.req s)) s)

/-- Serving has ended on a context: its pool's frames are zeroed and freed, and it is closed; the block's other fields stay (R297,
R301, R508). -/
def serveGone (c : Nat) (s : State) : State :=
  match serveGet s c with
  | none => s
  | some v =>
    let s := clearPages 0 v.frames { s with serves := tdel s.serves c }
    syncServes (setR (setF (setF s (Reg.SERVE_STATE c) 31 28 0) (Reg.SERVE_STATE c) 7 0 0) (Reg.PEGS c) 0)

/-- Serving closes: every peg ends, copies are abandoned, staged versions are released, and the commands that wait for
the close or for a peg's end complete (R297). `lost` is a chip fault, which ends them as R467 says. -/
def serveEnd (c : Nat) (lost : Bool) (s : State) : State :=
  match serveGet s c with
  | none => s
  | some v =>
    let s := dropCopies c 0x0C s
    let s := (v.pegs.filterMap (·.hdr)).foldl (fun s h => finish h (if lost then 0x0C else 2) 0 0 s) s
    let s := match v.turn with
      | some t => reject t.hdr 9 s
      | none => s
    let s := serveGone c s
    (v.closing.getD []).foldl (fun s h => if lost then reject h 9 s else finish h 0 0 0 s) s

/-- Batches of a context that `pick` takes complete with a final code (R380). -/
def endBatches (c code : Nat) (pick : Serve → Batch → Bool) (s : State) : State :=
  match serveGet s c with
  | none => s
  | some v => serveMod c (fun v => { v with batches := v.batches.filter (fun b => !pick v b) })
      ((v.batches.filter (pick v)).foldl (fun s b => finish b.hdr code 0 0 s) s)

/-- UNLOAD in DRAIN mode: accepted batches that have not started complete with UNLOADED, and serving closes (R297). -/
def serveDrain (c : Nat) (s : State) : State :=
  serveMod c (fun v => { v with closing := some (v.closing.getD []) })
    (endBatches c 1 (fun v b => v.nextStart ≤ b.seq) s)

/-- UNLOAD in DISCARD mode, or a reset of the instance: started batches end ABANDONED, others UNLOADED, and serving closes
(R297). -/
def serveDiscard (c : Nat) (s : State) : State :=
  serveEnd c false (endBatches c 1 (fun _ _ => true) (endBatches c 2 (fun v b => b.seq < v.nextStart) s))

/-- A chip fault: every batch, peg, pool and staged version is lost (R297). -/
def serveLost (c : Nat) (s : State) : State := serveEnd c true (endBatches c 2 (fun _ _ => true) s)

/-- SERVE_CLOSE: no further batch is accepted (R297, R381). -/
def serveClose (h : CmdHdr) (c : Nat) (s : State) : State :=
  if (ctxOf s h.fn.val c).isNone ∨ (serveGet s c).isNone then finish h 1 0 0 s
  else serveMod c (fun v => { v with closing := some (v.closing.getD [] ++ [h]) }) s

def execServeClose (h : CmdHdr) (ctx : Nat) (s : State) : Out :=
  commit s (hostCmd (.serveClose h ctx) h .refused (serveClose h ctx) s)

/-- CLOSED: the accepted batches have completed, and serving closes (R297). -/
def closedEv (c : Nat) (s : State) : State :=
  match serveGet s c with
  | some v => if v.closing.isSome && v.batches.isEmpty && v.turn.isNone && s.faultSeq.phase == .none then serveEnd c false s else s
  | none => s

def execClosed (c : CtxId) (s : State) : Out := commit s (closedEv c.val s)

/-! ### Pegs -/

/-- The peg of an adapter that batches can resolve (R282, R287). -/
def pegOf (v : Serve) (ad : Nat) : Option Peg := v.pegs.find? (fun p => p.adapter == ad && !p.ending)

/-- A peg begins to end (R287). -/
def pegEnding (ad : Nat) (h : Option CmdHdr) (v : Serve) : Serve :=
  { v with pegs := v.pegs.map (fun p => if p.adapter = ad ∧ !p.ending then { p with ending := true, hdr := h } else p) }

/-- A lease has run out: the peg ends, is counted and raises PEG_EXPIRED (R286). -/
def expirePeg (c ad : Nat) (s : State) : State :=
  match (serveGet s c).bind (fun v => pegOf v ad) with
  | some p => match p.expiry with
    | some e =>
      if e ≤ s.timeBase then
        orR (satR (serveMod c (pegEnding ad none) s) (Reg.PEG_EXPIRIES c) 1) (Reg.SERVE_CAUSE c) 4
      else s
    | none => s
  | none => s

/-- Expiry is evaluated before a command that looks at the pegs of a context (R286). -/
def expireAll (c : Nat) (s : State) : State :=
  match serveGet s c with
  | some v => (v.pegs.map (·.adapter)).foldl (fun s ad => expirePeg c ad s) s
  | none => s

/-- PEG_EXPIRY (R286). -/
def execPegExpiry (c : CtxId) (adapter : Nat) (s : State) : Out := commit s (expirePeg c.val adapter s)

/-- A LEASE in range (R284-R286). -/
def leaseOk (l : Nat) : Bool := l == 0 || (1000 ≤ l && l ≤ 86400000)

/-- The expiry of a lease taken now. -/
def leaseEnd (s : State) (l : Nat) : Option Nat := if l = 0 then none else some (s.timeBase + l * msAon)

/-- The expiry that a completion reports (R286). -/
def expiryCode : Option Nat → Nat
  | some e => e
  | none => 0xFFFFFFFFFFFFFFFF

/-- A copy of the adapter is under way. -/
def copying (v : Serve) (ad : Nat) : Bool := v.copies.any (fun k => k.adapter == ad)

/-- An UNPEG of the adapter is under way. -/
def unpegging (v : Serve) (ad : Nat) : Bool := v.pegs.any (fun p => p.adapter == ad && p.hdr.isSome)

/-- The lowest free slot of a pool. -/
def freeSlot (v : Serve) : Option Nat :=
  let used := v.pegs.map (·.slot) ++ v.copies.map (·.slot)
  (List.range v.a.poolSlots).find? (fun k => !used.contains k)

/-- Serving that a command of function f finds open on a context, and not closing. -/
def openServe (s : State) (f c : Nat) : Option Serve :=
  if (ctxOf s f c).isSome then (serveGet s c).filter (fun v => v.closing.isNone) else none

/-- PEG (R284, R285). -/
def pegCmd (h : CmdHdr) (c rep ad src lease : Nat) (s : State) : State :=
  let f := h.fn.val
  let s := if (ctxOf s f c).isSome then expireAll c s else s
  match openServe s f c with
  | none => finish h 3 0 0 s
  | some v =>
    let cur := pegOf v ad
    if 1 < rep then reject h 2 s
    else if ad = 0xFFFFFFFF then finish h 0x0A 0 0 s
    else if !leaseOk lease then finish h 0x0D 0 0 s
    else if copying v ad ∨ (rep = 0 ∧ unpegging v ad) then finish h 0x0B 0 0 s
    else if rep = 1 ∧ cur.isNone then finish h 5 0 0 s
    else match (if rep = 0 then cur else none), freeSlot v, objGet s f src with
      | some p, _, _ => finish h 4 p.slot 0 s
      | none, none, _ => finish h 6 0 0 s
      | none, some _, none => finish h 9 0 0 s
      | none, some k, some o =>
        let id := s.nextUns
        let s := enter (if f = 0 then 1 else 2) f (objSpans s o (v.pages + 1) 0 (v.pages * pageSize)) s
        serveMod c (fun v => { v with copies := v.copies ++ [{
          hdr := h, adapter := ad, slot := k, source := src, expiry := leaseEnd s lease, req := id }] }) s

def execPeg (h : CmdHdr) (ctx replace adapter source lease : Nat) (s : State) : Out :=
  commit s (hostCmd (.peg h ctx replace adapter source lease) h (.code 0x0C) (pegCmd h ctx replace adapter source lease) s)

/-- The raw packs of a coded or encrypted object, one after another. -/
def rawPacks (o : Obj) : List Nat → State → State × Option Bytes
  | [], s => (s, some [])
  | p :: ps, s =>
    let (s, r) := expandPack false o p s
    if r.err ≠ 0 then (s, none)
    else
      let (s, t) := rawPacks o ps s
      (s, t.map (r.raw ++ ·))

/-- IMAGE_PAGES pages of an object from byte 0, read through the codec where it is coded or encrypted (R284). -/
def readImage (o : Obj) (pages : Nat) (s : State) : State × Option Bytes :=
  let n := pages * pageSize
  if flagged o.oflags then
    let (s, b) := rawPacks o (List.range (min (packCount o) (ceilDiv n (packBytes o.format)))) s
    (s, b.map (fun x => slice x 0 n))
  else objRead false o 0 n s

/-- The check of a copied image: 0, or BAD_IMAGE, or IMAGE_CHECK (R273, R285). -/
def imageCode (v : Serve) (ad : Nat) (img : Bytes) : Nat :=
  if slice img 0 4 == [0x4A#8, 0x58#8, 0x41#8, 0x44#8] && fieldAt img 5 1 == 1 && fieldAt img 6 1 == v.a.rank
      && fieldAt img 8 4 == ad && fieldAt img 0x0C 4 == v.shape && fieldAt img 0x10 4 == v.a.targets && fieldAt img 0x14 4 == v.length
  then (if crc32c (slice img 0x1000 (v.length - 0x1000)) == fieldAt img 0x18 4 then 0 else 8)
  else 7

/-- Write an image into the frames of a slot. -/
def writeSlot (v : Serve) (k : Nat) (img : Bytes) (s : State) : State :=
  piecesWrite ((slotFrames v k).map (fun p => (pageDev s 0 p 0, pageSize))) img s

/-- PEG_COPY_DONE: the copy is checked, and the peg takes effect or is refused; one that replaces a peg leaves the old slot
to end once its batches complete (R284, R285, R288). -/
def pegCopyDone (c ad : Nat) (s : State) : State :=
  match serveGet s c with
  | none => s
  | some v =>
    match v.copies.find? (fun k => k.adapter == ad) with
    | none => s
    | some k =>
      if s.faultSeq.phase ≠ .none ∨ !awake s ∨ !mayServe s k.req then s
      else
        let s := leave k.req (serveMod c (fun v => { v with copies := v.copies.erase k }) s)
        let (s, img) := match objGet s ((tget s.ctxFn c).getD 0) k.source with
          | some o => readImage o v.pages s
          | none => (s, none)
        match img with
        | none => finish k.hdr 9 0 0 s
        | some b =>
          let s := writeSlot v k.slot b s
          let e := imageCode v ad b
          if e ≠ 0 then finish k.hdr e 0 0 s
          else
            let p : Peg := { adapter := ad, slot := k.slot, expiry := k.expiry, ending := false, hdr := none }
            finish k.hdr 0 k.slot (expiryCode k.expiry)
              (serveMod c (fun v => let w := pegEnding ad none v; { w with pegs := w.pegs ++ [p] }) s)

def execPegCopyDone (c : CtxId) (adapter : Nat) (s : State) : Out := commit s (pegCopyDone c.val adapter s)

/-- RENEW (R285, R286). -/
def renew (h : CmdHdr) (c ad lease : Nat) (s : State) : State :=
  let s := if (ctxOf s h.fn.val c).isSome then expireAll c s else s
  match openServe s h.fn.val c with
  | none => finish h 3 0 0 s
  | some v =>
    if ad = 0xFFFFFFFF then finish h 0x0A 0 0 s
    else if copying v ad then finish h 0x0B 0 0 s
    else match pegOf v ad with
      | none => finish h 5 0 0 s
      | some p =>
        if !leaseOk lease then finish h 0x0D 0 0 s
        else
          let e := leaseEnd s lease
          finish h 1 p.slot (expiryCode e)
            (serveMod c (fun v => { v with pegs := v.pegs.map (fun q => if q = p then { p with expiry := e } else q) }) s)

def execRenew (h : CmdHdr) (ctx adapter lease : Nat) (s : State) : Out :=
  commit s (hostCmd (.renew h ctx adapter lease) h (.code 0x0C) (renew h ctx adapter lease) s)

/-- UNPEG: the adapter can no longer be resolved (R285, R287). -/
def unpeg (h : CmdHdr) (c ad : Nat) (s : State) : State :=
  let s := if (ctxOf s h.fn.val c).isSome then expireAll c s else s
  match openServe s h.fn.val c with
  | none => finish h 3 0 0 s
  | some v =>
    if ad = 0xFFFFFFFF then finish h 0x0A 0 0 s
    else if copying v ad then finish h 0x0B 0 0 s
    else match pegOf v ad with
      | none => finish h 5 0 0 s
      | some _ => serveMod c (pegEnding ad (some h)) s

def execUnpeg (h : CmdHdr) (ctx adapter : Nat) (s : State) : Out :=
  commit s (hostCmd (.unpeg h ctx adapter) h (.code 0x0C) (unpeg h ctx adapter) s)

/-- UNPEG_DONE: every batch that resolved the ending peg has completed; its slot is zeroed and free (R287). -/
def unpegDone (c slot : Nat) (s : State) : State :=
  match serveGet s c with
  | none => s
  | some v =>
    match v.pegs.find? (fun p => p.slot == slot && p.ending) with
    | none => s
    | some p =>
      if v.batches.any (fun b => b.slots.contains (some slot)) then s
      else
        let s := serveMod c (fun v => { v with pegs := v.pegs.erase p }) (clearPages 0 (slotFrames v slot) s)
        match p.hdr with
        | some h => finish h 2 slot 0 s
        | none => s

def execUnpegDone (c : CtxId) (slot : Nat) (s : State) : Out := commit s (unpegDone c.val slot s)

/-! ### Batches -/

/-- A segment entry: ADAPTER_ID and COUNT (R282). -/
def segEntry (b : Bytes) (i : Nat) : Nat × Nat := (fieldAt b (16 + 8 * i) 4, fieldAt b (16 + 8 * i + 4) 2)

/-- The first segment at fault (R282). -/
def badSegment (v : Serve) (segs : List (Nat × Nat)) : Option Nat :=
  (indexed segs).findSome? (fun e => if v.a.capacity < e.2.2 ∨ (e.2.2 = 0 ∧ e.2.1 ≠ 0xFFFFFFFF) then some e.1 else none)

/-- The first segment whose adapter cannot be resolved (R282). -/
def unpeggedSegment (v : Serve) (segs : List (Nat × Nat)) : Option Nat :=
  (indexed segs).findSome? (fun e => if e.2.1 ≠ 0xFFFFFFFF ∧ (pegOf v e.2.1).isNone then some e.1 else none)

/-- A refusal of SUBMIT_BATCH. Where the code has no segment at fault, DETAIL is a free value. -/
def refuseBatch (h : CmdHdr) (c code : Nat) (seg : Option Nat) (s : State) : State :=
  let s := if (ctxOf s h.fn.val c).isSome then orR (satR s (Reg.BATCHES_REFUSED c) 1) (Reg.SERVE_CAUSE c) 2 else s
  match seg with
  | some k => finish h code k 0 s
  | none => let (d, s) := freshVal s 24; finish h code d 0 s

/-- The batch is checked and its adapters are resolved in one step (R282). -/
def acceptBatch (h : CmdHdr) (c : Nat) (v : Serve) (b : Bytes) (s : State) : State :=
  let n := v.a.segments
  let segs := (List.range n).map (segEntry b)
  let sum := (segs.map (·.2)).foldl (· + ·) 0
  let req := fieldAt b 2 2
  if b.length ≠ 16 + 8 * n ∨ !zeroAt b 1 1 ∨ !zeroAt b 4 4 ∨ (List.range n).any (fun i => !zeroAt b (16 + 8 * i + 6) 2) then
    reject h 2 s
  else match badSegment v segs with
    | some k => refuseBatch h c 2 (some k) s
    | none =>
      if req ≠ sum ∨ req = 0 then refuseBatch h c 2 none s
      else match unpeggedSegment v segs with
        | some k => refuseBatch h c 3 (some k) s
        | none =>
          if 64 ≤ v.batches.length then refuseBatch h c 4 none s
          else
            let q := getR s (Reg.BATCHES_ACCEPTED c)
            let bt : Batch := { hdr := h, seq := q, requests := req, slots := segs.map (fun e => (pegOf v e.1).map (·.slot)) }
            let s := addR s (Reg.BATCHES_ACCEPTED c) 1
            complete 1 0 (q % 0x1000000) q h (serveMod c (fun v => { v with batches := v.batches ++ [bt] }) s)

/-- The completions that a command still owes carry another TAG from now on. -/
def retag (h : CmdHdr) (t : Nat) (s : State) : State :=
  { s with owed := s.owed.map (fun o => if sameCmd o.hdr h then { o with hdr := { o.hdr with tag := t } } else o) }

/-- SUBMIT_BATCH: once the descriptor is read, its TAG is returned in both completions (R282, log entry 97). -/
def submitBatch (h : CmdHdr) (len addr : Nat) (s : State) : State :=
  let f := h.fn.val
  if len < 16 ∨ 16 + 8 * 256 < len then reject h 2 s
  else
    let (s, st, b) := devRead f addr len s
    if st ≠ 0 then reject h st s
    else
      let c := fieldAt b 0 1
      let s := retag h (fieldAt b 8 8) s
      let h := { h with tag := fieldAt b 8 8 }
      let s := if napKeeps s c then s else endNap s
      let s := if (ctxOf s f c).isSome then expireAll c s else s
      match openServe s f c with
      | none => refuseBatch h c 1 none s
      | some v => acceptBatch h c v b s

def execSubmitBatch (h : CmdHdr) (len addr : Nat) (s : State) : Out :=
  commit s (hostCmd (.submitBatch h len addr) h .refused (submitBatch h len addr) s)

/-- Bind or unbind the windows of a batch's set (R283). -/
def bindWindows (v : Serve) (b : Batch) : Tbl Nat :=
  let w := b.seq % v.a.sets
  (indexed b.slots).foldl (fun t e =>
    let k := w * v.a.segments + e.1
    match e.2 with
    | some slot => tput t k slot
    | none => tdel t k) v.binds

/-- BATCH_START: the windows of the set are bound, and T30 is posted on every used tile (R281, R283). -/
def batchStart (c : Nat) (s : State) : State :=
  match serveGet s c, ctxGet s c with
  | some v, some x =>
    match v.batches.find? (fun b => b.seq == v.nextStart) with
    | none => s
    | some b =>
      if mayStart s c v && healthy s && awake s then
        let n := (b.slots.filter (·.isSome)).length
        let s := maxR (addR s (Reg.WINDOWS_BOUND c) n) (Reg.START_MAX c) (s.timeBase - v.ready.getD s.timeBase)
        let s := serveMod c (fun v => { v with binds := bindWindows v b, nextStart := v.nextStart + 1, ready := none }) s
        (x.tiles.map (·.1)).foldl (fun s site => postToken c site 30 s) s
      else s
  | _, _ => s

def execBatchStart (c : CtxId) (s : State) : Out := commit s (batchStart c.val s)

/-- BATCH_COMPLETE: every used tile has completed the END_STEP of the oldest batch's step (R281, R283). -/
def batchComplete (c : Nat) (s : State) : State :=
  match serveGet s c, ctxGet s c with
  | some v, some x =>
    match v.batches with
    | [] => s
    | b :: rest =>
      if b.seq < v.nextStart && v.base + b.seq < minSteps x && s.faultSeq.phase == .none then
        let s := addR (addR s (Reg.BATCHES_DONE c) 1) (Reg.REQUESTS_DONE c) b.requests
        finish b.hdr 0 0 0 (serveMod c (fun v => { v with batches := rest }) (orR s (Reg.SERVE_CAUSE c) 1))
      else s
  | _, _ => s

def execBatchComplete (c : CtxId) (s : State) : Out := commit s (batchComplete c.val s)

/-! ### The model cache -/

/-- The cached regions of a context, in ascending OBJECT_ID (R277). -/
def cachedRegions (v : Serve) (x : Ctx) : List ObjRec :=
  (upFrom v.a.regionsBase v.a.regions).filterMap (fun id => x.pitch.objs.find? (fun o => o.id == id))

/-- Bytes of all cached regions together. -/
def regionBytes (v : Serve) (x : Ctx) : Nat := ((cachedRegions v x).map (·.size)).foldl (· + ·) 0

/-- The size that SOURCE must have for a target; none where the context caches no such target. -/
def targetSize (v : Serve) (x : Ctx) (t : Nat) : Option Nat :=
  if t = 0xFFFFFFFF then (if v.a.regions = 0 then none else some (regionBytes v x))
  else if v.a.objectsBase ≤ t ∧ t < v.a.objectsBase + v.a.objects then (x.pitch.objs.find? (fun o => o.id == t)).map (·.size)
  else none

/-- CACHE_STAGE (R291). -/
def cacheStage (h : CmdHdr) (c t src : Nat) (s : State) : State :=
  match ctxOf s h.fn.val c, openServe s h.fn.val c, objGet s h.fn.val src with
  | some x, some v, some o =>
    if targetSize v x t ≠ some o.size then finish h 1 0 0 s
    else if flagged o.oflags then finish h 2 0 0 s
    else finish h 0 0 0 (serveMod c (fun v => { v with staged := tput v.staged t src }) s)
  | _, _, _ => finish h 1 0 0 s

def execCacheStage (h : CmdHdr) (ctx target source : Nat) (s : State) : Out :=
  commit s (hostCmd (.cacheStage h ctx target source) h .refused (cacheStage h ctx target source) s)

/-- CACHE_DROP (R291). -/
def cacheDrop (h : CmdHdr) (c t : Nat) (s : State) : State :=
  match openServe s h.fn.val c with
  | some v =>
    if (tget v.staged t).isNone then finish h 1 0 0 s
    else finish h 0 0 0 (serveMod c (fun v => { v with staged := tdel v.staged t }) s)
  | none => finish h 1 0 0 s

def execCacheDrop (h : CmdHdr) (ctx target : Nat) (s : State) : Out :=
  commit s (hostCmd (.cacheDrop h ctx target) h .refused (cacheDrop h ctx target) s)

/-- A staged source of a function has a page in the far store. -/
def farSource (s : State) (f : Nat) (e : Nat × Nat) : Bool := match objGet s f e.2 with | some o => tierOf o.pages != 0 | none => false

/-- CACHE_COMMIT: it takes its commit point, the lowest BATCH_SEQ whose T30 has not been posted (R292, R294). -/
def cacheCommit (h : CmdHdr) (c : Nat) (s : State) : State :=
  match openServe s h.fn.val c with
  | none => finish h 2 0 0 s
  | some v =>
    if v.turn.isSome then finish h 1 0 0 s
    else if v.staged.isEmpty then finish h 2 0 0 s
    else if v.staged.any (farSource s h.fn.val) then finish h 3 0 0 s
    else if s.ctxs.any (fun e => e.1 != c && e.2.pitch.flags.testBit 0 && importsStaged s (c, v) e.2) then finish h 4 0 0 s
    else serveMod c (fun v => { v with turn := some { hdr := h, seq := v.nextStart, began := s.timeBase } }) s

def execCacheCommit (h : CmdHdr) (ctx : Nat) (s : State) : Out :=
  commit s (hostCmd (.cacheCommit h ctx) h .refused (cacheCommit h ctx) s)

/-- A serving context has no batch started and not complete. -/
def drained (v : Serve) : Bool := v.batches.all (fun b => v.nextStart ≤ b.seq)

/-- Write a region's bytes: one run of each of its banks, in ascending bank (R150). -/
def writeRegion (o : ObjRec) (bs : Bytes) (s : State) : State :=
  let n := o.size / popcount o.banks
  (indexed (bitPositions 16 o.banks)).foldl (fun s e =>
    tsWrite s o.tile (e.2 * 8192 + o.offset / 32) (slice bs (e.1 * n) n)) s

/-- Write the cached regions one after another. -/
def writeRegions : List ObjRec → Bytes → State → State
  | [], _, s => s
  | o :: t, bs, s => writeRegions t (bs.drop o.size) (writeRegion o (bs.take o.size) s)

/-- The staged version of the cached regions is copied into them; false where its read fails, which is a chip fault (R292). -/
def copyRegions (f : Nat) (v : Serve) (x : Ctx) (s : State) : State × Bool :=
  match (tget v.staged 0xFFFFFFFF).bind (objGet s f) with
  | none => (s, true)
  | some src =>
    let (s, b) := objRead true src 0 (regionBytes v x) s
    match b with
    | some bs => (writeRegions (cachedRegions v x) bs s, true)
    | none => (s, false)

/-- A cached object exchanges its pages with its staged source (R292). -/
def exchange (f : Nat) (x : Ctx) (s : State) (e : Nat × Nat) : State :=
  match (if e.1 = 0xFFFFFFFF then none else objGet s f e.2), ctxObj s x e.1 with
  | some src, some (_, some o) => objPut (objPut s { o with pages := src.pages }) { src with pages := o.pages }
  | _, _ => s

/-- COMMITTED: every batch below the commit point, and those of serving contexts that import, have completed; the staged
versions become current together (R292-R294). -/
def committed (c : Nat) (s : State) : State :=
  match serveGet s c, ctxGet s c with
  | some v, some x =>
    match v.turn with
    | none => s
    | some t =>
      let others := s.serves.all (fun e => match ctxGet s e.1 with
        | some y => e.1 == c || !importsStaged s (c, v) y || drained e.2
        | none => true)
      if drained v && others && healthy s && awake s then
        let (s, ok) := copyRegions x.fn v x s
        if !ok then s else
        let s := v.staged.foldl (exchange x.fn x) s
        let s := setR (setR s (Reg.COMMIT_SEQ c) t.seq) (Reg.COMMIT_TIME c) (min (s.timeBase - t.began) 0xFFFFFFFF)
        let s := serveMod c (fun v => { v with staged := [], turn := none }) (orR s (Reg.SERVE_CAUSE c) 8)
        finish t.hdr 0 0 t.seq s
      else s
  | _, _ => s

def execCommitted (c : CtxId) (s : State) : Out := commit s (committed c.val s)

end Sys2Proof.Machine
end

