-- ==== Sys2Proof/Machine/Token.lean ====
section
/-! DEFINITION. The tokeniser (R324-R329): profiles, scaling, colour conversion, normalisation, token rows, and the bytes
of a sample's slot. -/

namespace Sys2Proof.Machine

/-! ### Profiles (R324) -/

/-- A profile's fields. -/
structure Profile where
  cropX : Nat
  cropY : Nat
  cropW : Nat
  cropH : Nat
  outW : Nat
  outH : Nat
  patch : Nat
  tubelet : Nat
  clip : Nat
  step : Nat
  scale : Nat
  colour : Nat
  fmt : Nat
  defaults : Nat
  mean : List Nat
  inv : List Nat
  deriving DecidableEq, Repr

/-- The 64 bytes of a profile as fields. -/
def profileOf (b : Bytes) : Profile :=
  { cropX := fieldAt b 0 2, cropY := fieldAt b 2 2, cropW := fieldAt b 4 2, cropH := fieldAt b 6 2, outW := fieldAt b 8 2,
    outH := fieldAt b 10 2, patch := fieldAt b 12 1, tubelet := fieldAt b 13 1, clip := fieldAt b 14 1,
    step := fieldAt b 15 1, scale := fieldAt b 16 1, colour := fieldAt b 17 1, fmt := fieldAt b 18 1,
    defaults := fieldAt b 19 1, mean := (List.range 3).map (fun c => fieldAt b (0x14 + 4 * c) 4),
    inv := (List.range 3).map (fun c => fieldAt b (0x20 + 4 * c) 4) }

/-- Tokens of a sample, and elements of a token (R328). -/
def tokens (p : Profile) : Nat := p.clip / p.tubelet * (p.outH / p.patch) * (p.outW / p.patch)
def tokenLen (p : Profile) : Nat := 3 * p.tubelet * p.patch * p.patch

/-- A profile keeps the conditions of R324. -/
def profileOk (b : Bytes) (chroma : Nat) : Bool :=
  let p := profileOf b
  (chroma != 0 || [p.cropX, p.cropY, p.cropW, p.cropH].all (fun v => v % 2 == 0))
    && [8, 14, 16, 32].contains p.patch && [1, 2, 4, 8].contains p.tubelet
    && [p.outW, p.outH].all (fun v => v != 0 && v % p.patch == 0 && v ≤ 1024)
    && p.clip != 0 && p.clip % p.tubelet == 0 && p.clip ≤ 64 && p.step != 0 && p.scale ≤ 1 && p.colour ≤ 1
    && [0x01, 0x02, 0x12].contains p.fmt && p.defaults < 8 && p.defaults % 4 != 3
    && p.mean.all finite32 && p.inv.all (fun w => finite32 w && w % 2 ^ 31 != 0) && (slice b 0x2C 20).all (· == 0#8)
    && tokens p ≤ 65536

/-- Packs of a sample, and SLOT_BYTES (R329). -/
def slotPacks (p : Profile) : Nat := ceilDiv (tokens p) 32 * ceilDiv (tokenLen p) 32
def scaleArea (p : Profile) : Nat := if p.fmt = 0x12 then ceilDiv (32 * slotPacks p) 1024 * 1024 else 0
def slotBytes (p : Profile) : Nat := 1024 + slotPacks p * packBytes p.fmt + scaleArea p

/-! ### Scaling (R325) -/

/-- FP32 operations on values. -/
def sub32 (a b : Fp) : Fp := add32 a b.negate
def num (n : Nat) : Fp := .fin false n 0
def half : Fp := .fin false 1 (-1)
def zero32 : Fp := .fin false 0 0
def one32 : Fp := .fin false 1 0

/-- A value held between two bounds. -/
def clamp (lo hi x : Fp) : Fp := Fp.max lo (Fp.min x hi)

/-- The whole part of a value of at least 0. -/
def wholePart : Fp → Nat
  | .fin false m e => if e < 0 then m / 2 ^ (-e).toNat else m * 2 ^ e.toNat
  | _ => 0

/-- One plane of a picture: its samples in raster order, its width, and the sample range in force in each dimension. -/
structure Plane where
  px : List Nat
  width : Nat
  loX : Nat
  hiX : Nat
  loY : Nat
  hiY : Nat
  deriving DecidableEq, Repr

/-- A sample of a plane. -/
def Plane.at (p : Plane) (x y : Nat) : Fp := num (nth p.px (y * p.width + x))

/-- The blend of two neighbours. -/
def blend (a b f : Fp) : Fp := add32 (mul32 a (sub32 one32 f)) (mul32 b f)

/-- The bilinear value at a position counted from the first sample of the range in force, clamped to that range: across, then
down. -/
def Plane.bilinear (p : Plane) (x y : Fp) : Fp :=
  let x := clamp zero32 (num (p.hiX - p.loX)) x
  let y := clamp zero32 (num (p.hiY - p.loY)) y
  let x0 := wholePart x
  let y0 := wholePart y
  let at_ := fun (dx dy : Nat) => p.at (min (p.loX + x0 + dx) p.hiX) (min (p.loY + y0 + dy) p.hiY)
  let fx := sub32 x (num x0)
  let fy := sub32 y (num y0)
  blend (blend (at_ 0 0) (at_ 1 0) fx) (blend (at_ 0 1) (at_ 1 1) fx) fy

/-- The crop rectangle of a picture: x, y, width, height. -/
def cropOf (p : Profile) (q : Picture) : Nat × Nat × Nat × Nat :=
  if p.cropW = 0 then (0, 0, q.width, q.height) else (p.cropX, p.cropY, p.cropW, p.cropH)

/-- A picture can be cropped and scaled (R325). -/
def cropOk (p : Profile) (q : Picture) : Bool :=
  let (x, y, w, h) := cropOf p q
  x + w ≤ q.width && y + h ≤ q.height && w != 0 && h != 0 && (p.scale == 0 || (w % p.outW == 0 && h % p.outH == 0))

/-- Luma rows per chroma row, and luma columns per chroma column. -/
def vSub (q : Picture) : Nat := if q.chroma = 1 then 2 else 1
def hSub (q : Picture) : Nat := if q.chroma = 3 then 1 else 2

/-- The planes of a picture: luma, and chroma with its range of samples that the rectangle covers. -/
def planesOf (p : Profile) (q : Picture) : Plane × Plane × Plane :=
  let (x, y, w, h) := cropOf p q
  let v := vSub q
  let u := hSub q
  let c := fun (l : List Nat) => (
    { px := l, width := (q.width + u - 1) / u, loX := x / u, hiX := (x + w + u - 1) / u - 1,
      loY := y / v, hiY := (y + h + v - 1) / v - 1 } : Plane)
  ({ px := q.luma, width := q.width, loX := x, hiX := x + w - 1, loY := y, hiY := y + h - 1 }, c q.cb, c q.cr)

/-- The chroma position of a position in the rectangle, for chroma location type 0, counted from the first chroma sample that the
rectangle covers: columns coincide with luma's, rows lie halfway between two (R325). -/
def chromaX (q : Picture) (cx : Nat) (x : Fp) : Fp :=
  if hSub q = 1 then x else (add32 x (num (cx % 2))).scale (-1)
def chromaY (q : Picture) (cy : Nat) (y : Fp) : Fp :=
  if vSub q = 1 then y else (sub32 (add32 y (num (cy % 2))) half).scale (-1)

/-- The source position of output sample i, within the rectangle (R325). -/
def sourcePos (size out i : Nat) : Fp :=
  clamp zero32 (num (size - 1)) (sub32 (mul32 (add32 (num i) half) (div32 (num size) (num out))) half)

/-- The mean of a list of values, summed in order. -/
def mean32 (l : List Fp) : Fp := div32 (l.foldl add32 zero32) (num l.length)

/-- The samples of a plane whose places lie in a block of `n` luma samples from `first`, at `u` luma samples each (R325). -/
def blockOf (u first n : Nat) : List Nat := (List.range (n + 1)).filterMap (fun k =>
  let c := (first + u - 1) / u + k
  if c * u < first + n then some c else none)

/-- The mean of a block of a chroma plane: of its own samples in raster order, or, of a block in which none lies, of the values
at its luma samples' places (R325, log entry 63). -/
def chromaMean (q : Picture) (c : Plane) (x y cx cy bw bh : Nat) : Fp :=
  let cells := (blockOf (vSub q) y bh).flatMap (fun r => (blockOf (hSub q) x bw).map (fun k => (k, r)))
  if cells.isEmpty then
    mean32 ((List.range (bw * bh)).map (fun k =>
      c.bilinear (chromaX q cx (num (x - cx + k % bw))) (chromaY q cy (num (y - cy + k / bw)))))
  else mean32 (cells.map (fun e => c.at e.1 e.2))

/-- The three scaled components of an output sample, as codes in FP32: luma, then chroma where there is any. -/
def scaledAt (p : Profile) (q : Picture) (i j : Nat) : Fp × Fp × Fp :=
  let (cx, cy, w, h) := cropOf p q
  let (l, cb, cr) := planesOf p q
  if p.scale = 0 then
    let x := sourcePos w p.outW i
    let y := sourcePos h p.outH j
    let c := fun (c : Plane) => c.bilinear (chromaX q cx x) (chromaY q cy y)
    (l.bilinear x y, c cb, c cr)
  else
    let bw := w / p.outW
    let bh := h / p.outH
    let x := cx + i * bw
    let y := cy + j * bh
    (mean32 ((List.range (bw * bh)).map (fun k => l.at (x + k % bw) (y + k / bw))),
      chromaMean q cb x y cx cy bw bh, chromaMean q cr x y cx cy bw bh)

/-! ### Colour (R326) -/

/-- The matrix in force: 0 BT.601, 1 BT.709, 2 BT.2020; and full range. -/
def matrixUsed (p : Profile) (q : Picture) : Nat :=
  match q.matrix with
  | some 1 => 1
  | some 5 => 0
  | some 6 => 0
  | some 9 => 2
  | _ => p.defaults % 4
def fullUsed (p : Profile) (q : Picture) : Bool := q.fullRange.getD (p.defaults.testBit 2)

/-- A decimal fraction in FP32. -/
def frac (a b : Nat) : Fp := div32 (num a) (num b)

/-- Kr and Kb of a matrix. -/
def krOf (m : Nat) : Fp := if m = 0 then frac 299 1000 else if m = 1 then frac 2126 10000 else frac 2627 10000
def kbOf (m : Nat) : Fp := if m = 0 then frac 114 1000 else if m = 1 then frac 722 10000 else frac 593 10000

/-- The three components of an output sample before normalisation (R326). -/
def colourAt (p : Profile) (q : Picture) (v : Fp × Fp × Fp) : List Fp :=
  let k := 2 ^ (q.depth - 8)
  let full := fullUsed p q
  let y := if full then div32 v.1 (num (2 ^ q.depth - 1)) else div32 (sub32 v.1 (num (16 * k))) (num (219 * k))
  let c := fun (x : Fp) => if q.chroma = 0 then zero32
    else if full then div32 (sub32 x (num (2 ^ (q.depth - 1)))) (num (2 ^ q.depth - 1))
    else div32 (sub32 x (num (128 * k))) (num (224 * k))
  let cb := c v.2.1
  let cr := c v.2.2
  let unit := clamp zero32 one32
  if p.colour = 1 then [unit y, unit (add32 cb half), unit (add32 cr half)]
  else
    let kr := krOf (matrixUsed p q)
    let kb := kbOf (matrixUsed p q)
    let r := add32 y (mul32 ((sub32 one32 kr).scale 1) cr)
    let b := add32 y (mul32 ((sub32 one32 kb).scale 1) cb)
    let g := div32 (sub32 (sub32 y (mul32 kr r)) (mul32 kb b)) (sub32 (sub32 one32 kr) kb)
    [unit r, unit g, unit b]

/-- A result beyond the FP32 range stays finite, at the largest finite value of its sign: no value that the tokeniser produces is
non-finite (R81, R327, log entry 94). -/
def keepFinite : Fp → Fp
  | .inf neg => .fin neg (2 ^ 24 - 1) 104
  | x => x

/-- The normalised components of an output sample (R327). -/
def normalAt (p : Profile) (q : Picture) (i j : Nat) : List Fp :=
  (indexed (colourAt p q (scaledAt p q i j))).map (fun e =>
    keepFinite (mul32 (keepFinite (sub32 e.2 (ofF32 (nth p.mean e.1)))) (ofF32 (nth p.inv e.1))))

/-! ### Tokens (R327, R328) -/

/-- The values of one token of a tubelet: picture, row, column, component, the last fastest. -/
def tokenVals (p : Profile) (qs : List Picture) (pr pc : Nat) : List Fp :=
  qs.flatMap (fun q => (List.range (p.patch * p.patch)).flatMap (fun k =>
    normalAt p q (pc * p.patch + k % p.patch) (pr * p.patch + k / p.patch)))

/-- A token row in OUTFMT: its codes padded to whole blocks of 32, its scales, and how many elements saturated. -/
def tokenRow (p : Profile) (vs : List Fp) : List Nat × List Nat × Nat :=
  let nb := ceilDiv vs.length 32
  let vs := vs ++ List.replicate (32 * nb - vs.length) zero32
  if p.fmt = 0x12 then
    let bs := (blocks32 vs nb).map (mxBlock .e4m3 (fun _ => .rne))
    (bs.flatMap (fun b => b.2.map (·.code)), bs.map (·.1), ((bs.flatMap (·.2)).filter (·.sat)).length)
  else
    let cs := vs.map (convert (objFmt p.fmt) .rne)
    (cs.map (·.code), [], (cs.filter (·.sat)).length)

/-- The token rows of a tubelet; of one whose staging was corrupted, over values that are free (R305). -/
def tubeletRows (p : Profile) (free : Option (Nat → Nat)) (qs : List Picture) : List (List Nat × List Nat × Nat) :=
  let pw := p.outW / p.patch
  (List.range (p.outH / p.patch * pw)).map (fun k => tokenRow p (match free with
    | some g => (List.range (tokenLen p)).map (fun i => keepFinite (ofF32 (g (k * tokenLen p + i) % 2 ^ 32)))
    | none => tokenVals p qs (k / pw) (k % pw)))

/-- The bytes of one row of one pack (R161). -/
def rowBytes (p : Profile) (codes : List Nat) (c : Nat) : Bytes :=
  codeBytes (objFmt p.fmt).bits ((List.range 32).map (fun j => nth codes (32 * c + j)))

/-- The pack area of a sample (R161, R329). -/
def packArea (p : Profile) (rows : List (List Nat × List Nat)) : Bytes :=
  let cb := ceilDiv (tokenLen p) 32
  (List.range (slotPacks p)).flatMap (fun k =>
    (List.range 32).flatMap (fun i => rowBytes p (rows.getD (32 * (k / cb) + i) ([], [])).1 (k % cb)))

/-- The scale of a row that pads a pack. -/
def padScale : Nat := (mxBlock .e4m3 (fun _ => .rne) (List.replicate 32 zero32)).1

/-- The scale area of a sample: one scale block per pack, one scale per row, padded to a whole KiB (R329). -/
def scaleBytes (p : Profile) (rows : List (List Nat × List Nat)) : Bytes :=
  let cb := ceilDiv (tokenLen p) 32
  if p.fmt = 0x12 then
    slice ((List.range (slotPacks p)).flatMap (fun k => (List.range 32).map (fun i =>
      BitVec.ofNat 8 (match rows[32 * (k / cb) + i]? with
        | some r => nth r.2 (k % cb)
        | none => padScale)))) 0 (scaleArea p)
  else []

/-- Where a token row lies in its slot, and its bytes there: its part of each pack, and its scale of each pack's scale block (R161,
R329). -/
def rowPieces (p : Profile) (row : Nat) (r : List Nat × List Nat) : List (Nat × Bytes) :=
  let cb := ceilDiv (tokenLen p) 32
  let line := packBytes p.fmt / 32
  let pack := fun c => row / 32 * cb + c
  (List.range cb).map (fun c => (1024 + pack c * packBytes p.fmt + row % 32 * line, rowBytes p r.1 c))
    ++ (if p.fmt = 0x12 then (List.range cb).map (fun c =>
          (1024 + slotPacks p * packBytes p.fmt + pack c * 32 + row % 32, [BitVec.ofNat 8 (nth r.2 c)])) else [])

/-- What of the pack and scale areas belongs to no token: the rows that pad the last packs, and the end of the scale area (R329). -/
def padPieces (p : Profile) : List (Nat × Bytes) :=
  (upFrom (tokens p) (ceilDiv (tokens p) 32 * 32 - tokens p)).flatMap (fun row =>
      rowPieces p row ([], List.replicate (ceilDiv (tokenLen p) 32) padScale))
    ++ (if p.fmt = 0x12 then
          [(1024 + slotPacks p * packBytes p.fmt + 32 * slotPacks p, List.replicate (scaleArea p - 32 * slotPacks p) 0#8)]
        else [])

/-- The metadata record without its CHECK (R329): channel, sample number, PROGRAM and PID, and the pictures. -/
def metaBytes (p : Profile) (n k program pid : Nat) (ps : List Taken) : Bytes :=
  match ps.head?, ps.getLast? with
  | some a, some z =>
    let q := a.pic
    let flags := b2n q.field + 2 * b2n (q.field && q.bottom) + 4 * b2n a.pts.isSome + 8 * p.colour + 16 * matrixUsed p q
      + 64 * b2n (fullUsed p q) + 128 * b2n (q.grain && a.codec == 4)
    [0x4A#8, 0x58#8, 0x4D#8, 0x53#8] ++ natLe 2 n ++ natLe 2 flags ++ natLe 8 k ++ natLe 8 a.index ++ natLe 8 (a.pts.getD 0)
      ++ natLe 8 (z.pts.getD 0) ++ natLe 2 q.width ++ natLe 2 q.height ++ natLe 4 (tokens p) ++ natLe 2 (tokenLen p)
      ++ natLe 2 (ceilDiv (tokenLen p) 32 * 32) ++ natLe 1 p.fmt ++ natLe 1 a.codec ++ natLe 1 q.depth ++ natLe 1 0
      ++ natLe 2 program ++ natLe 2 pid
  | _, _ => []

/-- The bytes of a sample's slot (R329). -/
def slotImage (p : Profile) (n k program pid : Nat) (ps : List Taken) (rows : List (List Nat × List Nat)) : Bytes :=
  let m := metaBytes p n k program pid ps
  let body := packArea p rows ++ scaleBytes p rows
  slice (m ++ natLe 4 (crc32c (m ++ body))) 0 1024 ++ body

end Sys2Proof.Machine
end

