-- ==== Sys2Proof/Machine/Media.lean ====
section
/-! DEFINITION. The media front end (R303-R340): channels, feeds, decode engines and samples. What a codec's standard makes of
coded bytes (R313) lies outside the spec: the decoded picture, what it says of itself, the length of its access unit, the channels
that hold a whole access unit and how many pictures leave the decoder are operands of the engines' commands (log entry 62). -/

namespace Sys2Proof.Machine

/-! ### Channels -/

/-- An open channel. -/
def chanGet (s : State) (n : Nat) : Option Channel := tget s.chans n

/-- A channel's profile. -/
def Channel.prof (ch : Channel) : Profile := profileOf ch.profile

/-- The channel takes a transport stream, and of what packet size (R304, R310). -/
def Channel.ts (ch : Channel) : Bool := ch.a.input ≤ 1
def Channel.packet (ch : Channel) : Nat := if ch.a.input = 0 then 188 else 192

/-- Bytes that the input buffer holds. -/
def Channel.buffered (ch : Channel) : Nat :=
  (ch.raw.map (fun e => e.2.length)).foldl (· + ·) 0 + (ch.es.map (fun r => r.data.length)).foldl (· + ·) 0

/-- The channel has a free slot for the sample in assembly (R317, R330). -/
def slotFree (s : State) (n : Nat) (ch : Channel) : Bool :=
  getR s (Reg.SAMPLES n) + ch.ready.length < getR s (Reg.RELEASED n) + ch.a.slotCount

/-- PHASE of a channel (R339). -/
def chanPhase (s : State) (n : Nat) (ch : Channel) : Nat :=
  if ch.closing.isSome then 4 else if ch.ended then 5 else if !slotFree s n ch then 3
  else if ch.begun && (!ch.ts || ch.demux.video.isSome) then 2 else 1

/-- CHANNEL_STATE follows the channel (R339). -/
def syncChan (n : Nat) (s : State) : State :=
  match chanGet s n with
  | none => s
  | some ch =>
    let pid := (ch.demux.video.map (·.1)).getD 0x1FFF
    setR s (Reg.CHANNEL_STATE n)
      (2 ^ 31 + chanPhase s n ch * 2 ^ 28 + ch.codec * 2 ^ 25 + b2n ((ch.shape.map (·.2.2.1)).getD false) * 2 ^ 24 + ch.a.engine * 2 ^ 18 + pid)

/-- Change a channel. -/
def chanMod (n : Nat) (g : Channel → Channel) (s : State) : State :=
  match chanGet s n with
  | some ch => syncChan n { s with chans := tput s.chans n (g ch) }
  | none => s

/-- The logical engine that a physical one serves as (R316, R335). -/
def logicalOf (s : State) (e : Nat) : Option Nat :=
  if fld s (Reg.DECODE_FITNESS e) 31 30 = 1 then some (fld s (Reg.DECODE_FITNESS e) 29 24) else none

/-- The physical engine of a logical one. -/
def physicalOf (s : State) (l : Nat) : Option Nat := (List.range 52).find? (fun e => logicalOf s e == some l)

/-- Channels open on a logical engine. -/
def chansOn (s : State) (l : Nat) : List (Nat × Channel) := s.chans.filter (fun e => e.2.a.engine == l)

/-- One engine's status follows the channels and the reserved sets (R336). -/
def syncEngineReg (s : State) (e : Nat) : State :=
  match logicalOf s e with
  | none => s
  | some l =>
    let k := Reg.ENGINE_STATUS e
    let s := setB s k 29 (s.ctxs.any (fun x => x.2.pitch.flags.testBit 2 && x.2.pitch.engines.testBit l))
    setF s k 8 0 (chansOn s l).length

/-- The part-wide media registers follow the channels (R334, R336). -/
def syncMedia (s : State) : State :=
  (List.range 52).foldl syncEngineReg (setF s Reg.MEDIA_STATUS 12 0 s.chans.length)

/-! ### Decks that list a channel (R351) -/

/-- PHASE of a deck (R362). -/
def deckPhase (s : State) (c : Nat) (d : Deck) : Nat :=
  let have_ := fun (j : DeckChan) => j.closed.getD (getR s (Reg.SAMPLES j.num))
  let top := (d.window - d.a.firstWindow) * d.a.depth + d.a.depth - 1
  if d.halted then 6 else if d.starved then 5 else if d.started.isNone then 1
  else if !d.begun then (if d.chans.all (fun j => top < have_ j) then 2 else 3)
  else
    let n := d.pos / d.a.batch
    let lag := d.a.feedSlots / d.a.batch
    let done := match ctxGet s c with
      | some x => if x.pitch.flags.testBit 0 then getR s (Reg.STEP c) else d.started.getD 0 + minSteps x
      | none => 0
    if n < d.a.startStep + lag ∨ n - lag < done then 2 else 4

/-- The deck's registers follow it (R362). -/
def syncDeck (c : Nat) (s : State) : State :=
  match tget s.decks c with
  | none => s
  | some d =>
    let s := setR s (Reg.DECK_STATE c) (2 ^ 31 + deckPhase s c d * 2 ^ 28 + d.chans.length)
    setR (setR s (Reg.WINDOW c) d.window) (Reg.POSITION c) d.pos

/-- Every deck's registers follow it. -/
def syncDecks (s : State) : State := (s.decks.map (·.1)).foldl (fun s c => syncDeck c s) s

/-- A deck whose next window can never have all its samples, since a listed channel has closed or ENDED, is starved
(R351). -/
def starveCheck (s : State) (e : Nat × Deck) : State :=
  let (c, d) := e
  let top := (d.window - d.a.firstWindow) * d.a.depth + d.a.depth - 1
  let short := fun (j : DeckChan) => match j.closed with
    | some k => k ≤ top
    | none => (match chanGet s j.num with | some ch => ch.ended && getR s (Reg.SAMPLES j.num) + ch.ready.length ≤ top | none => false)
  if !d.begun && !d.halted && !d.starved && d.chans.any short then
    syncDeck c (orR { s with decks := tput s.decks c { d with starved := true } } (Reg.DECK_CAUSE c) 1)
  else s

/-- Every deck is checked for starvation. -/
def starveDecks (s : State) : State := s.decks.foldl starveCheck s

/-- A channel has closed: the decks that list it keep its count of samples (R351). -/
def deckLoses (n : Nat) (s : State) : State :=
  let k := getR s (Reg.SAMPLES n)
  starveDecks { s with decks := s.decks.map (fun e => (e.1, { e.2 with chans := e.2.chans.map (fun j =>
    if j.num = n ∧ j.closed.isNone then { j with closed := some k } else j) })) }

/-! ### Reports and drops (R320-R323, R328) -/

/-- PROGRAM and PID of a channel's reports and samples (R322). -/
def programOf (ch : Channel) : Nat :=
  if ch.ts then (if ch.a.program = 0xFFFF then ((ch.demux.pat.head?).map (·.1)).getD 0xFFFF else ch.a.program) else 0xFFFF
def pidOf (ch : Channel) : Nat := if ch.ts then (ch.demux.video.map (·.1)).getD 0x1FFF else 0x1FFF

/-- The entry after one in a report ring (R322). -/
def nextEntry (ch : Channel) (t : Nat) : Nat := if t + 64 ≤ ch.a.reportSize then t + 32 else 64

/-- HEAD is read only when the ring lacks room, at most once every 1 us (R323). -/
def readHead (n : Nat) (ch : Channel) (s : State) : State :=
  let due : Bool := match ch.headAt with
    | some t => decide (t + usAon ≤ s.timeBase)
    | none => true
  if nextEntry ch ch.tail = ch.head ∧ due then
    let (s, st, b) := devRead ch.fn ch.a.reportAddr 8 s
    chanMod n (fun ch => { ch with head := if st = 0 then leNat b else ch.head, headAt := some s.timeBase }) s
  else s

/-- Write one entry of a report ring, or lose it (R322, R323). -/
def writeReport (n reason codec index : Nat) (pts : Option Nat) (count : Nat) (s : State) : State :=
  match chanGet s n with
  | none => s
  | some ch0 =>
    let s := readHead n ch0 s
    match chanGet s n with
    | none => s
    | some ch =>
      let t := nextEntry ch ch.tail
      if t = ch.head then
        orR (orR (satR s Reg.REPORTS_LOST 1) Reg.MEDIA_CAUSE 2) (Reg.CHANNEL_CAUSE n) 4
      else
        let p := match pts with
          | some v => 2 ^ 63 + v
          | none => 0
        let b := natLe 2 n ++ natLe 1 reason ++ natLe 1 codec ++ natLe 2 (pidOf ch) ++ natLe 2 (programOf ch) ++ natLe 8 index
          ++ natLe 8 p ++ natLe 4 count ++ natLe 4 0
        let s := (devWrite ch.fn (ch.a.reportAddr + ch.tail) b s).1
        let s := (devWrite ch.fn (ch.a.reportAddr + 8) (natLe 8 t) s).1
        chanMod n (fun ch => { ch with tail := t }) s

/-- A run of MISSING_REF drops ends, and its entry is written (R322). -/
def flushRun (n : Nat) (s : State) : State :=
  match (chanGet s n).bind (·.run) with
  | none => s
  | some (i, pts, codec, k) => writeReport n 2 codec i pts k (chanMod n (fun ch => { ch with run := none }) s)

/-- The sample in assembly is discarded (R328). -/
def discardClip (n : Nat) (s : State) : State :=
  match chanGet s n with
  | none => s
  | some ch =>
    if ch.asm.isEmpty then s
    else orR (satR (chanMod n (fun ch => { ch with asm := [], rows := [] }) s) Reg.CLIPS_DISCARDED 1) (Reg.CHANNEL_CAUSE n) 2

/-- A gap in a channel's pictures: it ends the sample in assembly, once those that wait for a slot have been assembled (R328,
R330). -/
def gapClip (n : Nat) (s : State) : State :=
  match chanGet s n with
  | none => s
  | some ch => if ch.queue.isEmpty then discardClip n s else chanMod n (fun ch => { ch with queue := ch.queue ++ [none] }) s

/-- A picture is dropped: it is counted, reported, ends the sample in assembly, and what refers to it is dropped too (R320-R322,
R328). -/
def dropPicture (n reason codec index : Nat) (pts : Option Nat) (s : State) : State :=
  match chanGet s n with
  | none => s
  | some ch =>
    let s := satR (satR (addR s Reg.PICTURES_DROPPED 1) (Reg.DROPS_BY_REASON (reason - 1)) 1) (Reg.DROPS n) 1
    let s := match physicalOf s ch.a.engine with
      | some e => satR s (Reg.ENGINE_DROPS e) 1
      | none => s
    let s := gapClip n (orR (orR s Reg.MEDIA_CAUSE 1) (Reg.CHANNEL_CAUSE n) 1)
    let s := chanMod n (fun ch => { ch with lost := ch.lost ++ [index] }) s
    if reason = 2 then
      chanMod n (fun ch => { ch with run := match ch.run with
        | some (i, p, c, k) => some (i, p, c, k + 1)
        | none => some (index, pts, codec, 1) }) s
    else writeReport n reason codec index pts 1 (flushRun n s)

/-! ### Closing -/

/-- A channel is gone: waiting feeds and closes complete, engines leave it, decks note its end (R332, R351). -/
def closeChan (n feedCode closeCode : Nat) (s : State) : State :=
  match chanGet s n with
  | none => s
  | some ch =>
    let s := discardClip n (flushRun n s)
    let s := ch.feeds.foldl (fun s f => finish f.hdr feedCode 0 0 s) s
    let s := { s with chans := tdel s.chans n,
                      engines := s.engines.map (fun e => (e.1, if e.2.last = n then { e.2 with busy := false } else e.2)) }
    let s := match physicalOf s ch.a.engine with
      | some e => if fld s (Reg.ENGINE_STATUS e) 23 12 = n then setB s (Reg.ENGINE_STATUS e) 30 false else s
      | none => s
    let s := syncMedia (deckLoses n (setF s (Reg.CHANNEL_STATE n) 31 28 0))
    (ch.closing.getD []).foldl (fun s h => finish h closeCode 0 0 s) s

/-- An engine decodes a picture of the channel. -/
def decoding (s : State) (n : Nat) : Bool := s.engines.any (fun e => e.2.last == n && e.2.busy)

/-- Nothing that the channel was fed is left to decode. -/
def spent (ch : Channel) : Bool :=
  ch.endFed && ch.feeds.isEmpty && ch.raw.all (fun e => e.2.isEmpty) && ch.es.all (fun r => r.data.isEmpty) && ch.held.isEmpty
    && ch.queue.all (·.isNone)

/-! ### Breaks (R308) -/

/-- A mark in the elementary stream that data after it do not continue data before it; `cut` where a partial picture was discarded
with its PES packet, whose PTS and codec it keeps. -/
def breakMark (cut : Option EsRun) : EsRun :=
  { data := [], header := [], openEnd := false, left := none, damaged := cut.isSome, scrambled := false, disc := true,
    pts := cut.bind (·.pts), codec := (cut.map (·.codec)).getD 0 }

/-- The decoder passes a break: no later picture may refer to an earlier one, and a partial picture before it is dropped with
DISCONTINUITY, counted behind the pictures held (R308, R321, R328). -/
def passBreak (n : Nat) (cut : Option (Option Nat × Nat)) (rest : List EsRun) (s : State) : State :=
  match chanGet s n with
  | none => s
  | some ch =>
    let s := match cut with
      | some (pts, codec) =>
        let s := chanMod n (fun ch => { ch with codec := codec, decoded := ch.decoded + 1, held := ch.held ++ [{
          index := ch.decoded, pts := pts, codec := codec, order := (ch.held.map (·.order)).foldl max 0 + 1, epoch := ch.epoch,
          pics := [], places := 1 }] }) s
        dropPicture n 0x0A codec ch.decoded pts s
      | none => s
    chanMod n (fun ch => { ch with es := rest, floor := ch.decoded, lost := [], epoch := ch.epoch + 1 }) s

/-- The breaks that a channel's decoder has reached take effect: those with no data before them, and, where the channel holds no
whole access unit, those behind a partial one (R308). -/
def reachBreaks (whole : Bool) (n : Nat) : Nat → State → State
  | 0, s => s
  | k + 1, s =>
    match chanGet s n with
    | none => s
    | some ch =>
      let pre := ch.es.takeWhile (fun r => !r.disc)
      match ch.es.dropWhile (fun r => !r.disc) with
      | [] => s
      | m :: rest => match pre.find? (fun r => !r.data.isEmpty) with
        | none => reachBreaks whole n k (passBreak n (if m.damaged then some (m.pts, m.codec) else none) rest s)
        | some r => if whole then s else reachBreaks whole n k (passBreak n (some (r.pts, r.codec)) rest s)
/-- A channel that was fed END and has nothing left is ENDED; one that closes in DRAIN mode and has written its samples closes
(R308, R332). -/
def settleChan (n : Nat) (s : State) : State :=
  match chanGet s n with
  | none => s
  | some ch =>
    if spent ch && !decoding s n then
      let s := if ch.ended then s
        else
          let s := reachBreaks false n ch.es.length s
          let s := orR (flushRun n (discardClip n s)) (Reg.CHANNEL_CAUSE n) 8
          starveDecks (chanMod n (fun ch => { ch with ended := true, es := [], held := [], queue := [] }) s)
      if ch.closing.isSome && ch.ready.isEmpty then closeChan n 6 0 s else s
    else s

/-- Close every channel that a test picks, as DISCARD or at a chip fault (R332). -/
def closeChans (pick : Nat → Channel → Bool) (feedCode closeCode : Nat) (s : State) : State :=
  ((s.chans.filter (fun e => pick e.1 e.2)).map (·.1)).foldl (fun s n => closeChan n feedCode closeCode s) s

/-! ### MEDIA_OPEN (R304-R306) -/

/-- The object of a handle is a plain device object of the function. -/
def plainObj (s : State) (f h : Nat) : Option Obj := (objGet s f h).filter (fun o => !flagged o.oflags)

/-- The work object keeps R305. -/
def workOk (s : State) (f : Nat) (a : MediaArgs) (p : Profile) : Bool :=
  match plainObj s f a.work with
  | some o => tierOf o.pages == 0
      && 0x800000 + a.dpb * a.maxWidth * a.maxHeight * (3 + a.chroma) + 12 * p.outW * p.outH * p.tubelet ≤ o.size
  | none => false

/-- The pool keeps R329, and the slot run meets no other channel's (R306). -/
def poolOk (s : State) (f : Nat) (a : MediaArgs) (p : Profile) : Bool :=
  let sb := slotBytes p
  match plainObj s f a.pool with
  | some o => o.format == 8 && (a.firstSlot + a.slotCount) * sb ≤ o.size
      && s.chans.all (fun e => !(e.2.fn == f && e.2.a.pool == a.pool
          && a.firstSlot * sb < (e.2.a.firstSlot + e.2.a.slotCount) * slotBytes e.2.prof
          && e.2.a.firstSlot * slotBytes e.2.prof < (a.firstSlot + a.slotCount) * sb))
  | none => false

/-- The other fields lie in their ranges (R304). -/
def mediaFieldsOk (a : MediaArgs) : Bool :=
  a.input ≤ 6 && a.chroma ≤ 1 && 2 ≤ a.dpb && a.dpb ≤ 18 && a.maxWidth != 0 && a.maxWidth % 64 == 0 && a.maxWidth ≤ 8192
    && a.maxHeight != 0 && a.maxHeight % 64 == 0 && a.maxHeight ≤ 4352 && 1 ≤ a.slotCount && a.slotCount ≤ 65536
    && (1 < a.input || a.pid ≤ 0x1FFF)

/-- The report ring keeps its rule (R304). -/
def reportOk (s : State) (f : Nat) (a : MediaArgs) : Bool :=
  a.reportAddr % 4096 == 0 && 4096 ≤ a.reportSize && a.reportSize ≤ 0x1000000 && a.reportSize == 2 ^ Nat.log2 a.reportSize
    && mapped s f a.reportAddr a.reportSize

/-- The token and tile keep R306. -/
def mediaTokenOk (x : Option Ctx) (a : MediaArgs) : Bool :=
  a.token < 30 && (match x with
    | some x => tileUsed x.pitch.tileMap a.tile
    | none => a.postEvery == 0)

/-- The checks of R306, in the order of its codes but for PROFILE, on which WORK and POOL rest: 0 is OPENED. -/
def mediaCheck (f : Nat) (a : MediaArgs) (b : Bytes) (s : State) : Nat :=
  let x := ctxOf s f a.ctx
  let p := profileOf b
  if a.ctx ≠ 0xFF ∧ x.isNone then 1
  else if 48 ≤ a.engine ∨ !(shapeDecode s f).testBit a.engine ∨ (physicalOf s a.engine).isNone ∨ bitR s Reg.MAINT_HOLDERS 1 ∨ 256 ≤ (chansOn s a.engine).length then 2
  else if s.ctxs.any (fun e => e.1 != a.ctx && e.2.pitch.flags.testBit 2 && e.2.pitch.engines.testBit a.engine) then 3
  else if 4096 ≤ s.chans.length then 4
  else if !profileOk b a.chroma then 7
  else if !workOk s f a p then 5
  else if a.slotCount = 0 ∨ 65536 < a.slotCount then 9
  else if !poolOk s f a p then 6
  else if !mediaTokenOk x a then 8
  else if !mediaFieldsOk a then 9
  else if !reportOk s f a then 0x0A
  else 0

/-- A demultiplexer that has seen nothing. -/
def Demux.fresh : Demux :=
  { synced := false, lost := false, skipped := 0, patBuf := [], pmtBuf := [], pat := [], patVer := none, pmtVer := none,
    video := none, cc := [] }

/-- A channel as it opens. -/
def Channel.fresh (f : Nat) (a : MediaArgs) (b : Bytes) : Channel :=
  { fn := f, a := a, profile := b, feeds := [], raw := [], demux := Demux.fresh, es := [], endFed := false, begun := false,
    codec := if a.input ≤ 1 then 0 else a.input - 1, decoded := 0, floor := 0, lost := [], epoch := 0, held := [], outIndex := 0,
    shape := none, queue := [], asm := [], rows := [], ready := [], spoiled := false, run := none, tail := 64, head := 64,
    headAt := none, closing := none, ended := false }

/-- MEDIA_OPEN: the lowest free channel number is opened (R306, R338). -/
def mediaOpen (h : CmdHdr) (a : MediaArgs) (s : State) : State :=
  let f := h.fn.val
  let (s, st, b) := devRead f a.profile 64 s
  if st ≠ 0 then reject h st s
  else
    let code := mediaCheck f a b s
    if code = 4 then poolEmpty .channels s.timeBase 4 h s
    else if code ≠ 0 then finish h code 0 0 s
    else match (List.range 4096).find? (fun n => (chanGet s n).isNone) with
      | none => finish h 4 0 0 s
      | some n =>
        let s := tookUnit .channels s.timeBase h s
        let s := resetRange s (Reg.CHANNEL_STATE n) (Reg.CHANNEL_STATE n + 0x20)
        let s := { s with chans := tput s.chans n (Channel.fresh f a b), chanFn := tput s.chanFn n f }
        finish h 0 n 0 (syncMedia (syncChan n s))

def execMediaOpen (h : CmdHdr) (a : MediaArgs) (s : State) : Out :=
  commit s (hostCmd (.mediaOpen h a) h .refused (mediaOpen h a) s)

/-! ### Feeding (R307-R309) -/

/-- A channel of a function. -/
def chanOf (s : State) (f n : Nat) : Option Channel := (chanGet s n).filter (fun ch => ch.fn == f)

/-- MEDIA_FEED (R307, R309). -/
def mediaFeed (h : CmdHdr) (n flags len addr : Nat) (s : State) : State :=
  if len = 0 ∨ 0x4000000 < len ∨ 4 ≤ flags then reject h 2 s
  else match chanOf s h.fn.val n with
    | none => finish h 1 0 0 s
    | some ch =>
      if ch.closing.isSome then finish h 6 0 0 s
      else if ch.endFed ∨ ch.feeds.any (fun f => f.flags.testBit 0) then finish h 2 0 0 s
      else if !mapped s h.fn.val addr len then finish h 3 0 0 (orR s Reg.MEM_CAUSE 0x40)
      else chanMod n (fun ch => { ch with feeds := ch.feeds ++ [{
          hdr := h, addr := addr, left := len, flags := flags, begun := false }] }) s

def execMediaFeed (h : CmdHdr) (chan flags len addr : Nat) (s : State) : Out :=
  commit s (hostCmd (.mediaFeed h chan flags len addr) h (.code 7) (mediaFeed h chan flags len addr) s)

/-- Bytes enter the input buffer: elementary-stream bytes, or transport packets that follow on or follow a break (R308). -/
def takeBytes (disc : Bool) (bs : Bytes) (ch : Channel) : Channel :=
  if ch.ts then
    match ch.raw.getLast?, disc with
    | some (d, b), false => { ch with raw := ch.raw.dropLast ++ [(d, b ++ bs)] }
    | _, _ => { ch with raw := ch.raw ++ [(disc, bs)] }
  else
    { ch with es := ch.es ++ (if disc then [breakMark none] else [])
        ++ [{ data := bs, header := [], openEnd := false, left := none, damaged := false, scrambled := false, disc := false, pts := none,
              codec := ch.a.input - 1 }] }

/-- FEED_COPY: the oldest feed's bytes enter the input buffer as far as there is room; the feed completes with its last byte
(R308, R309). -/
def feedCopy (n : Nat) (s : State) : State :=
  match chanGet s n with
  | none => s
  | some ch =>
    match ch.feeds with
    | [] => s
    | fd :: rest =>
      let room := 0x800000 - ch.buffered
      if room = 0 ∨ s.faultSeq.phase ≠ .none ∨ !awake s ∨ !fnActive s ch.fn then s
      else
        let m := min room fd.left
        let disc := !fd.begun && fd.flags.testBit 1
        let last := m == fd.left
        let s := if disc || (last && fd.flags.testBit 0) then gapClip n s else s
        let (s, st, b) := devRead ch.fn fd.addr m (passing (if ch.fn = 0 then 1 else 2) (spansOf s ch.fn fd.addr m) s)
        if st ≠ 0 then
          finish fd.hdr 4 0 0 (chanMod n (fun ch => takeBytes true [] { ch with feeds := rest, endFed := fd.flags.testBit 0 }) (gapClip n s))
        else
          let fd' := { fd with addr := fd.addr + m, left := fd.left - m, begun := true }
          let s := chanMod n (fun ch => takeBytes disc b { ch with
            feeds := if last then rest else fd' :: rest, endFed := ch.endFed || (last && fd.flags.testBit 0) }) s
          if last then finish fd.hdr 0 0 0 s else s

def execFeedCopy (n : ChanId) (s : State) : Out := commit s (feedCopy n.val s)

/-- MEDIA_CLOSE (R309, R332). -/
def mediaClose (h : CmdHdr) (n mode : Nat) (s : State) : State :=
  if 1 < mode then reject h 2 s
  else match chanOf s h.fn.val n with
    | none => finish h 1 0 0 s
    | some ch =>
      let s := chanMod n (fun ch => { ch with closing := some (ch.closing.getD [] ++ [h]) }) s
      if mode = 1 then closeChan n 6 0 s
      else
        let s := ch.feeds.foldl (fun s f => finish f.hdr 6 0 0 s) (gapClip n s)
        settleChan n (chanMod n (fun ch => { ch with feeds := [], endFed := true }) s)

def execMediaClose (h : CmdHdr) (chan mode : Nat) (s : State) : Out :=
  commit s (hostCmd (.mediaClose h chan mode) h (.code 7) (mediaClose h chan mode) s)

/-! ### Samples (R325-R331) -/

/-- The place of a channel's next sample in its pool: the pool, and the slot's first byte (R330). -/
def slotPlace (s : State) (n : Nat) (ch : Channel) : Option (Obj × Nat) :=
  (objGet s ch.fn ch.a.pool).map (fun o =>
    (o, (ch.a.firstSlot + (getR s (Reg.SAMPLES n) + ch.ready.length) % ch.a.slotCount) * slotBytes ch.prof))

/-- The tokeniser writes pieces of a slot, as unscheduled traffic of source group 5 (R169, R317). -/
def slotWrite (o : Obj) (base : Nat) (ps : List (Nat × Bytes)) (s : State) : State :=
  ps.foldl (fun s e => passing 5 (objSpans s o (e.2.length / pageSize + 2) (base + e.1) e.2.length) (objWrite o (base + e.1) e.2 s)) s

/-- A sample is whole: what pads its slot is written, and its metadata record waits to be (R328-R330). -/
def closeSample (n : Nat) (s : State) : State :=
  match chanGet s n with
  | none => s
  | some ch =>
    let k := getR s (Reg.SAMPLES n) + ch.ready.length
    let s := match slotPlace s n ch with
      | some (o, base) => slotWrite o base (padPieces ch.prof) s
      | none => s
    let b := slotImage ch.prof n k (programOf ch) (pidOf ch) ch.asm ch.rows
    chanMod n (fun ch => { ch with asm := [], rows := [], ready := ch.ready ++ [b.take 1024] }) s

/-- Latent errors in a memory of the front end are met (R337): corrected ones are counted; true where one cannot be corrected. -/
def frontErr (hit : ErrPlace → Bool) (s : State) : State × Bool :=
  let bad := s.errs.any (fun x => hit x.1 && x.2)
  let n := (s.errs.filter (fun x => hit x.1 && !x.2)).length
  let s := { s with errs := s.errs.filter (fun x => !hit x.1) }
  let s := if n = 0 then s else orR (satR s Reg.ENGINE_CORRECTED n) Reg.MEDIA_CAUSE 0x10
  (if bad then orR s Reg.MEDIA_CAUSE 0x20 else s, bad)

/-- The tokens of a tubelet are made by one of the four pipelines, whichever, and written (R327, R331, R337): the state, and
whether the pipeline's memory had an error that cannot be corrected. -/
def tubelet (n : Nat) (ch : Channel) (s : State) : State × Bool :=
  let p := ch.prof
  let (v, s) := freshVal s 2
  let (s, bad) := frontErr (fun x => x == .token v) s
  if bad then (s, true)
  else
    let k := s.freeCtr
    let s := if ch.spoiled then { s with freeCtr := k + tokens p * tokenLen p } else s
    let free := if ch.spoiled then some (fun i => Config.freeValue (k + i)) else none
    let rs := tubeletRows p free ((ch.asm.drop (ch.asm.length - p.tubelet)).map (·.pic))
    let s := satR s Reg.TOK_SAT ((rs.map (·.2.2)).foldl (· + ·) 0)
    let l := rs.map (fun r => (r.1, r.2.1))
    let s := match slotPlace s n ch with
      | some (o, base) => (indexed l).foldl (fun s e => slotWrite o base (rowPieces p (ch.rows.length + e.1) e.2) s) s
      | none => s
    (chanMod n (fun ch => { ch with rows := ch.rows ++ l }) s, false)

/-- A picture joins the sample in assembly; the last of a tubelet has the tubelet's tokens written, the last of a clip completes
the sample (R328, R331). An uncorrectable error of a tokeniser's memory is a chip fault for a channel bound to a context, and drops
the picture of any other (R321, R337). -/
def assemble (n : Nat) (t : Taken) (s : State) : State :=
  match chanGet s n with
  | none => s
  | some ch0 =>
    let p := ch0.prof
    let s := chanMod n (fun ch => { ch with asm := ch.asm ++ [t] }) s
    if (ch0.asm.length + 1) % p.tubelet ≠ 0 then s
    else match chanGet s n with
      | none => s
      | some ch =>
        let (s, bad) := tubelet n ch s
        if bad then
          if ch.a.ctx ≠ 0xFF then (let (v, s) := freshVal s 6; chipFault 0x0F v s) else dropPicture n 9 t.codec t.index t.pts s
        else if ch.asm.length = p.clip then closeSample n s else s

/-- Pictures that waited for a slot are assembled while one is free; a gap among them ends the sample in assembly (R328, R330). -/
def drainQueue (n : Nat) : Nat → State → State
  | 0, s => s
  | k + 1, s =>
    match chanGet s n with
    | none => s
    | some ch => match ch.queue with
      | [] => s
      | x :: rest =>
        if !slotFree s n ch ∨ s.faultSeq.phase ≠ .none then s
        else
          let s := chanMod n (fun ch => { ch with queue := rest }) s
          drainQueue n k (match x with
            | some t => assemble n t s
            | none => discardClip n s)

/-- Slots of a channel have been released (R330). -/
def slotsFreed (n : Nat) (s : State) : State :=
  match chanGet s n with
  | none => s
  | some ch => settleChan n (drainQueue n ch.queue.length (syncChan n s))

/-- A picture is taken: into the sample in assembly, or behind those that wait for a slot (R325, R328, R330). -/
def takePicture (n : Nat) (t : Taken) (s : State) : State :=
  match chanGet s n with
  | none => s
  | some ch =>
    if !cropOk ch.prof t.pic then dropPicture n 6 t.codec t.index t.pts s
    else if ch.queue.isEmpty && slotFree s n ch then assemble n t s
    else chanMod n (fun ch => { ch with queue := ch.queue ++ [some t] }) s

/-! ### Decode engines (R316-R321) -/

/-- Data stand in the elementary stream before any break. -/
def hasData (ch : Channel) : Bool := (ch.es.takeWhile (fun r => !r.disc)).any (fun r => !r.data.isEmpty)

/-- A channel qualifies for its engine's next picture (R317): `whole` names the channels whose input buffer holds a whole
access unit, which the codec's syntax decides; after END, when nothing is left to demultiplex, any does. -/
def servable (s : State) (whole : List Nat) (e : Nat × Channel) : Bool :=
  !e.2.ended && ((whole.contains e.1 && hasData e.2) || (e.2.endFed && e.2.raw.all (fun r => r.2.isEmpty)))
    && slotFree s e.1 e.2 && fnActive s e.2.fn

/-- An engine's record. -/
def engineGet (s : State) (e : Nat) : Engine := tgetD s.engines e { last := 4095, busy := false, whole := false }

/-- DECODE_PICTURE: a free engine takes the next channel, in ascending number after the one it served last (R317). Before that the
breaks that its channels have reached take effect (R308). -/
def decodePicture (e : Nat) (whole : List Nat) (s : State) : State :=
  match logicalOf s e with
  | none => s
  | some l =>
    let g := engineGet s e
    if g.busy ∨ !healthy s ∨ !awake s then s
    else
      let s := (chansOn s l).foldl (fun s c => reachBreaks (whole.contains c.1) c.1 c.2.es.length s) s
      let cs := (chansOn s l).filter (servable s whole)
      match cs.find? (fun x => g.last < x.1), cs.head? with
      | none, none => s
      | some x, _ => start x s
      | none, some x => start x s
where
  /-- The engine begins on a channel. -/
  start (x : Nat × Channel) (s : State) : State :=
    let k := Reg.ENGINE_STATUS e
    let s := setF (setF (setB s k 30 true) k 23 12 x.1) k 11 9 x.2.codec
    chanMod x.1 (fun ch => { ch with begun := true })
      { s with engines := tput s.engines e { last := x.1, busy := true, whole := whole.contains x.1 && hasData x.2 } }

def execDecodePicture (e : EngineId) (whole : List Nat) (s : State) : Out := commit s (decodePicture e.val whole s)

/-- Bytes taken from an elementary stream: what is left, the bytes, whether any was damaged or scrambled, the PTS of the PES
packet of the first, and its codec. -/
structure TakenEs where
  rest : List EsRun
  data : Bytes
  damaged : Bool
  scrambled : Bool
  head : Option (Option Nat × Nat)

/-- Take `n` bytes from the front of an elementary stream, up to a break. -/
def takeEs : Nat → List EsRun → TakenEs
  | _, [] => { rest := [], data := [], damaged := false, scrambled := false, head := none }
  | n, r :: t =>
    let m := min n r.data.length
    let r' := { r with data := r.data.drop m }
    if r.disc ∨ (n = 0 ∧ !r.data.isEmpty) then { rest := r :: t, data := [], damaged := false, scrambled := false, head := none }
    else
      let x := if r'.data.isEmpty ∧ !r.openEnd then takeEs (n - m) t
        else { rest := r' :: t, data := [], damaged := false, scrambled := false, head := none }
      let some_ := m != 0
      { x with data := r.data.take m ++ x.data, damaged := (some_ && r.damaged) || x.damaged,
               scrambled := (some_ && r.scrambled) || x.scrambled, head := if some_ then some (r.pts, r.codec) else x.head }

/-! #### Whether a picture is decoded (R310-R314, R320, R321) -/

/-- A size field of an AV1 OBU (leb128): its value and its length. -/
def leb128 : Nat → Bytes → Nat × Nat
  | 0, _ => (0, 0)
  | _, [] => (0, 0)
  | k + 1, b :: t => if b.toNat < 128 then (b.toNat, 1) else
    let (v, n) := leb128 k t
    (b.toNat % 128 + 128 * v, n + 1)

/-- Every OBU of some bytes has obu_has_size_field 1 and lies within them (R312). -/
def obusOk : Nat → Bytes → Bool
  | 0, b => b.isEmpty
  | _, [] => true
  | k + 1, b :: t =>
    let t := if b.toNat.testBit 2 then t.drop 1 else t
    let (v, n) := leb128 8 t
    b.toNat.testBit 1 && n != 0 && n + v ≤ t.length && obusOk k (t.drop (n + v))

/-- An access unit of an elementary stream has the form of R312: start codes, or OBUs with their sizes. -/
def formOk12 (input : Nat) (b : Bytes) : Bool :=
  if input ≤ 1 then true
  else if input = 5 then obusOk b.length b
  else (b.dropWhile (· == 0#8)).head? == some 1#8 && 2 ≤ (b.takeWhile (· == 0#8)).length

/-- The codec of a profile, as R322 numbers it, and the highest level that R313 gives it. -/
def profileCodec : VideoProfile → Nat
  | .mpeg2Simple => 1
  | .mpeg2Main => 1
  | .mpeg2Y422 => 1
  | .h264Baseline => 2
  | .h264Main => 2
  | .h264High => 2
  | .h264High10 => 2
  | .h264Y422 => 2
  | .hevcMain => 3
  | .hevcMain10 => 3
  | .hevcY422 => 3
  | .hevcStill => 3
  | .av1Main => 4
  | .vvcMain10 => 5
  | .other => 0
def topLevel (codec : Nat) : Nat := nth [0, 4, 52, 62, 61, 51] codec

/-- A picture's profile, level, tier and tools are among those of R313 for its codec. -/
def profileFits (codec : Nat) (i : PicInfo) : Bool :=
  profileCodec i.profile == codec && i.profile != .other && i.level ≤ topLevel codec && !i.tool && !(codec == 5 && i.highTier)

/-- MaxDpbMbs of H.264's levels (Table A-1 of the standard that R314 names; log entry 62). -/
def maxDpbMbs (level : Nat) : Nat :=
  if level ≤ 10 then 396 else if level = 11 then 900 else if level ≤ 20 then 2376 else if level = 21 then 4752
  else if level ≤ 30 then 8100 else if level = 31 then 18000 else if level = 32 then 20480 else if level ≤ 41 then 32768
  else if level = 42 then 34816 else if level = 50 then 110400 else 184320

/-- The decoded picture buffer need (R314). -/
def bufferNeed (codec : Nat) (i : PicInfo) : Nat :=
  if codec = 1 then 2
  else if codec = 4 then 8
  else i.need.getD (min 16 (maxDpbMbs i.level / max 1 (ceilDiv i.width 16 * ceilDiv i.height 16)))

/-- A picture's sequence lies within the channel's limits (R314). -/
def limitsOk (a : MediaArgs) (codec : Nat) (i : PicInfo) : Bool :=
  i.width ≤ a.maxWidth && i.height ≤ a.maxHeight && i.chroma ≤ a.chroma + 1 && i.depth ≤ 10 && bufferNeed codec i + 1 ≤ a.dpb

/-- A reference is missing: it was dropped, precedes the start of decoding or a break, or was never had (R321). -/
def refMissing (ch : Channel) (r : Option Nat) : Bool :=
  match r with
  | some k => k < ch.floor || ch.decoded ≤ k || ch.lost.contains k
  | none => true

/-- The reason a picture is dropped for, the first that applies (R310, R321); none for one decoded exactly. A scrambled picture is
not parsed. `more` are the reasons that the engine itself met. -/
def dropReason (ch : Channel) (x : TakenEs) (codec : Nat) (whole : Bool) (i : PicInfo) (more : List Nat) : Option Nat :=
  let clear := !x.scrambled
  let l := (if clear && !(i.sound && formOk12 ch.a.input x.data) then [1] else [])
    ++ (if clear && i.refs.any (refMissing ch) then [2] else [])
    ++ (if x.damaged then [3] else []) ++ (if x.scrambled then [4] else [])
    ++ (if !(profileFits codec i && limitsOk ch.a codec i) then [5] else [])
    ++ (if !whole then [7] else []) ++ (if i.hashOk then [] else [8]) ++ more
  l.head?

/-! #### Output (R315, R319, R328) -/

/-- One field of an interlaced frame: every second row (R319). -/
def fieldOf (q : Picture) (bottom : Bool) : Picture :=
  let pick := fun (w : Nat) (l : List Nat) => (indexed l).filterMap (fun e =>
    if w != 0 && e.1 / w % 2 == b2n bottom then some e.2 else none)
  let cw := (q.width + hSub q - 1) / hSub q
  { q with height := q.height / 2, field := true, bottom := bottom, luma := pick q.width q.luma, cb := pick cw q.cb, cr := pick cw q.cr }

/-- The pictures that a decoded frame or field gives, in order (R319). -/
def picturesOf (f : PicForm) (q : Picture) : List Picture :=
  match f with
  | .frame => [{ q with field := false, bottom := false }]
  | .topFirst => [fieldOf q false, fieldOf q true]
  | .bottomFirst => [fieldOf q true, fieldOf q false]
  | .top => [{ q with field := true, bottom := false }]
  | .bottom => [{ q with field := true, bottom := true }]

/-- One picture is output: it takes its output index, a change of size or structure, or a break before it, ends the sample in
assembly, and every STEP-th is taken (R315, R328). -/
def outputPicture (n e : Nat) (h : HeldPic) (s : State) (q : Picture) : State :=
  match chanGet s n with
  | none => s
  | some ch =>
    let s := addR (addR s Reg.PICTURES_DECODED 1) (Reg.ENGINE_PICTURES e) 1
    let shape := some (q.width, q.height, q.field, h.epoch)
    let s := if ch.shape.isSome && ch.shape != shape then gapClip n s else s
    let s := chanMod n (fun ch => { ch with outIndex := ch.outIndex + 1, shape := shape }) s
    if ch.outIndex % ch.prof.step = 0 then takePicture n { index := h.index, pts := h.pts, codec := h.codec, pic := q } s else s

/-- The held picture that is next in output order. -/
def firstHeld (l : List HeldPic) : Option HeldPic :=
  l.foldl (fun m h => match m with
    | none => some h
    | some x => if h.order < x.order then some h else some x) none

/-- Pictures leave the decoder in output order, `k` of them; a dropped one keeps its places in the count, where it ends the sample in
assembly, and waits for no other (R315, R328). -/
def outputRun (n e : Nat) : Nat → Nat → State → State
  | 0, _, s => s
  | j + 1, k, s =>
    match chanGet s n with
    | none => s
    | some ch => match firstHeld ch.held with
      | none => s
      | some h =>
        let s' := chanMod n (fun ch => { ch with held := ch.held.erase h }) s
        if s.faultSeq.phase ≠ .none then s
        else if h.pics.isEmpty then
          outputRun n e j k (gapClip n (chanMod n (fun ch => { ch with outIndex := ch.outIndex + h.places }) s'))
        else if k = 0 then s
        else outputRun n e j (k - 1) (h.pics.foldl (outputPicture n e h) s')

/-- A picture's decode has a result: it is held for output, or dropped with its places kept. One that its standard does not output is
neither output nor reported, and what refers to it where it failed is dropped (R315, R320, R321). -/
def pictureResult (n len : Nat) (whole : Bool) (i : PicInfo) (q : Picture) (more : List Nat) (s : State) : State :=
  match chanGet s n with
  | none => s
  | some ch =>
    let x := takeEs len ch.es
    let (pts, codec) := x.head.getD (none, ch.codec)
    let why := dropReason ch x codec whole i more
    let s := chanMod n (fun ch => { ch with es := x.rest, decoded := ch.decoded + 1, codec := codec }) s
    let pics := picturesOf i.form q
    let hold := fun (ps : List Picture) (s : State) => chanMod n (fun c => { c with held := c.held ++ [{
      index := ch.decoded, pts := pts, codec := codec, order := i.order, epoch := c.epoch, pics := ps, places := pics.length }] }) s
    match why, i.shown with
    | none, true => hold pics (flushRun n s)
    | none, false => flushRun n s
    | some r, true => hold [] (dropPicture n r codec ch.decoded pts s)
    | some _, false => chanMod n (fun c => { c with lost := c.lost ++ [ch.decoded] }) s

/-- The engine has finished with its picture (R336). -/
def engineFree (e : Nat) (s : State) : State :=
  setB { s with engines := tput s.engines e { engineGet s e with busy := false } } (Reg.ENGINE_STATUS e) 30 false

/-- Hub-clock cycles of an AON cycle (R474): 64, or half as many while fast clocks are halved. -/
def hubRate (s : State) : Nat := if bitR s Reg.CLOCK_STATUS 15 then 32 else 64

/-- A cycle passes: the engines that decode count it in ENGINE_BUSY (R333). -/
def engineTime (s : State) : State :=
  s.engines.foldl (fun s e => if e.1 < 52 && e.2.busy && awake s then addR s (Reg.ENGINE_BUSY e.1) (hubRate s) else s) s

/-- The engine reads places of the work object, as unscheduled traffic of source group 5 (R169, R317): whether one failed. A failed
read is a chip fault for a channel bound to a context (R154, R321). -/
def engineReads (ch : Channel) (reads : List Nat) (s : State) : State × Bool :=
  match objGet s ch.fn ch.a.work with
  | none => (s, false)
  | some o => reads.foldl (fun (r : State × Bool) off =>
      let off := off % o.size
      let s := passing 5 (objSpans r.1 o 2 off 1) r.1
      let (s, b) := objRead (ch.a.ctx != 0xFF) o off 1 s
      (s, r.2 || b.isNone)) (s, false)

/-- Nothing that could complete or begin a picture is still to come from the input. -/
def inputOver (ch : Channel) : Bool := ch.endFed && ch.feeds.isEmpty && ch.raw.all (fun r => r.2.isEmpty)

/-- PICTURE_DECODED: a picture's decode ends, and the pictures that its standard outputs now leave the decoder, all that it holds
when END has been reached (R308, R315, R318-R328). -/
def pictureDecoded (e : Nat) (t : EngineTake) (r : PictureEnd) (outs : Nat) (s : State) : State :=
  let g := engineGet s e
  if !g.busy ∨ !awake s ∨ s.faultSeq.phase ≠ .none then s
  else
    let n := g.last
    match chanGet s n with
    | none => s
    | some ch =>
      let (s, bad) := frontErr (fun x => x == .engine e) (engineFree e s)
      let s := if bad && ch.a.ctx != 0xFF then chipFault 0x0F e s else s
      if s.faultSeq.phase ≠ .none then s
      else
        let (s, dead) := engineReads ch t.reads s
        if s.faultSeq.phase ≠ .none then s
        else
          let s := match r with
            | .picture i q => pictureResult n t.len g.whole i q ((if bad then [9] else []) ++ (if dead then [0x0B] else [])) s
            | .flush => chanMod n (fun ch => { ch with es := (takeEs t.len ch.es).rest }) s
          match chanGet s n with
          | none => s
          | some ch =>
            let all := inputOver ch && ch.es.all (fun r => r.data.isEmpty)
            let s := outputRun n e ch.held.length (if all then ch.held.length else outs) s
            settleChan n (setF s (Reg.ENGINE_STATUS e) 11 9 ch.codec)

def execPictureDecoded (e : EngineId) (t : EngineTake) (r : PictureEnd) (outs : Nat) (s : State) : Out :=
  commit s (pictureDecoded e.val t r outs s)

/-- SAMPLE_WRITTEN: the metadata record is written, so that every write of the sample has been performed; it is counted, and the token
is posted for each POST_EVERY samples (R329, R330). -/
def sampleWritten (n : Nat) (s : State) : State :=
  match chanGet s n with
  | none => s
  | some ch =>
    match ch.ready with
    | [] => s
    | b :: rest =>
      let k := getR s (Reg.SAMPLES n)
      if s.faultSeq.phase ≠ .none ∨ !awake s then s
      else
        let s := match slotPlace s n { ch with ready := [] } with
          | some (o, base) => slotWrite o base [(0, b)] s
          | none => s
        let s := addR (addR s (Reg.SAMPLES n) 1) Reg.SAMPLES_WRITTEN 1
        let s := syncDecks (chanMod n (fun ch => { ch with ready := rest }) s)
        let s := if ch.a.postEvery ≠ 0 ∧ (k + 1) % ch.a.postEvery = 0 then postTile ch.a.ctx ch.a.tile ch.a.token s else s
        settleChan n s

def execSampleWritten (n : ChanId) (s : State) : Out := commit s (sampleWritten n.val s)

/-- MEDIA_RELEASE (R309, R330). -/
def mediaRelease (h : CmdHdr) (n count : Nat) (s : State) : State :=
  match chanOf s h.fn.val n with
  | none => finish h 1 0 0 s
  | some _ =>
    if getR s (Reg.SAMPLES n) < getR s (Reg.RELEASED n) + count then finish h 5 0 0 s
    else finish h 0 0 0 (slotsFreed n (addR s (Reg.RELEASED n) count))

def execMediaRelease (h : CmdHdr) (chan count : Nat) (s : State) : Out :=
  commit s (hostCmd (.mediaRelease h chan count) h (.code 7) (mediaRelease h chan count) s)

end Sys2Proof.Machine
end

