-- ==== Sys2Proof/Machine/Clock.lean ====
section
/-! DEFINITION. The passing of time: one cycle of the always-on clock (R474), what the world around the part does in it (log
entry 89), and the sample of the coarsened registers (R432, R433). -/

namespace Sys2Proof.Machine

/-- The coarsened registers (R433). -/
def coarse (k : Nat) : Bool :=
  if 0x401000 ≤ k ∧ k < 0x402000 then [0x0C, 0x18, 0x20, 0x28, 0x2C].contains (k % 0x40)
  else if 0xC1000 ≤ k ∧ k < 0xC3000 then [0x18, 0x20, 0x30, 0x38, 0x3C, 0x40, 0x44].contains (k % 0x80)
  else 0x501000 ≤ k && k < 0x521000 && k % 0x20 == 0x0C

/-- At the end of a cycle whose time base is a multiple of 25,000, the coarsened registers are sampled (R432). -/
def takeSample (s : State) : State :=
  if s.timeBase % msAon = 0 then { s with sample := s.regs.filter (fun e => coarse e.1) } else s

/-- What happens around the part in a cycle: host software writes its own memory, some of which stops or begins to answer, and
soft errors arise in memories (log entry 89). -/
def world (s : State) : State :=
  let k := s.freeCtr
  { s with
    freeCtr := k + 1
    host := (Config.hostWrites k).foldl (fun m e => mput m e.1 e.2) s.host
    hostDead := Config.hostDead k
    errs := s.errs ++ (Config.softErrors k).filter (fun e => s.errs.all (fun x => x.1 != e.1)) }

/-- The FEC of the ports that are up corrects codewords, or fails to (R405, R408). -/
def fecTime (k : Nat) (s : State) : State :=
  (Config.fecErrors k).foldl (fun s e =>
    if portUp s e.1 then
      let s := satR (addR s (Reg.FEC_CORRECTED e.1) e.2.1) (Reg.FEC_UNCORR e.1) e.2.2
      if e.2.2 = 0 then s else orR s (Reg.PORT_CAUSE e.1) 0x20
    else s) s

/-- One AON cycle passes: time moves on, and the world around the part with it. With the always-on supply absent, time stands
(R474). -/
def aonCycle (s : State) : State :=
  if s.pins.aon then
    let s := engineTime (assignFar (fecTime s.freeCtr (world (takeSample s))))
    dozeTimer { s with timeBase := s.timeBase + 1, cycle := s.cycle + tileRate s }
  else s

end Sys2Proof.Machine
end

