-- ==== Sys2Proof/Machine/Deck.lean ====
section
/-! DEFINITION. The shuffle engine (R345-R352), RANDOM_GET (R355). -/

namespace Sys2Proof.Machine

/-- The deck of a context. -/
def deckGet (s : State) (c : Nat) : Option Deck := tget s.decks c

/-- Change a deck. -/
def deckMod (c : Nat) (g : Deck → Deck) (s : State) : State :=
  match deckGet s c with
  | some d => syncDeck c { s with decks := tput s.decks c (g d) }
  | none => s

/-- M: samples of a window (R347). -/
def Deck.size (d : Deck) : Nat := d.chans.length * d.a.depth

/-! ### SHUFFLE_OPEN and SHUFFLE_CLOSE -/

/-- A listed channel is fit for a deck (R346). -/
def listedOk (s : State) (f : Nat) (a : ShuffleArgs) (l : List Nat) (n : Nat) : Bool :=
  match chanOf s f n with
  | some ch => l.count n == 1 && 2 * a.depth ≤ ch.a.slotCount
      && s.decks.all (fun e => e.2.chans.all (fun j => j.num != n || j.closed.isSome))
  | none => false

/-- The checks of R346 in the order of its codes, once the list is read: 0 is OPENED. -/
def shuffleCheck (f : Nat) (x : Ctx) (a : ShuffleArgs) (l : List Nat) (s : State) : Nat :=
  let sizes := l.filterMap (fun n => (chanGet s n).map (fun ch => slotBytes ch.prof))
  let sb := sizes.headD 0
  let m := l.length * a.depth
  let feedOk : Bool := match plainObj s f a.feed with
    | some o => o.format == 8 && a.feedSlots * sb ≤ o.size
    | none => false
  if !l.all (listedOk s f a l) then 4
  else if !sizes.all (· == sb) then 5
  else if m < 2 ∨ 16777216 < m ∨ 2 ^ 36 < m * sb ∨ a.firstWindow ≠ a.startStep * a.batch / m then 6
  else if a.feedSlots = 0 ∨ a.feedSlots % a.batch ≠ 0 ∨ !feedOk then 7
  else if 30 ≤ a.token ∨ !tileUsed x.pitch.tileMap a.tile then 8
  else 0

/-- A deck as it opens: delivery begins at q0 (R347). -/
def Deck.fresh (f : Nat) (a : ShuffleArgs) (l : List (Nat × Channel)) : Deck :=
  { fn := f, a := a, slotBytes := (l.map (fun (e : Nat × Channel) => Sys2Proof.Machine.slotBytes (Channel.prof e.2))).headD 0, pos := a.startStep * a.batch,
    window := a.firstWindow, begun := false, started := none, halted := false, starved := false,
    chans := l.map (fun (e : Nat × Channel) => { num := e.1, pool := e.2.a.pool, first := e.2.a.firstSlot, count := e.2.a.slotCount, closed := none }) }

/-- SHUFFLE_OPEN (R345, R346, R362). -/
def shuffleOpen (h : CmdHdr) (a : ShuffleArgs) (s : State) : State :=
  let f := h.fn.val
  match ctxOf s f a.ctx with
  | none => finish h 1 0 0 s
  | some x =>
    if x.started then finish h 2 0 0 s
    else if (deckGet s a.ctx).isSome then finish h 3 0 0 s
    else if a.channels = 0 ∨ 4096 < a.channels ∨ a.depth = 0 ∨ a.epochWindows = 0 ∨ a.batch = 0 ∨ 65536 < a.batch then finish h 9 0 0 s
    else
      let (s, st, b) := devRead f a.listAddr (2 * a.channels) s
      if st ≠ 0 then reject h st s
      else
        let l := (List.range a.channels).map (fun i => fieldAt b (2 * i) 2)
        let code := shuffleCheck f x a l s
        if code ≠ 0 then finish h code 0 0 s
        else
          let d := Deck.fresh f a (l.filterMap (fun n => (chanGet s n).map (fun ch => (n, ch))))
          let s := resetRange s (Reg.DECK_STATE a.ctx) (Reg.DECK_STATE a.ctx + 0x40)
          let s := starveDecks { s with decks := tput s.decks a.ctx d }
          finish h 0 0 0 (syncDeck a.ctx s)

def execShuffleOpen (h : CmdHdr) (a : ShuffleArgs) (s : State) : Out :=
  commit s (hostCmd (.shuffleOpen h a) h .refused (shuffleOpen h a) s)

/-- A deck closes; it releases nothing beyond completed windows (R351). -/
def closeDeck (c : Nat) (s : State) : State :=
  match deckGet s c with
  | some _ => setF { s with decks := tdel s.decks c } (Reg.DECK_STATE c) 31 28 0
  | none => s

/-- SHUFFLE_CLOSE (R351, R381). -/
def shuffleClose (h : CmdHdr) (c : Nat) (s : State) : State :=
  if (ctxOf s h.fn.val c).isNone ∨ (deckGet s c).isNone then finish h 1 0 0 s else finish h 0 0 0 (closeDeck c s)

def execShuffleClose (h : CmdHdr) (ctx : Nat) (s : State) : Out :=
  commit s (hostCmd (.shuffleClose h ctx) h .refused (shuffleClose h ctx) s)

/-- START of the deck's context: at another step than START_STEP the deck halts before copying (R358). -/
def deckStart (c step : Nat) (s : State) : State :=
  match deckGet s c with
  | none => s
  | some d =>
    let s := if step = d.a.startStep then s else orR s (Reg.DECK_CAUSE c) 2
    deckMod c (fun d => { d with started := some step, halted := d.halted || step != d.a.startStep }) s

/-! ### The permutation (R348) -/

/-- The epoch key K_e. -/
def epochKey (seed device e : Nat) : Nat :=
  let y := philox seed (e % 2 ^ 32) (e / 2 ^ 32) device 0x20000000
  nth y 0 + nth y 1 * 2 ^ 32

/-- The half width b of the Feistel network for m samples. -/
def feistelBits (m : Nat) : Nat := max 1 (ceilDiv (Nat.log2 (2 * m - 1)) 2)

/-- Six rounds on a value of 2b bits. -/
def feistel (key w b v : Nat) : Nat :=
  let m := 2 ^ b
  let (l, r) := (List.range 6).foldl (fun (x : Nat × Nat) i =>
    (x.2, x.1 ^^^ (nth (philox key x.2 w i 0x30000000) 0 % m))) (v / m, v % m)
  l * m + r

/-- The cycle walk, at most 2^(2b) evaluations. -/
def walk (key w b m : Nat) : Nat → Nat → Nat
  | 0, v => v
  | k + 1, v => let u := feistel key w b v; if u < m then u else walk key w b m k u

/-- π_w(t). -/
def permute (seed device epoch w m t : Nat) : Nat :=
  let b := feistelBits m
  walk (epochKey seed device epoch) (w % 2 ^ 32) b m (2 ^ (2 * b)) t

/-! ### Windows and copies (R347, R349) -/

/-- A deck works: no chip fault, its context's instance may begin work, neither halted nor starved, and the context has
started. -/
def deckRuns (s : State) (d : Deck) : Bool :=
  healthy s && awake s && fnActive s d.fn && !d.halted && !d.starved && d.started.isSome

/-- WINDOW_BEGIN: every sample of the window has been written (R349). -/
def windowBegin (c : Nat) (s : State) : State :=
  match deckGet s c with
  | none => s
  | some d =>
    if deckRuns s d && !d.begun && deckPhase s c d == 2 then
      let s := if d.window % d.a.epochWindows = 0 then orR s (Reg.DECK_CAUSE c) 4 else s
      deckMod c (fun d => { d with begun := true }) s
    else s

def execWindowBegin (c : CtxId) (s : State) : Out := commit s (windowBegin c.val s)

/-- The channel and SAMPLE number that the deck delivers at its next position (R347). -/
def deckTarget (x : Ctx) (d : Deck) : Option (DeckChan × Nat) :=
  let m := d.size
  let t := d.pos - d.window * m
  let q := permute x.pitch.seed (deviceOf x.pitch) (d.window / d.a.epochWindows) d.window m t
  (d.chans[q / d.a.depth]?).map (fun j => (j, (d.window - d.a.firstWindow) * d.a.depth + q % d.a.depth))

/-- The last position of a window has been copied: d samples of every listed channel are released (R349). -/
def endWindow (c : Nat) (d : Deck) (s : State) : State :=
  let s := d.chans.foldl (fun s j => if j.closed.isNone then slotsFreed j.num (addR s (Reg.RELEASED j.num) d.a.depth) else s) s
  starveDecks (deckMod c (fun d => { d with window := d.window + 1, begun := false }) s)

/-- DECK_COPY: the sample of the next position is checked and copied into its feed slot; the step's token is posted with its last
position, and the window ends with its last (R349, R350). -/
def deckCopy (c : Nat) (s : State) : State :=
  match deckGet s c, ctxGet s c with
  | some d, some x =>
    if deckRuns s d && d.begun && deckPhase s c d == 2 then
      match deckTarget x d with
      | none => s
      | some (j, k) =>
        match objGet s d.fn j.pool, objGet s d.fn d.a.feed with
        | some pool, some feed =>
          let from_ := (j.first + k % j.count) * d.slotBytes
          let (s, r) := objRead true pool from_ d.slotBytes (passing 5 (objSpans s pool (d.slotBytes / pageSize + 2) from_ d.slotBytes) s)
          match r with
          | none => s
          | some b =>
            if slice b 0 4 == [0x4A#8, 0x58#8, 0x4D#8, 0x53#8] && fieldAt b 4 2 == j.num && fieldAt b 8 8 == k then
              let to_ := (d.pos - d.a.startStep * d.a.batch) % d.a.feedSlots * d.slotBytes
              let s := objWrite feed to_ b (passing 5 (objSpans s feed (d.slotBytes / pageSize + 2) to_ d.slotBytes) s)
              let s := deckMod c (fun d => { d with pos := d.pos + 1 }) (addR s Reg.SHUFFLE_BYTES d.slotBytes)
              let s := if (d.pos + 1) % d.a.batch = 0 then postTile c d.a.tile d.a.token s else s
              if d.pos + 1 = (d.window + 1) * d.size then endWindow c d s else s
            else deckMod c (fun d => { d with halted := true }) (orR s (Reg.DECK_CAUSE c) 2)
        | _, _ => deckMod c (fun d => { d with halted := true }) (orR s (Reg.DECK_CAUSE c) 2)
    else s
  | _, _ => s

def execDeckCopy (c : CtxId) (s : State) : Out := commit s (deckCopy c.val s)

/-! ### RANDOM_GET -/

/-- RANDOM_GET (R355). -/
def randomGet (h : CmdHdr) (fresh len addr : Nat) (s : State) : State :=
  let f := h.fn.val
  if 1 < fresh then reject h 2 s
  else if len % 16 ≠ 0 ∨ len < 16 ∨ 4096 < len then finish h 1 0 0 s
  else if !mapped s f addr len then finish h 2 0 0 (orR s Reg.MEM_CAUSE 0x40)
  else match draw (fresh == 1) len s with
    | (s, none) => finish h 3 0 0 s
    | (s, some b) =>
      let (s, st) := devWrite f addr b s
      if st = 0 then finish h 0 0 0 s else reject h st s

def execRandomGet (h : CmdHdr) (fresh len addr : Nat) (s : State) : Out :=
  commit s (hostCmd (.randomGet h fresh len addr) h .refused (randomGet h fresh len addr) s)

end Sys2Proof.Machine
end

