-- ==== Sys2Proof/Machine/Routes.lean ====
section
/-! DEFINITION. Routes on the mesh: the physical path that the loader derives (R97), the slots that a route owns (R98) and
its bound (R99). -/

namespace Sys2Proof.Machine

/-- A place on a path: die, row, column. -/
structure At where
  d : Nat
  y : Nat
  x : Nat
  deriving DecidableEq, Repr

/-- The site of a place. -/
def At.site (a : At) : Nat := a.d * 144 + a.y * 12 + a.x

/-- The place of a site. -/
def atSite (k : Nat) : At := { d := k / 144, y := k % 144 / 12, x := k % 12 }

/-- A derived path: its output ports, each with the cycles from the first port (R98); hops within dies and across
boundaries; and the sites where it turns. -/
structure Path where
  ports : List (Nat × Nat)
  h : Nat
  b : Nat
  turns : List Nat
  deriving DecidableEq, Repr

/-- The key of an output port of a site. -/
def portKey (site port : Nat) : Nat := site * 8 + port

/-- The key of the hub's link into a column. -/
def hubKey (d col : Nat) : Nat := (1024 + d * 16 + col) * 8

/-- One hop is added to a path: 6 cycles within a die, 10 across a boundary (R9, R11). -/
def Path.hop (p : Path) (port : Nat) (cross : Bool) : Path :=
  { p with ports := p.ports ++ [(port, 6 * p.h + 10 * p.b)], h := if cross then p.h else p.h + 1, b := if cross then p.b + 1 else p.b }

/-- The run along a row to a die and column: straight on the same die, else in the ring direction (R97). -/
def rowRun : Nat → Bool → At → Nat → Nat → Path → At × Path
  | 0, _, a, _, _, p => (a, p)
  | k + 1, west, a, d', x', p =>
    if a.d = d' ∧ a.x = x' then (a, p)
    else
      let w := if a.d = d' then decide (x' < a.x) else west
      if w then
        if a.x = 0 then rowRun k west { a with d := (a.d + 3) % 4, x := 11 } d' x' (p.hop (portKey a.site 3) true)
        else rowRun k west { a with x := a.x - 1 } d' x' (p.hop (portKey a.site 3) false)
      else
        if a.x = 11 then rowRun k west { a with d := (a.d + 1) % 4, x := 0 } d' x' (p.hop (portKey a.site 1) true)
        else rowRun k west { a with x := a.x + 1 } d' x' (p.hop (portKey a.site 1) false)

/-- The run along a column to a row. -/
def colRun : Nat → At → Nat → Path → At × Path
  | 0, a, _, p => (a, p)
  | k + 1, a, y', p =>
    if a.y = y' then (a, p)
    else if y' < a.y then colRun k { a with y := a.y - 1 } y' (p.hop (portKey a.site 0) false)
    else colRun k { a with y := a.y + 1 } y' (p.hop (portKey a.site 2) false)

/-- The derived path of a route; none when an endpoint tile has no site (R97). -/
def routePath (s : State) (r : Route) : Option Path := do
  let hubS := r.src.testBit 15
  let hubD := r.dst.testBit 15
  let start ← if hubS then some { d := bitsOf r.src 10 9, y := 11, x := r.src % 16 } else (siteOfTile s (r.src % 512)).map atSite
  let stop ← if hubD then some { d := bitsOf r.dst 10 9, y := 11, x := r.dst % 16 } else (siteOfTile s (r.dst % 512)).map atSite
  let p0 : Path := { ports := [], h := 0, b := 0, turns := [] }
  let p0 := if hubS then p0.hop (hubKey start.d start.x) true else p0
  let (a, p1) := rowRun 64 (r.path.testBit 0) start stop.d stop.x p0
  let (a, p2) := colRun 16 a stop.y p1
  let rowed := p1.ports.length != p0.ports.length
  let coled := p2.ports.length != p1.ports.length || hubD
  let turn := At.site { d := stop.d, y := start.y, x := stop.x }
  let p3 := { p2 with turns := (if rowed && coled then [turn] else []) ++ (if hubS && rowed then [start.site] else []) }
  if hubD then some (p3.hop (portKey a.site 2) true)
  else some { p3 with ports := p3.ports ++ [(portKey a.site 4, 6 * p3.h + 10 * p3.b)] }

/-- The slots that a route owns: port and slot (R98). -/
def ownedSlots (r : Route) (p : Path) : List (Nat × Nat) :=
  p.ports.flatMap (fun e => (bitPositions 16 r.slotMask).map (fun k => (e.1, (k + e.2) % 16)))

/-- A port whose slot 15 is the part's: an N or S port, or a hub link (R170). -/
def verticalPort (k : Nat) : Bool := k % 8 == 0 || k % 8 == 2

/-- The bound of R99, in cycles. -/
def routeBound (r : Route) (p : Path) : Nat := 6 * p.h + 10 * p.b + 16 * ceilDiv r.flits (popcount r.slotMask) + 15

/-- The slots of every resident context's routes. -/
def residentSlots (s : State) : List (Nat × Nat) :=
  s.ctxs.flatMap (fun e => e.2.pitch.routes.flatMap (fun r => match routePath s r with
    | some p => ownedSlots r p
    | none => []))

/-- A route is refused as its path is derived: ROUTE_EDGE or ROUTE_BYPASS (R97). -/
def checkPath (s : State) (m : Bytes) (r : Route) : Chk Unit := do
  let tiles := (if r.src.testBit 15 then [] else [r.src % 512]) ++ (if r.dst.testBit 15 then [] else [r.dst % 512])
  let hub := r.src.testBit 15 || r.dst.testBit 15
  must (bitsOf r.path 2 1 != 2 && !(hub && tiles.any (fun l => !tileHub m l))) 0x0B 0x11 r.id
  match routePath s r with
  | none => .error ⟨0x18, 0x11, r.id⟩
  | some p => must (p.turns.all (fun t => !inBypass s t)) 0x19 0x11 r.id

/-- SLOT_CONFLICT (R99, R170): against the slots already taken, route by route. -/
def checkSlots (s : State) : List (Nat × Nat) → List Route → Chk Unit
  | _, [] => .ok ()
  | taken, r :: rs =>
    match routePath s r with
    | none => checkSlots s taken rs
    | some p =>
      let own := ownedSlots r p
      if own.any (fun e => taken.contains e || (e.2 == 15 && verticalPort e.1)) then .error ⟨0x0C, 0x11, r.id⟩
      else checkSlots s (own ++ taken) rs

/-- SLACK (R99). -/
def checkSlack (s : State) (r : Route) : Chk Unit :=
  match routePath s r with
  | none => .ok ()
  | some p => must (routeBound r p ≤ r.deadline) 0x0D 0x11 r.id

end Sys2Proof.Machine
end

