-- ==== Sys2Proof/Machine/Loader.lean ====
section
/-! DEFINITION. The pitch loader (R107-R113): the queue of loads, the checks against the part, and residency. -/

namespace Sys2Proof.Machine

/-! ### Step 5: service and ownership -/

/-- Every used tile is in service and in the function's tile groups, and every named engine in its shape (R107). -/
def checkOwner (s : State) (f : Nat) (p : Pitch) : Chk Unit := do
  let used := usedTiles p.tileMap
  each (fun l => must (siteOfTile s l).isSome 0x18 0x10 l) used
  each (fun l => must ((shapeTiles s f).testBit (l / 16)) 0x08 0x10 l) used
  must ((bitPositions 48 p.engines).all (fun e => (shapeDecode s f).testBit e)) 0x14 0x18 0

/-! ### Step 6: limits, resources and ranges -/

/-- The lowest free context number (R110). -/
def freeCtx (s : State) : Option Nat := (List.range 64).find? (fun c => (ctxGet s c).isNone)

/-- The resident contexts that use a logical tile. -/
def usersOfTile (s : State) (l : Nat) : List (Nat × Ctx) := s.ctxs.filter (fun e => tileUsed e.2.pitch.tileMap l)

/-- At most 64 contexts on the part and 4 on a tile (R110). -/
def checkLimits (s : State) (p : Pitch) : Chk Unit := do
  must (freeCtx s).isSome 0x15 0 0
  each (fun l => must ((usersOfTile s l).length < 4) 0x09 0x10 l) (usedTiles p.tileMap)

/-- Two ranges share a number. -/
def rangesMeet (a n b m : Nat) : Bool := a < b + m && b < a + n && n != 0 && m != 0

/-- An array record's ranges lie in the array and meet no resident context's (R60, R100). -/
def arrayFree (s : State) (r : ArrRec) : Bool :=
  r.modes < 64 && r.accBase + r.accCount ≤ 512 && r.chBase + r.chCount ≤ 4096
    && s.ctxs.all (fun e => match arrRec e.2.pitch r.tile r.arr with
      | some q => !rangesMeet r.accBase r.accCount q.accBase q.accCount && !rangesMeet r.chBase r.chCount q.chBase q.chCount
      | none => true)

/-- ARRAY_RANGE (R100). -/
def checkArrayRanges (s : State) (p : Pitch) : Chk Unit :=
  each (fun e => must (arrayFree s e.2) 0x0E 0x12 e.1) (indexed p.arrays)

/-- A tile-store region lies in its banks and meets no resident context's region (R102, R150). -/
def regionFree (s : State) (r : ObjRec) : Bool :=
  let n := r.size / popcount r.banks
  r.offset + n ≤ 0x40000 && (usersOfTile s r.tile).all (fun e => (regionsOf e.2.pitch r.tile).all (fun q =>
    q.banks &&& r.banks == 0 || !rangesMeet r.offset n q.offset (q.size / popcount q.banks)))

/-- The shareable object that an import names: in use by another resident context of the function (R102). -/
def importable (s : State) (f c id : Nat) : Option Obj :=
  (objsOf s f).find? (fun o => o.id == id && o.oflags.testBit 1 && !o.freed && o.users.any (· != c))

/-- Place the objects of a pitch, record by record, for context `c` of function `f` (R102): the state with them and their
handles, or the refusal. A full placement table is refused as MEMORY. -/
def placeObjs (f c : Nat) : List (Nat × ObjRec) → State → Except LoadErr (State × List Nat)
  | [], s => .ok (s, [])
  | (i, r) :: t, s =>
    let put : Except LoadErr (State × Nat) :=
      if r.kind = 0 then
        if regionFree s r then .ok (s, 0) else .error ⟨0x0F, 0x14, i⟩
      else if r.oflags.testBit 0 then
        match importable s f c r.id with
        | some o => .ok (objPut s { o with users := o.users ++ [c] }, o.handle)
        | none => .error ⟨0x10, 0x14, i⟩
      else if r.tier = 0 ∧ (bitPositions 8 r.stackMask).any (fun st => (fnGranules s f st).isEmpty) then .error ⟨0x0F, 0x14, i⟩
      else match freeHandle s f with
        | none => .error ⟨0x0F, 0x14, i⟩
        | some hd =>
          match createObj s { fn := f, handle := hd, id := r.id, owner := c, oflags := r.oflags, keySlot := r.keySlot,
                              format := r.format, size := r.size, first := 0, pages := [], state := 1, doneSeq := 0,
                              result := 0, users := [c], freed := false, record := none } r.tier r.stackMask with
          | some u => .ok (u, hd)
          | none => .error ⟨0x0F, 0x14, i⟩
    match put with
    | .error e => .error e
    | .ok (u, h) => match placeObjs f c t u with
      | .error e => .error e
      | .ok (v, hs) => .ok (v, h :: hs)

/-- A STORE figure names an imported object (R275). -/
def checkStores (p : Pitch) : Chk Unit :=
  each (fun l => must ((namedObjs false (figsOf p l)).all (fun k => match p.objs[k]? with
    | some o => !(o.kind == 1 && o.oflags.testBit 0)
    | none => true)) 0x0F 0x13 l) (usedTiles p.tileMap)

/-- CODEC_BUDGET (R103): only an import can hold a MEAN_INPUT when its pitch is loaded. -/
def checkBudgetMeans (s : State) (f c : Nat) (p : Pitch) : Chk Unit :=
  each (fun e => must (e.2.mode == 0 || (match objById p e.2.id with
    | some r => r.oflags.testBit 0 && (match (importable s f c r.id).bind (·.record) with
      | some k => k.mean != 0 && k.mean ≤ e.2.budget
      | none => false)
    | none => false)) 0x11 0x15 e.1) (indexed p.budgets)

/-- The engines of a resident reserved set. -/
def reservedEngines (x : Ctx) : Nat := if x.pitch.flags.testBit 2 then x.pitch.engines else 0

/-- RESERVED_CONFLICT (R106): a reserved tile or engine in use elsewhere, or one of a resident reserved set. -/
def checkReservedSets (s : State) (p : Pitch) : Chk Unit := do
  let resv := fun (q : Pitch) (l : Nat) => (q.tileMap.getD l 0#8).toNat.testBit 2
  each (fun l => must ((usersOfTile s l).all (fun e => !resv p l && !resv e.2.pitch l)) 0x0A 0x10 l) (usedTiles p.tileMap)
  must ((bitPositions 48 p.engines).all (fun g => s.ctxs.all (fun e => !(reservedEngines e.2).testBit g)
    && s.chans.all (fun e => !(e.2.a.engine == g && (ctxGet s e.2.a.ctx).isSome)))) 0x0A 0x18 0

/-! ### Step 7: relocation -/

/-- The figures of all contexts on one site fit its figure store (R107). -/
def checkFigureStore (s : State) (p : Pitch) : Chk Unit :=
  let count := fun (q : Pitch) (l : Nat) => ((tget q.figures l).getD []).length
  each (fun l => must (count p l + ((usersOfTile s l).map (fun e => count e.2.pitch l)).foldl (· + ·) 0 ≤ 16384) 0x09 0x13 l)
    (usedTiles p.tileMap)

/-- Steps 5-7 of R107 for context number `c` of function `f`: the state with the pitch's objects placed, and their
handles. -/
def checkPlace (s : State) (f c : Nat) (p : Pitch) : Except LoadErr (State × List Nat) := do
  checkOwner s f p
  checkLimits s p
  checkArrayRanges s p
  let r ← placeObjs f c (indexed p.objs) s
  checkStores p
  checkBudgetMeans s f c p
  checkSweep p
  checkVotes p
  checkReservedSets s p
  each (checkPath s p.tileMap) p.routes
  checkSlots s (residentSlots s) p.routes
  each (checkSlack s) p.routes
  checkFigureStore s p
  .ok r

/-! ### Residency -/

/-- The lowest free slot of a site (R144). -/
def freeSlotOn (s : State) (site : Nat) : Nat :=
  ((List.range 4).find? (fun k => !bitR s (Reg.CTX_ID site k) 31)).getD 0

/-- What a context holds on a tile before it starts. -/
def TileCtx.fresh (slot : Nat) : TileCtx where
  slot := slot
  g := []
  t := []
  loops := []
  stepStart := 0
  opIndex := 0
  park := none
  vote := none
  sleep := none
  loads := []
  votesDone := 0
  steps := 0
  bodyAt := 0
  atEnd := true

/-- A context takes its place on one tile: the slot's registers, its rows empty, and the tile leaves GATED (R26, R53,
R144). A row that is tagged empty keeps no lane of what stood in it (log entry 92). -/
def enterTile (c l site : Nat) (p : Pitch) (s : State) : State :=
  let k := freeSlotOn s site
  let s := ctxMod c (fun x => { x with tiles := tput x.tiles site (TileCtx.fresh k) }) s
  let s := setR s (Reg.CTX_ID site k) (2 ^ 31 + c * 2 ^ 16)
  let s := [Reg.CTX_STATE site k, Reg.CTX_STEPS site k, Reg.CTX_FLAGS site k].foldl resetR s
  let s := (List.range 4).foldl (fun s a => match arrRec p l a with
    | some r => arrMod site a (fun x => { x with
        rows := x.rows.filter (fun e => e.1 < r.accBase || r.accBase + r.accCount ≤ e.1) }) s
    | none => s) s
  let s := match tget s.ports site with
    | some p => if p.openNow then { s with ports := tdel s.ports site } else s
    | none => s
  syncSite site (if tileState s site = 2 then setTileState s site 0 else s)

/-- A pitch becomes resident as context `c`: its objects are placed, its tiles entered, its sweep block takes its Reset
values (R6, R110, R269). The loader's writes of figures, ranges and tables are unscheduled traffic of group 6 (R110, R169). -/
def reside (c : Nat) (req : LoadReq) (p : Pitch) (digest : Bytes) (handles : List Nat) (s : State) : State :=
  let f := req.hdr.fn.val
  let x : Ctx := { fn := f, hdr := req.hdr, addr := req.addr, len := req.len, digest := digest, pitch := p, started := false,
                   ended := false, unload := none, replacedBy := [], replaces := none, handles := handles,
                   freezing := f != 0 && fld s (Reg.INST_STATE f) 2 0 == 3, tiles := [] }
  let s := { s with ctxs := tput s.ctxs c x, ctxFn := tput s.ctxFn c f, train := tdel s.train c }
  let s := resetRange s (Reg.STEP_STATE c) (Reg.STEP_STATE c + 0x40)
  let s := if p.flags.testBit 0 then setB s (Reg.STEP_STATE c) 31 true else s
  let s := (usedTiles p.tileMap).foldl (fun s l => match siteOfTile s l with
    | some site => enterTile c l site p s
    | none => s) s
  waited 6 16383 .tile (wakeVotePorts (syncMedia (syncRecords s)))

/-! ### The commands -/

/-- The place of a command among those that owe completions: the order in which the part took them. -/
def takenAt (s : State) (h : CmdHdr) : Nat := s.owed.findIdx (fun o => sameCmd o.hdr h)

/-- A load joins the loader's queue, in the order in which the part took the commands (R111). -/
def queueLoad (r : LoadReq) (s : State) : State :=
  let before := fun (q : LoadReq) => takenAt s q.hdr ≤ takenAt s r.hdr
  { s with loads := s.loads.filter before ++ [r] ++ s.loads.filter (fun q => !before q) }

/-- A load command that the part took before this one has not run yet. -/
def loadBefore (s : State) (h : CmdHdr) : Bool :=
  s.taken.any (fun i => match i with
    | .loadPitch g _ _ => takenAt s g < takenAt s h
    | .replace g _ _ _ => takenAt s g < takenAt s h
    | _ => false)

/-- LOAD_PITCH: the image is queued for the loader (R107, R111). A LENGTH of 0 is FIELD (R379). -/
def loadPitch (h : CmdHdr) (len addr : Nat) (s : State) : State :=
  if len = 0 then reject h 2 s
  else queueLoad { hdr := h, at_ := s.timeBase, addr := addr, len := len, replaces := none, takesOver := false } s

def execLoadPitch (h : CmdHdr) (len addr : Nat) (s : State) : Out :=
  commit s (hostCmd (.loadPitch h len addr) h (.code 0x17) (loadPitch h len addr) s)

/-- REPLACE: a load that names a resident context of the function (R113). One that names none is refused with FORMAT. -/
def replaceCmd (h : CmdHdr) (c len addr : Nat) (s : State) : State :=
  if len = 0 then reject h 2 s
  else if (ctxOf s h.fn.val c).isNone then finish h 1 0 0 s
  else queueLoad { hdr := h, at_ := s.timeBase, addr := addr, len := len, replaces := some c, takesOver := true } s

def execReplace (h : CmdHdr) (ctx len addr : Nat) (s : State) : Out :=
  commit s (hostCmd (.replace h ctx len addr) h (.code 0x17) (replaceCmd h ctx len addr) s)

/-- Read an image: the header, then the bytes that TOTAL_LEN names (R91). The envelope status, and the bytes. -/
def readPitch (f a len : Nat) (s : State) : State × Nat × Bytes :=
  if len < 64 then (s, 0, [])
  else
    let (s, st, hd) := devRead f a 64 s
    let total := fieldAt hd 0x0C 4
    if st ≠ 0 ∨ total < 64 ∨ len < total ∨ 0x4000000 < total then (s, st, hd)
    else devRead f a total s

/-- LOAD_BEGIN: the loader takes the next load once the one before it has ended; the image is read and checked as far as
it alone decides (R107, R111). During a tile retest the load is refused with MAINTENANCE (R434). -/
def loadBegin (s : State) : State :=
  match s.loads, s.loading with
  | r :: rest, none =>
    if healthy s && awake s && !loadBefore s r.hdr then
      let s := { s with loads := rest }
      if bitR s Reg.MAINT_HOLDERS 1 then complete 0 0 0x16000000 0 r.hdr s
      else
        let (s, st, img) := readPitch r.hdr.fn.val r.addr r.len s
        if st ≠ 0 then reject r.hdr st s
        else match parsePitch s.pitchKeys img r.len with
          | .ok p => { s with loading := some { req := r, code := 0, sect := 0, detail := 0, pitch := some p,
                                                digest := sha384 (img.take (fieldAt img 0x0C 4)), began := s.timeBase } }
          | .error e => { s with loading := some { req := r, code := e.code, sect := e.sect, detail := e.detail, pitch := none,
                                                   digest := [], began := s.timeBase } }
    else s
  | _, _ => s

def execLoadBegin (s : State) : Out := commit s (loadBegin s)

/-- The old context of an accepted REPLACE begins to drain towards its successor; one that went while the load waited leaves it
to start at once (R113). -/
def succeed (c : Nat) (r : LoadReq) (s : State) : State :=
  match r.replaces with
  | none => if r.takesOver then startAll c (plainStart c) s else s
  | some o =>
    let s := ctxMod c (fun x => { x with replaces := some o }) s
    serveDrain o (ctxMod o (fun x => { x with replacedBy := x.replacedBy ++ [c], unload := some (x.unload.getD (0, [])) }) s)

/-- The result of a refused load (R108). -/
def loadResult (e : LoadErr) : Nat := e.code * 0x1000000 + e.sect % 256 * 0x10000 + e.detail % 0x10000

/-- PITCH_LOAD_COMPLETE: a load that lost the last context number to one of the same AON cycle ends with RETRY (R383). The remaining checks and the write pass end, and the result is posted (R108, R110); during a tile retest the load
is refused with MAINTENANCE (R111). A pitch with FLAGS[3] starts its context, unless it waits for the context that it replaces. -/
def pitchLoadComplete (s : State) : State :=
  match s.loading with
  | none => s
  | some g =>
    if healthy s && s.power.rest == .awake then
      let s := { s with loading := none }
      let h := g.req.hdr
      match g.pitch with
      | none => complete 0 0 (loadResult ⟨g.code, g.sect, g.detail⟩) 0 h s
      | some p =>
        if bitR s Reg.MAINT_HOLDERS 1 then complete 0 0 0x16000000 0 h s
        else
        let c := (freeCtx s).getD 0
        match checkPlace s h.fn.val c p with
        | .error e =>
          if e.code = 0x15 ∧ lostTie s .contexts g.req.at_ h then reject h 7 s else complete 0 0 (loadResult e) 0 h s
        | .ok (t, hs) =>
          let t := succeed c g.req (reside c g.req p g.digest hs (tookUnit .contexts g.req.at_ h t))
          let t := if p.flags.testBit 3 && !g.req.takesOver then startAll c (plainStart c) t else t
          complete 1 0 c 0 h t
    else s

def execPitchLoadComplete (s : State) : Out := commit s (pitchLoadComplete s)

end Sys2Proof.Machine
end

