-- ==== Sys2Proof/Machine/Lifecycle.lean ====
section
/-! DEFINITION. Starting, posting to, unloading and replacing resident contexts (R112, R113, R128, R133, R381). -/

namespace Sys2Proof.Machine

/-! ### START and POST -/

/-- START: with its optional step, loss scale and good-step count (R133, R249, R264, R381). A context that waits to take
over from another has its start coming (R113). -/
def startCmd (h : CmdHdr) (a : StartArgs) (s : State) : State :=
  match ctxOf s h.fn.val a.ctx with
  | none => finish h 1 0 0 s
  | some x =>
    if 3 < a.use then reject h 2 s
    else if x.started ∨ x.replaces.isSome then finish h 2 0 0 s
    else if a.use.testBit 1 ∧ ¬ lossScaleOk a.lossScale then finish h 0x11 0 0 s
    else finish h 0 0 0 (deckStart a.ctx (if a.use.testBit 0 then a.step else 0) (startAll a.ctx a s))

def execStart (h : CmdHdr) (a : StartArgs) (s : State) : Out :=
  commit s (hostCmd (.start h a) h .refused (startCmd h a) s)

/-- Add to a token of a context on a site, as one act. -/
def postMany (c site tok : Nat) : Nat → State → State
  | 0, s => s
  | n + 1, s => postMany c site tok n (postToken c site tok s)

/-- POST: tokens for a tile of a context; a count that the counter cannot hold is refused whole (R128, R381). -/
def postCmd (h : CmdHdr) (c tok l n : Nat) (s : State) : State :=
  match ctxOf s h.fn.val c with
  | none => finish h 1 0 0 s
  | some x =>
    match siteOfTile s l with
    | none => finish h 0x0F 0 0 s
    | some site =>
      match tget x.tiles site with
      | none => finish h 0x0F 0 0 s
      | some t =>
        if 30 ≤ tok then finish h 0x0F 0 0 s
        else if 255 < tokGet t tok + n then finish h 0x10 0 0 s
        else finish h 0 0 0 (postMany c site tok n s)

def execPost (h : CmdHdr) (ctx token tile count : Nat) (s : State) : Out :=
  commit s (hostCmd (.post h ctx token tile count) h .refused (postCmd h ctx token tile count) s)

/-! ### UNLOAD -/

/-- UNLOAD: the request stands until its boundary; DISCARD takes over from DRAIN (R112, R297). -/
def unloadCmd (h : CmdHdr) (c mode : Nat) (s : State) : State :=
  match ctxOf s h.fn.val c with
  | none => finish h 1 0 0 s
  | some x =>
    if 1 < mode then reject h 2 s
    else
      let (m, hs) := x.unload.getD (0, [])
      let s := ctxMod c (fun x => { x with unload := some (max m mode, hs ++ [h]) }) s
      if mode = 1 then serveDiscard c s else serveDrain c s

def execUnload (h : CmdHdr) (ctx mode : Nat) (s : State) : Out :=
  commit s (hostCmd (.unload h ctx mode) h (.code 1) (unloadCmd h ctx mode) s)

/-- A vote of a context is in progress (R112). -/
def inVote (s : State) (c : Nat) (x : Ctx) : Bool :=
  x.tiles.any (fun e => e.2.vote.isSome) || (trainGet s c).vote.flag.isSome

/-- Every tile of a context stands at an END_STEP figure or has not started (R112). -/
def tilesDrained (s : State) (c : Nat) (x : Ctx) : Bool :=
  x.tiles.all (fun e => e.2.atEnd && (!x.started || ctxStateAt s c e.1 == 4 || haltsAt (owedSteps s c) x e.2))

/-- The step, sweep and stream of a training context have nothing left to do (R112, R233, R239). -/
def trainDrained (s : State) (c : Nat) (x : Ctx) : Bool :=
  !x.pitch.flags.testBit 0 || ([0, 1, 5, 6].contains (phaseOf s c) && (match (trainGet s c).stream with
    | some st => st.broken || st.jobs.isEmpty
    | none => true))

/-- Serving on a context has no batch or commit left (R297). -/
def serveDrained (s : State) (c : Nat) : Bool :=
  match serveGet s c with
  | some v => v.batches.isEmpty && v.turn.isNone
  | none => true

/-- A pending unload has reached its boundary (R112). -/
def unloadReady (s : State) (c : Nat) (x : Ctx) : Bool :=
  match x.unload with
  | none => false
  | some (0, _) => tilesDrained s c x && !inVote s c x && trainDrained s c x && serveDrained s c
  | some _ => !inVote s c x

/-- A context lets go of an object: it is freed unless another resident context uses it (R102, R112). -/
def letGo (c f : Nat) (s : State) (hd : Nat) : State :=
  match objGet s f hd with
  | none => s
  | some o =>
    if c ∈ o.users then
      let us := o.users.filter (· != c)
      if us = [] then freeObj f hd s else objPut s { o with users := us }
    else s

/-- The context is gone: its channels, deck, serving and stream end, its tiles, rows and objects are released, and the end
event is posted unless it completed before (R112, R233, R297, R332, R358, R376). `reason` is the END REASON of its stream. -/
def releaseCtx (c reason : Nat) (s : State) : State :=
  match ctxGet s c with
  | none => s
  | some x =>
    let s := closeChans (fun _ ch => ch.a.ctx == c && ch.fn == x.fn) 6 0 s
    let s := closeDeck c s
    let s := if reason = 0 then serveEnd c false s else serveDiscard c s
    let s := endStream c reason s
    let s := (x.tiles.map (·.1)).foldl (leaveTile c) s
    let s := endEvent c 1 s
    let s := { s with ctxs := tdel s.ctxs c, train := tdel s.train c,
                      mesh := s.mesh.filter (fun m => m.ctx != c) }
    let s := x.handles.foldl (letGo c x.fn) s
    let s := setF s (Reg.STEP_STATE c) 31 28 (if x.pitch.flags.testBit 0 && x.started then 6 else 0)
    syncMedia (syncRecords s)

/-- The unload of a context takes effect, and its commands complete. -/
def unloadNow (c : Nat) (x : Ctx) (s : State) : State :=
  let (m, hs) := x.unload.getD (0, [])
  let gone := x.fn != 0 && (fld s (Reg.INST_STATE x.fn) 2 0 == 2 || fld s (Reg.INST_STATE x.fn) 2 0 == 5)
  let s := releaseCtx c (if gone then 3 else m) s
  hs.foldl (fun s h => finish h 0 0 0 s) s

/-- A successor whose predecessor is gone waits no longer, a predecessor whose successor is gone has it no more, and a load that has
still to complete finds the context that it replaces gone (R113). -/
def unlink (c : Nat) (s : State) : State :=
  let drop := fun (r : LoadReq) => if r.replaces = some c then { r with replaces := none } else r
  { s with
    ctxs := s.ctxs.map (fun e => (e.1, { e.2 with
      replaces := if e.2.replaces = some c then none else e.2.replaces,
      replacedBy := e.2.replacedBy.filter (· != c) })),
    loads := s.loads.map drop,
    loading := s.loading.map (fun g => { g with req := drop g.req }) }

/-- UNLOAD_TAKES_EFFECT (R112). -/
def unloadTakesEffect (c : Nat) (s : State) : State :=
  match ctxGet s c with
  | some x => if healthy s && awake s && x.replacedBy.isEmpty && unloadReady s c x then unlink c (unloadNow c x s) else s
  | none => s

def execUnloadTakesEffect (c : CtxId) (s : State) : Out := commit s (unloadTakesEffect c.val s)

/-- REPLACE_HANDOVER: the old context has drained and is unloaded, and what succeeds it starts in the same cycle (R113). -/
def replaceHandover (c : Nat) (s : State) : State :=
  match ctxGet s c with
  | some x =>
    if !x.replacedBy.isEmpty && healthy s && awake s && unloadReady s c x then
      x.replacedBy.foldl (fun s n => startAll n (plainStart n) s) (unlink c (unloadNow c x s))
    else s
  | none => s

def execReplaceHandover (c : CtxId) (s : State) : Out := commit s (replaceHandover c.val s)

end Sys2Proof.Machine
end

