-- ==== Sys2Proof/Machine/Bus.lean ====
section
/-! DEFINITION. The tray bus controller's own state: members, the allowance, frames queued, the end of a round and what
makes the node vote no or send WAKE (R442-R455). -/

namespace Sys2Proof.Machine

/-- A 16-bit value in two bytes. -/
def two (n : Nat) : List Nat := [n % 256, n / 256 % 256]

/-! ### Members and the allowance -/

/-- A slot counts as a member: its PRESENCE had FLAGS[0] clear, and some frame came within 3 s (R445). -/
def isMember (s : State) (e : Nat × Member) : Bool := e.2.present && s.timeBase < e.2.seen + 75000000

/-- The node's members: itself and every other member; itself alone while ALONE is set (R445, R455). -/
def membersOf (s : State) : List Nat :=
  mySlot s :: (if bitR s Reg.TRAY_STATUS 30 then [] else ((s.tray.others.filter (isMember s)).map (·.1)).filter (· != mySlot s))

/-- The members as a mask. -/
def memberMask (s : State) : Nat := ((membersOf s).map (2 ^ ·)).foldl (· + ·) 0

/-- This node's CAP and REQUEST; a request of 0 is taken as 1 (R458). -/
def myCap (s : State) : Nat := fld s Reg.TRAY_CONFIG 27 16
def myRequest (s : State) : Nat := max 1 (fld s Reg.TRAY_CONFIG 15 8)

/-- The latest CAP and REQUEST of a slot; 1,800 W and no cap before its first BUDGET (R454). -/
def budgetOfSlot (s : State) (k : Nat) : Nat × Nat :=
  if k = mySlot s then (myCap s, myRequest s)
  else ((tget s.tray.others k).bind (·.budget)).getD (0xFFF, 180)

/-- The members and their requests in the order of R454. -/
def insertReq (e : Nat × Nat) : List (Nat × Nat) → List (Nat × Nat)
  | [] => [e]
  | x :: t => if e.1 < x.1 ∨ (e.1 = x.1 ∧ e.2 < x.2) then e :: x :: t else x :: insertReq e t

/-- Share a cap, in units of 10 W (R454): what slot `me` is given. -/
def shareCap (me : Nat) : Nat → List (Nat × Nat) → Nat
  | _, [] => 0
  | left, e :: t =>
    let give := min e.1 (left / (t.length + 1))
    if e.2 = me then give else shareCap me (left - give) t

/-- The least CAP in use, and the node's allowance (R454). -/
def allowanceOf (s : State) : Nat × Nat :=
  let ms := membersOf s
  if ms.length ≤ 1 ∨ ¬ bitR s Reg.TRAY_CONFIG 0 then (myCap s, min (myRequest s) (myCap s))
  else
    let c := (ms.map (fun k => (budgetOfSlot s k).1)).foldl min (myCap s)
    (c, shareCap (mySlot s) c ((ms.map (fun k => ((budgetOfSlot s k).2, k))).foldl (fun l e => insertReq e l) []))

/-- The package power limit L, in units of 10 W (R486). -/
def limitOf (s : State) : Nat :=
  let pf := fld s Reg.POWER_LIMIT 27 16
  min (min 180 s.power.allowance) (if pf = 0 then 180 else pf)

/-- POWER_LIMIT.IN_USE follows L. -/
def syncLimit (s : State) : State := setF s Reg.POWER_LIMIT 11 0 (limitOf s)

/-- The allowance is recomputed; a new allowance raises BUDGET_CHANGED and becomes the power limit (R454). -/
def syncTray (s : State) : State :=
  let (c, a) := allowanceOf s
  let old := s.power.allowance
  let s := setF (setF s Reg.TRAY_POWER 27 16 c) Reg.TRAY_POWER 15 8 a
  let s := if a = old then s else orR { s with power := { s.power with allowance := a } } Reg.TRAY_CAUSE 0x40
  syncLimit s

/-! ### Rounds -/

/-- ROUND_STATE, LAST_RESULT and ROUND of TRAY_STATUS. -/
def setRoundState (v : Nat) (s : State) : State := setF s Reg.TRAY_STATUS 23 21 v
def setLastResult (v : Nat) (s : State) : State := setF s Reg.TRAY_STATUS 20 18 v

/-- This node's request ends (R458). -/
def endRequest (s : State) : State := setB s Reg.TRAY_CONTROL 31 false

/-- The open round ends on this node with a result; its queued frames are cancelled (R446, R452, R457). -/
def endRound (result : Nat) (s : State) : State :=
  match s.tray.round with
  | none => s
  | some r =>
    let s := trayMod (fun t => { t with round := none, txq := t.txq.filter (fun e => e.1 != 2 && e.1 != 3 && e.1 != 4) }) s
    let s := satR (orR (setLastResult result (setRoundState 0 s)) Reg.TRAY_CAUSE 0x10) Reg.ROUNDS 1
    let s := if result = 4 then satR s Reg.ROUND_ABORTS 1 else s
    if r.mine then endRequest s else s

/-- The work that SLEEP would lose (R484): a resident context, an open channel or deck, a command other than PLACE. -/
def sleepLoses (s : State) : Bool :=
  !s.ctxs.isEmpty || !s.chans.isEmpty || !s.decks.isEmpty || !s.loads.isEmpty || s.loading.isSome || !s.dmas.isEmpty || !s.runs.isEmpty
    || s.taken.any (fun i => match i with | .place _ _ => false | _ => true)
    || s.owed.any (fun o => o.left != 0 && !s.places.any (fun r => sameCmd r.hdr o.hdr))

/-- A maintenance token other than scrub's is held (R437, R448). -/
def holdsToken (s : State) : Bool := getR s Reg.MAINT_HOLDERS % 2 ^ 16 / 2 != 0

/-- The first reason for a no, 0 for a yes (R448). -/
def voteReason (mask : Nat) (s : State) : Nat :=
  if !bitR s Reg.TRAY_CONTROL 29 || sleepLoses s then 1
  else if holdsToken s then 2
  else if mask ≠ memberMask s then 3
  else if !full s || s.faultSeq.phase == .recovering || s.faultSeq.phase == .restarting then 4
  else 0

/-- This node voted yes in the open round, or its last call is open (R484). -/
def votedYes (s : State) : Bool := s.tray.round.any (fun r => r.vote == some true || r.window.isSome)

/-- Agreement is withdrawn: WAKE with REASON 3 (R451, R484). -/
def withdraw (s : State) : State := if votedYes s then queueWake 3 s else s

/-- A maintenance token other than scrub's is granted while a round is open: WAKE with REASON 4 (R451). -/
def tokenGranted (s : State) : State := if s.tray.round.isSome then queueWake 4 s else s

/-- A command other than PLACE is taken: an agreement to sleep is withdrawn (R484). -/
def takenInRound (i : Instr) (s : State) : State :=
  match i with
  | .place _ _ => s
  | _ => withdraw s

end Sys2Proof.Machine
end

