-- ==== Sys2Proof/Machine/Queues.lean ====
section
/-! DEFINITION. Queue pairs (R373-R380): protocol selection, enabling, doorbells, and the fetch of a command with its
decoding. -/

namespace Sys2Proof.Machine

/-! ### Reaching the registers -/

/-- The host reaches registers: the link is up, the part is awake and out of part reset. -/
def hostUp (s : State) : Bool := !s.start.inReset && s.linkUp && awake s

/-- The function exists: the physical function, or an instance that is not absent. -/
def fnExists (s : State) (f : Nat) : Bool := f == 0 || fld s (Reg.INST_STATE f) 2 0 != 0

/-- The function's queue pair registers are served: in service, below the shape's pair count (R373, R504). -/
def qpServed (s : State) (f q : Nat) : Bool := hostUp s && inService s && fnExists s f && q < shapeQps s f

/-- The BAR0 offset of the function block of a function (R371). -/
def fnOffset (f : Nat) : Nat := if f = 0 then 0x10000 else 0x2000

/-- Some pair of the function is enabled. -/
def anyQp (s : State) (f : Nat) : Bool := (List.range (shapeQps s f)).any (qpEnabled s f)

/-- HOST_PROTOCOL: a selection is taken while no pair of the function is enabled; ACCEPTED follows it (R375). -/
def hostProtocol (f major minor : Nat) (s : State) : State :=
  if hostUp s && !baseCamp s && fnExists s f then
    if anyQp s f then accessError f 4 (fnOffset f + 4) s
    else
      let s := setF (setF s (Reg.HOST_PROTOCOL f) 15 12 major) (Reg.HOST_PROTOCOL f) 11 8 minor
      setB s (Reg.HOST_PROTOCOL f) 0 (major % 16 == 1 && minor % 16 ≤ 2)
  else s

def execHostProtocol (f : FnId) (major minor : Nat) (s : State) : Out := commit s (access (.hostProtocol f major minor) (hostProtocol f.val major minor) s)

/-! ### Enabling -/

/-- MSI-X vectors of a function (R364). -/
def vectorCount (f : Nat) : Nat := if f = 0 then 128 else 32

/-- A pair's configuration is valid (R373). -/
def qpConfigOk (s : State) (f q : Nat) : Bool :=
  let lg := fun (n : Nat) => 6 ≤ n && n ≤ 16
  lg (fld s (Reg.QP_CONFIG f q) 7 0) && lg (fld s (Reg.QP_CONFIG f q) 15 8) && fld s (Reg.QP_CONFIG f q) 23 16 < vectorCount f

/-- QP_ENABLE: the pair starts afresh, or faults with code 0x04 (R374). -/
def qpEnable (f q : Nat) (s : State) : State :=
  if qpServed s f q && !bitR s (Reg.QP_CONFIG f q) 31 then
    let s := setB s (Reg.QP_CONFIG f q) 31 true
    if bitR s (Reg.HOST_PROTOCOL f) 0 && fnActive s f && qpConfigOk s f q then
      qpPut (setR s (Reg.QP_STATUS f q) (2 ^ 31)) f q { sqTail := 0, cqTail := 0, cqHead := 0, phase := true }
    else qpFault s f q 4
  else s

def execQpEnable (f : FnId) (q : Nat) (s : State) : Out := commit s (access (.qpEnable f q) (qpEnable f.val q) s)

/-- QP_DISABLE: fetching stops at once; the pair stops once its commands have completed (R374). -/
def qpDisable (f q : Nat) (s : State) : State :=
  if qpServed s f q && bitR s (Reg.QP_CONFIG f q) 31 then qpDrain (setB s (Reg.QP_CONFIG f q) 31 false) f q else s

def execQpDisable (f : FnId) (q : Nat) (s : State) : Out := commit s (access (.qpDisable f q) (qpDisable f.val q) s)

/-! ### Doorbells -/

/-- SQ_TAIL: the entries below TAIL are ready; a TAIL out of range stops the pair (R373, R374). -/
def sqTail (f q tail : Nat) (s : State) : State :=
  if qpServed s f q && qpEnabled s f q then
    if sqSize s f q ≤ tail then qpFault s f q 1 else qpPut s f q { qpGet s f q with sqTail := tail }
  else s

def execSqTail (f : FnId) (q tail : Nat) (s : State) : Out := commit s (access (.sqTail f q tail) (sqTail f.val q tail) s)

/-- CQ_HEAD: the entries below HEAD are consumed (R373). -/
def cqHead (f q head : Nat) (s : State) : State :=
  if qpServed s f q && qpEnabled s f q && head < cqSize s f q then qpPut s f q { qpGet s f q with cqHead := head } else s

def execCqHead (f : FnId) (q head : Nat) (s : State) : Out := commit s (access (.cqHead f q head) (cqHead f.val q head) s)

/-! ### Decoding a command (R376, R380) -/

/-- Where arguments of given sizes stand: each at the next multiple of its own size. -/
def argPlaces : Nat → List Nat → List (Nat × Nat)
  | _, [] => []
  | o, n :: t => (ceilDiv o n * n, n) :: argPlaces (ceilDiv o n * n + n) t

/-- The arguments of a command. -/
def argVals (b : Bytes) (sizes : List Nat) : List Nat := (argPlaces 0x10 sizes).map (fun p => fieldAt b p.1 p.2)

/-- The bytes of the argument area that no argument covers are 0: those skipped between arguments (R380), and those after the
last (log entry 28). -/
def gapsZero (b : Bytes) : Nat → List (Nat × Nat) → Bool
  | o, [] => zeroBytes b o (128 - o)
  | o, (a, n) :: t => zeroBytes b o (a - o) && gapsZero b (a + n) t
where
  /-- A run of bytes is zero. -/
  zeroBytes (b : Bytes) (o n : Nat) : Bool := (slice b o n).all (· == 0#8)

/-- An opcode (R380): whether only the physical function issues it, the minor version it comes with, its argument sizes. -/
structure OpForm where
  pf : Bool
  since : Nat
  sizes : List Nat
  deriving DecidableEq, Repr

/-- The opcode table (R380). -/
def opForm (op : Nat) : Option OpForm :=
  match op with
  | 0x01 => some ⟨true, 0, [1, 1, 4, 4, 8, 8]⟩
  | 0x02 => some ⟨true, 0, [1]⟩
  | 0x03 => some ⟨true, 0, [1]⟩
  | 0x04 => some ⟨true, 0, [1]⟩
  | 0x05 => some ⟨true, 0, [1, 8, 4]⟩
  | 0x06 => some ⟨true, 0, [1, 8, 4]⟩
  | 0x07 => some ⟨true, 0, [1]⟩
  | 0x10 => some ⟨false, 0, [1, 4, 8, 8]⟩
  | 0x11 => some ⟨false, 0, [1, 1, 1, 1, 1, 4, 8]⟩
  | 0x12 => some ⟨false, 0, [4]⟩
  | 0x13 => some ⟨false, 0, [4]⟩
  | 0x14 => some ⟨false, 0, [4, 8]⟩
  | 0x20 => some ⟨false, 0, [4, 8]⟩
  | 0x21 => some ⟨false, 0, [1, 1, 8, 4, 4]⟩
  | 0x22 => some ⟨false, 0, [1, 1]⟩
  | 0x23 => some ⟨false, 0, [1, 4, 8]⟩
  | 0x24 => some ⟨false, 0, [1, 1, 2, 1]⟩
  | 0x25 => some ⟨false, 0, [1, 1, 1, 1, 1, 1, 2, 8, 4]⟩
  | 0x28 => some ⟨false, 0, [4, 4, 4, 4, 1, 1, 4]⟩
  | 0x29 => some ⟨false, 2, [4, 8]⟩
  | 0x2A => some ⟨false, 2, [4, 8]⟩
  | 0x30 => some ⟨false, 1, [1, 1, 1, 1, 2, 2, 2, 2, 2, 8, 4, 4, 4, 4]⟩
  | 0x31 => some ⟨false, 1, [1]⟩
  | 0x32 => some ⟨false, 1, [4, 8]⟩
  | 0x33 => some ⟨false, 1, [1, 1, 4, 4, 4]⟩
  | 0x34 => some ⟨false, 1, [1, 4, 4]⟩
  | 0x35 => some ⟨false, 1, [1, 4]⟩
  | 0x36 => some ⟨false, 1, [1, 4, 4]⟩
  | 0x37 => some ⟨false, 1, [1]⟩
  | 0x38 => some ⟨false, 1, [1, 4]⟩
  | 0x40 => some ⟨false, 0, [1, 1, 1, 1, 1, 1, 1, 2, 2, 2, 2, 2, 4, 4, 4, 4, 4, 8, 8]⟩
  | 0x41 => some ⟨false, 0, [2, 1, 4, 8]⟩
  | 0x42 => some ⟨false, 0, [2, 4]⟩
  | 0x43 => some ⟨false, 0, [2, 1]⟩
  | 0x48 => some ⟨false, 2, [1, 1, 2, 2, 4, 4, 4, 4, 4, 8, 8, 8]⟩
  | 0x49 => some ⟨false, 2, [1]⟩
  | 0x4A => some ⟨false, 2, [1, 4, 8]⟩
  | _ => none

/-- The command that an opcode and its arguments spell. -/
def opInstr (op : Nat) (h : CmdHdr) (v : List Nat) : Option Instr :=
  let a := nth v
  match op with
  | 0x01 => some (.instanceCreate h { inst := a 0, queuePairs := a 1, tileGroups := a 2, pegSlots := a 3,
                                      granules := (natLe 8 (a 4)).map (·.toNat), decode := a 5 })
  | 0x02 => some (.instanceDestroy h (a 0))
  | 0x03 => some (.instanceReset h (a 0))
  | 0x04 => some (.instanceFreeze h (a 0))
  | 0x05 => some (.instanceSave h (a 0) (a 1) (a 2))
  | 0x06 => some (.instanceRestore h (a 0) (a 1) (a 2))
  | 0x07 => some (.instanceThaw h (a 0))
  | 0x10 => some (.dma h (a 0) (a 1) (a 2) (a 3))
  | 0x11 => some (.objectCreate h { oflags := a 0, keySlot := a 1, format := a 2, tier := a 3, stackMask := a 4, objectId := a 5,
                                    size := a 6 })
  | 0x12 => some (.objectFree h (a 0))
  | 0x13 => some (.place h (a 0))
  | 0x14 => some (.farPool h (a 0) (a 1))
  | 0x20 => some (.loadPitch h (a 0) (a 1))
  | 0x21 => some (.start h { ctx := a 0, use := a 1, step := a 2, lossScale := a 3, goodSteps := a 4 })
  | 0x22 => some (.unload h (a 0) (a 1))
  | 0x23 => some (.replace h (a 0) (a 1) (a 2))
  | 0x24 => some (.post h (a 0) (a 1) (a 2) (a 3))
  | 0x25 => some (.deltaAttach h { ctx := a 0, dest := a 1, lag := a 2, verMinor := a 3, verMajor := a 4, port := a 5,
                                   device := a 6, ringAddr := a 7, ringSize := a 8 })
  | 0x28 => some (.codecCode h { target := a 0, source := a 1, base := a 2, factors := a 3, rank := a 4, orient := a 5,
                                 packCols := a 6 })
  | 0x29 => some (.codecTableGet h (a 0) (a 1))
  | 0x2A => some (.codecTableSet h (a 0) (a 1))
  | 0x30 => some (.serveOpen h { ctx := a 0, rank := a 1, sets := a 2, poolStacks := a 3, targets := a 4, segments := a 5,
                                 capacity := a 6, regions := a 7, objects := a 8, targetAddr := a 9, winBase := a 10,
                                 poolSlots := a 11, regionsBase := a 12, objectsBase := a 13 })
  | 0x31 => some (.serveClose h (a 0))
  | 0x32 => some (.submitBatch h (a 0) (a 1))
  | 0x33 => some (.peg h (a 0) (a 1) (a 2) (a 3) (a 4))
  | 0x34 => some (.renew h (a 0) (a 1) (a 2))
  | 0x35 => some (.unpeg h (a 0) (a 1))
  | 0x36 => some (.cacheStage h (a 0) (a 1) (a 2))
  | 0x37 => some (.cacheCommit h (a 0))
  | 0x38 => some (.cacheDrop h (a 0) (a 1))
  | 0x40 => some (.mediaOpen h { ctx := a 0, input := a 1, chroma := a 2, dpb := a 3, engine := a 4, token := a 5, postEvery := a 6,
                                 program := a 7, pid := a 8, maxWidth := a 9, maxHeight := a 10, tile := a 11, work := a 12,
                                 pool := a 13, firstSlot := a 14, slotCount := a 15, reportSize := a 16, profile := a 17,
                                 reportAddr := a 18 })
  | 0x41 => some (.mediaFeed h (a 0) (a 1) (a 2) (a 3))
  | 0x42 => some (.mediaRelease h (a 0) (a 1))
  | 0x43 => some (.mediaClose h (a 0) (a 1))
  | 0x48 => some (.shuffleOpen h { ctx := a 0, token := a 1, tile := a 2, channels := a 3, depth := a 4, epochWindows := a 5,
                                   batch := a 6, feed := a 7, feedSlots := a 8, listAddr := a 9, firstWindow := a 10,
                                   startStep := a 11 })
  | 0x49 => some (.shuffleClose h (a 0))
  | 0x4A => some (.randomGet h (a 0) (a 1) (a 2))
  | _ => none

/-- A command loads a pitch, and so posts an event later (R376). -/
def opLoads (op : Nat) : Bool := op == 0x20 || op == 0x23

/-- Completions that are not events (R376). -/
def opCompletions (op : Nat) : Nat := if op = 0x32 then 2 else 1

/-- The header of a command (R376). -/
def readCmdHdr (f : FnId) (q : Nat) (b : Bytes) : CmdHdr :=
  let fl := fieldAt b 1 1
  { fn := f, qp := q, gen := fieldAt b 2 2, cid := fieldAt b 4 2, tag := fieldAt b 8 8, fence := fl.testBit 0, noIrq := fl.testBit 1 }

/-- What the envelope makes of a command: its Instr, or the STATUS that refuses it (R376, R377, R379). -/
def readCmd (s : State) (f : FnId) (q : Nat) (b : Bytes) : Except Nat Instr :=
  let h := readCmdHdr f q b
  if h.gen ≠ genOf s f.val then .error 3
  else match opForm (fieldAt b 0 1) with
    | none => .error 1
    | some o =>
      if (o.pf ∧ f.val ≠ 0) ∨ fld s (Reg.HOST_PROTOCOL f.val) 11 8 < o.since then .error 1
      else if 4 ≤ fieldAt b 1 1 ∨ fieldAt b 6 2 ≠ 0 ∨ ¬ gapsZero b 0x10 (argPlaces 0x10 o.sizes) then .error 2
      else match opInstr (fieldAt b 0 1) h (argVals b o.sizes) with
        | some i => .ok i
        | none => .error 1

/-! ### Fetching -/

/-- Completions owed on a pair, events counted (R374). -/
def owedOn (s : State) (f q : Nat) : Nat :=
  ((s.owed.filter (fun o => o.hdr.fn.val == f && o.hdr.qp == q)).map (fun o => o.left + (if o.event then 1 else 0))).foldl (· + ·) 0

/-- The CQ holds free entries for what is owed and for `n` more; one entry of the ring stays free (R374). -/
def cqRoom (s : State) (f q n : Nat) : Bool :=
  let p := qpGet s f q
  (p.cqTail + cqSize s f q - p.cqHead) % cqSize s f q + owedOn s f q + n < cqSize s f q

/-- A fence holds the command back: an earlier command of the pair has not posted its first completion (R376). -/
def fenced (s : State) (h : CmdHdr) : Bool :=
  h.fence && s.owed.any (fun o => o.hdr.fn == h.fn && o.hdr.qp == h.qp && !o.first)

/-- A pair may fetch its next command (R369, R374). -/
def mayFetch (s : State) (f q : Nat) : Bool :=
  qpServed s f q && qpEnabled s f q && bitR s (Reg.QP_CONFIG f q) 31 && fnActive s f
    && fld s (Reg.QP_STATUS f q) 15 0 != (qpGet s f q).sqTail

/-- COMMAND_FETCH: the next command is read; it is refused in its envelope, or taken and owed its completions (R374, R376,
R377). -/
def commandFetch (f : FnId) (q : Nat) (s : State) : State :=
  let g := f.val
  if mayFetch s g q then
    let head := fld s (Reg.QP_STATUS g q) 15 0
    let a := getR s (Reg.SQ_BASE g q) + head * 128
    if !hostOk s g a 128 then qpFault s g q 2
    else
      let b := hostRead s g a 128
      let h := readCmdHdr f q b
      let op := fieldAt b 0 1
      let need := opCompletions op + (if opLoads op then 1 else 0)
      if fenced s h || !cqRoom s g q need then s
      else
        let next := (head + 1) % sqSize s g q
        let s := setF s (Reg.QP_STATUS g q) 15 0 next
        match readCmd s f q b with
        | .ok i =>
          let s := takenInRound i s
          { s with taken := s.taken ++ [i],
                   owed := s.owed ++ [{ hdr := h, sqHead := next, left := opCompletions op, first := false,
                                        event := opLoads op }] }
        | .error e =>
          let s := if e = 3 then orR (satR s (Reg.STALE_COMMANDS g) 1) (Reg.FN_CAUSE g) 4 else s
          postCqe s h next 0 e 0 0
  else s

def execCommandFetch (f : FnId) (q : Nat) (s : State) : Out := commit s (commandFetch f q s)

end Sys2Proof.Machine
end

