-- ==== Sys2Proof/Machine/Instances.lean ====
section
/-! DEFINITION. Instances: creation, reset, destruction, freezing (R368, R369, R378, R382). The state image and its restore
stand in Image.lean. -/

namespace Sys2Proof.Machine

/-- The state code of an instance (R369). -/
def instState (s : State) (i : Nat) : Nat := fld s (Reg.INST_STATE i) 2 0
/-- Set the state code. -/
def setInst (s : State) (i v : Nat) : State := setF s (Reg.INST_STATE i) 2 0 v

/-- The commands that wait for an instance. -/
def instWaiters (s : State) (i : Nat) : List CmdHdr := tgetD s.instCmd i []
/-- One more command waits. -/
def instWait (h : CmdHdr) (i : Nat) (s : State) : State := { s with instCmd := tput s.instCmd i (instWaiters s i ++ [h]) }
/-- The commands that wait for an instance complete with a code. -/
def instFinish (i code : Nat) (s : State) : State :=
  (instWaiters s i).foldl (fun s h => finish h code 0 0 s) { s with instCmd := tdel s.instCmd i }

/-! ### INSTANCE_CREATE -/

/-- The fields of a shape lie within R368's limits. -/
def shapeOk (a : ShapeArgs) : Bool :=
  1 ≤ a.queuePairs && a.queuePairs ≤ 64 && a.pegSlots ≤ 65536 && a.decode < 2 ^ 48 && a.tileGroups < 2 ^ 32
    && (List.range 8).all (fun st => nth a.granules st ≤ 59)

/-- A pool granule of a stack is in use by the physical function: it holds a frame of one of its objects or pools. -/
def granuleUsed (s : State) (st g : Nat) : Bool := (usedFrames s st).any (fun n => n / 512 == g)

/-- A mask lies within another. -/
def within (m n : Nat) : Bool := m &&& n == m

/-- Every named resource is in the pools (R369). -/
def inPools (s : State) (a : ShapeArgs) : Bool :=
  within a.tileGroups (shapeTiles s 0) && within a.decode (shapeDecode s 0) && a.queuePairs ≤ shapeQps s 0
    && a.pegSlots ≤ shapePegs s 0 && (List.range 8).all (fun st => nth a.granules st ≤ (fnGranules s 0 st).length)

/-- No named resource is in use by the physical function: no tile of a resident context of it, no engine with an open channel
of it, enough granules without a frame of it, enough pairs beyond its enabled ones, enough peg slots beyond its open
contexts' (R369). -/
def freeOfPf (s : State) (a : ShapeArgs) : Bool :=
  s.ctxs.all (fun e => e.2.fn != 0 || (usedTiles e.2.pitch.tileMap).all (fun l => !a.tileGroups.testBit (l / 16)))
    && s.chans.all (fun e => e.2.fn != 0 || !a.decode.testBit e.2.a.engine)
    && (List.range 8).all (fun st => nth a.granules st ≤ ((fnGranules s 0 st).filter (fun g => !granuleUsed s st g)).length)
    && (List.range (shapeQps s 0)).all (fun q => !qpEnabled s 0 q || q < shapeQps s 0 - a.queuePairs)
    && slotsOpen s 0 + a.pegSlots ≤ shapePegs s 0

/-- Give granules of a stack to an instance, lowest free first (R368). -/
def giveGranules (i : Nat) (a : ShapeArgs) (s : State) (st : Nat) : State :=
  let gs := ((fnGranules s 0 st).filter (fun g => !granuleUsed s st g)).take (nth a.granules st)
  { s with granOwner := gs.foldl (fun t g => tput t (st * 64 + g) i) s.granOwner }

/-- Set the pool masks and counts. -/
def setPools (tiles decode qps pegs : Nat) (s : State) : State :=
  let s := setR s Reg.POOL_TILES tiles
  let s := setR (setR s Reg.POOL_DECODE_LO (decode % 2 ^ 32)) Reg.POOL_DECODE_HI (decode / 2 ^ 32)
  setR s Reg.POOL_QP_PEG (qps * 2 ^ 17 + pegs)

/-- Write an instance record's shape (R370, R372). -/
def setShape (i : Nat) (a : ShapeArgs) (s : State) : State :=
  let g := fun (k : Nat) => nth a.granules k + nth a.granules (k + 1) * 2 ^ 8 + nth a.granules (k + 2) * 2 ^ 16 + nth a.granules (k + 3) * 2 ^ 24
  let s := setR s (Reg.INST_TILES i) a.tileGroups
  let s := setR (setR s (Reg.INST_DECODE_LO i) (a.decode % 2 ^ 32)) (Reg.INST_DECODE_HI i) (a.decode / 2 ^ 32)
  let s := setR (setR s (Reg.INST_GRANULES_LO i) (g 0)) (Reg.INST_GRANULES_HI i) (g 4)
  setR s (Reg.INST_QP_PEG i) (a.pegSlots * 2 ^ 8 + a.queuePairs)

/-- INSTANCE_CREATE (R369, R381). -/
def instanceCreate (h : CmdHdr) (a : ShapeArgs) (s : State) : State :=
  let i := a.inst
  if i = 0 ∨ 32 ≤ i ∨ ¬ s.vfEnable then finish h 1 0 0 s
  else if instState s i ≠ 0 then finish h 2 0 0 s
  else if ¬ shapeOk a then finish h 3 0 0 s
  else if ¬ full s then finish h 6 0 0 s
  else if ¬ inPools s a then finish h 5 0 0 s
  else if ¬ freeOfPf s a then finish h 4 0 0 s
  else
    let s := (List.range 8).foldl (giveGranules i a) s
    let s := setPools (shapeTiles s 0 - a.tileGroups) (shapeDecode s 0 - a.decode) (shapeQps s 0 - a.queuePairs)
      (shapePegs s 0 - a.pegSlots) s
    let s := setShape i a s
    finish h 0 0 0 (setR s (Reg.INST_STATE i) (((fld s (Reg.INST_STATE i) 31 16 + 1) % 65536) * 2 ^ 16 + 1))

def execInstanceCreate (h : CmdHdr) (a : ShapeArgs) (s : State) : Out :=
  commit s (hostCmd (.instanceCreate h a) h .refused (instanceCreate h a) s)

/-! ### Reset and destruction (R378) -/

/-- The header of a host command. -/
def hdrOf : Instr → Option CmdHdr
  | .instanceCreate h _ => some h
  | .instanceDestroy h _ => some h
  | .instanceReset h _ => some h
  | .instanceFreeze h _ => some h
  | .instanceSave h _ _ _ => some h
  | .instanceRestore h _ _ _ => some h
  | .instanceThaw h _ => some h
  | .dma h _ _ _ _ => some h
  | .objectCreate h _ => some h
  | .objectFree h _ => some h
  | .place h _ => some h
  | .farPool h _ _ => some h
  | .loadPitch h _ _ => some h
  | .start h _ => some h
  | .unload h _ _ => some h
  | .replace h _ _ _ => some h
  | .post h _ _ _ _ => some h
  | .deltaAttach h _ => some h
  | .codecCode h _ => some h
  | .codecTableGet h _ _ => some h
  | .codecTableSet h _ _ => some h
  | .serveOpen h _ => some h
  | .serveClose h _ => some h
  | .submitBatch h _ _ => some h
  | .peg h _ _ _ _ _ => some h
  | .renew h _ _ _ => some h
  | .unpeg h _ _ => some h
  | .cacheStage h _ _ _ => some h
  | .cacheCommit h _ => some h
  | .cacheDrop h _ _ => some h
  | .mediaOpen h _ => some h
  | .mediaFeed h _ _ _ _ => some h
  | .mediaRelease h _ _ => some h
  | .mediaClose h _ _ => some h
  | .shuffleOpen h _ => some h
  | .shuffleClose h _ => some h
  | .randomGet h _ _ _ => some h
  | _ => none

/-- A taken command belongs to a function. -/
def takenOf (f : Nat) (i : Instr) : Bool := (hdrOf i).any (fun h => h.fn.val == f)

/-- Commands of a function that were taken and have not run are not run any more; their completions are discarded as late. -/
def dropTaken (f : Nat) (s : State) : State :=
  (s.taken.filterMap hdrOf).foldl (fun s h => if h.fn.val = f then reject h 9 s else s)
    { s with taken := s.taken.filter (fun i => !takenOf f i) }

/-- Loads of a function are abandoned (R111). -/
def dropLoads (f code : Nat) (s : State) : State :=
  let mine := (s.loads.filter (fun r => r.hdr.fn.val == f)).map (·.hdr) ++ (match s.loading with
    | some g => if g.req.hdr.fn.val = f then [g.req.hdr] else []
    | none => [])
  mine.foldl (fun s h => finish h code 0 0 s)
    { s with loads := s.loads.filter (fun r => r.hdr.fn.val != f),
             loading := match s.loading with
               | some g => if g.req.hdr.fn.val = f then none else some g
               | none => none }

/-- A context of a reset instance is unloaded as DISCARD (R378). -/
def discardCtx (s : State) (c : Nat) : State :=
  serveDiscard c (ctxMod c (fun x => { x with unload := some (1, match x.unload with | some (_, hs) => hs | none => []),
                                              freezing := false, replacedBy := [] }) s)

/-- Contexts that a function loaded. -/
def ctxsOf (s : State) (f : Nat) : List Nat := (s.ctxs.filter (fun e => e.2.fn == f)).map (·.1)

/-- Registers that take their Reset values at an instance reset: the pairs, the protocol selection, ACCESS_LOG (R508). -/
def resetFnRegs (f : Nat) (s : State) : State :=
  let s := (List.range 64).foldl (fun s q => [Reg.SQ_BASE f q, Reg.CQ_BASE f q, Reg.QP_CONFIG f q, Reg.QP_STATUS f q].foldl resetR s) s
  let s := { s with qps := s.qps.filter (fun e => e.1 / 1024 != f) }
  resetR (resetR s (Reg.HOST_PROTOCOL f)) (Reg.ACCESS_LOG f)

/-- Steps 1-3 of R378 in one act: the generation rises, the pairs go, the instance's work ends. `st` is the state code that
the instance enters: resetting or destroying. -/
def fnReset (f st : Nat) (s : State) : State :=
  let was := instState s f
  let s := setF s (Reg.INST_STATE f) 31 16 ((fld s (Reg.INST_STATE f) 31 16 + 1) % 65536)
  let s := if was = 3 then instFinish f 2 s else s
  let s := resetFnRegs f (setInst { s with frozen := tdel s.frozen f } f st)
  let s := dropLoads f 0x17 (dropTaken f s)
  let s := (ctxsOf s f).foldl discardCtx s
  let s := closeChans (fun _ ch => ch.fn == f) 6 0 s
  let s := ((s.decks.filter (fun e => e.2.fn == f)).map (·.1)).foldl (fun s c => closeDeck c s) s
  dropRuns (fun r => r.fn == f) (recheck s (dropPlaces (fun r => r.fn == f) 7 s))

/-- A reset may be taken now: not during steps 1-6 of a chip fault (R469). -/
def resetOk (s : State) : Bool := s.faultSeq.phase != .sequence && inService s

/-- INSTANCE_RESET (R378, R381). -/
def instanceReset (h : CmdHdr) (i : Nat) (s : State) : State :=
  if i = 0 ∨ 32 ≤ i ∨ instState s i = 0 then finish h 1 0 0 s
  else if instState s i = 2 ∨ instState s i = 5 then finish h 2 0 0 s
  else instWait h i (fnReset i 2 s)

def execInstanceReset (h : CmdHdr) (inst : Nat) (s : State) : Out :=
  commit s (hostCmd (.instanceReset h inst) h .runs (instanceReset h inst) s)

/-- INSTANCE_DESTROY: a reset first (R369, R381). -/
def instanceDestroy (h : CmdHdr) (i : Nat) (s : State) : State :=
  if i = 0 ∨ 32 ≤ i ∨ instState s i = 0 then finish h 1 0 0 s
  else if instState s i = 2 ∨ instState s i = 5 then finish h 2 0 0 s
  else instWait h i (fnReset i 5 s)

def execInstanceDestroy (h : CmdHdr) (inst : Nat) (s : State) : Out :=
  commit s (hostCmd (.instanceDestroy h inst) h .runs (instanceDestroy h inst) s)

/-- FUNCTION_LEVEL_RESET of a virtual function resets its instance (R378). -/
def functionLevelReset (f : Nat) (s : State) : State :=
  if f ≠ 0 && resetOk s && instState s f != 0 && instState s f != 5 then fnReset f 2 s else s

def execFunctionLevelReset (f : FnId) (s : State) : Out := commit s (functionLevelReset f.val s)

/-- Every instance begins to be destroyed (R369). -/
def destroyAll (s : State) : State :=
  (upFrom 1 31).foldl (fun s i => if instState s i = 0 then s
    else if instState s i = 2 ∨ instState s i = 5 then setInst s i 5 else fnReset i 5 s) s

/-- PF_FUNCTION_LEVEL_RESET (R369). -/
def execPfFunctionLevelReset (s : State) : Out := commit s (onlyIf (resetOk s) destroyAll s)

/-- No instance is left. -/
def noInstance (s : State) : Bool := (upFrom 1 31).all (fun i => instState s i == 0)

/-- VF Enable, cleared, is taken to be set again once no instance is left. -/
def vfAgain (s : State) : State := if noInstance s then { s with vfEnable := true } else s

/-- VF_ENABLE_CLEAR (R369). -/
def execVfEnableClear (s : State) : Out :=
  commit s (onlyIf (resetOk s) (fun s => vfAgain (destroyAll { s with vfEnable := false })) s)

/-- The work of a function has ended: its contexts, channels, DMAs, runs, requests and loads are gone (R378). -/
def fnQuiet (s : State) (f : Nat) : Bool :=
  (ctxsOf s f).isEmpty && s.chans.all (fun e => e.2.fn != f) && s.dmas.all (fun d => d.hdr.fn.val != f)
    && s.runs.all (fun r => r.fn != f) && s.places.all (fun r => r.fn != f) && s.loads.all (fun r => r.hdr.fn.val != f)

/-- Every completion still owed to a function is discarded as late (R377, R378). -/
def dropOwed (f : Nat) (s : State) : State :=
  let n := ((s.owed.filter (fun o => o.hdr.fn.val == f)).map (fun o => o.left + (if o.event then 1 else 0))).foldl (· + ·) 0
  (List.range n).foldl (fun s _ => lateDiscard s f) { s with owed := s.owed.filter (fun o => o.hdr.fn.val != f) }

/-- Step 4 of R378: objects, placement table and far pages go. -/
def dropObjects (f : Nat) (s : State) : State :=
  syncRecords { s with objs := s.objs.filter (fun e => e.2.fn != f), ptab := mzero s.ptab (f * pageSize) pageSize,
                       farPool := tdel s.farPool f }

/-- Zero the granules of an instance and return every resource to the pools (R369). -/
def returnShape (f : Nat) (s : State) : State :=
  let mine := s.granOwner.filter (fun e => e.2 == f)
  let s := mine.foldl (fun s e =>
    let a := frameAddr (e.1 / 64) (e.1 % 64 * 512)
    let kept := fun (k : Nat) => k * 64 < a || a + 512 * pageSize ≤ k * 64
    { s with near := mzero s.near a (512 * pageSize), poison := s.poison.filter kept,
             errs := s.errs.filter (fun x => (sectorOf x).all kept) }) s
  let s := { s with granOwner := s.granOwner.filter (fun e => e.2 != f) }
  let s := setPools (shapeTiles s 0 ||| shapeTiles s f) (shapeDecode s 0 ||| shapeDecode s f) (shapeQps s 0 + shapeQps s f)
    (shapePegs s 0 + shapePegs s f) s
  setShape f { inst := f, queuePairs := 0, tileGroups := 0, pegSlots := 0, granules := [], decode := 0 } s

/-- An instance that was reset has loaded no context and opened no channel: none shows in its windows (R365). -/
def dropWindows (f : Nat) (s : State) : State :=
  { s with ctxFn := s.ctxFn.filter (fun e => e.2 != f), chanFn := s.chanFn.filter (fun e => e.2 != f) }

/-- INSTANCE_RESET_DONE: steps 4 and 5 of R378; a destroyed instance is absent from then on (R369). -/
def instanceResetDone (f : Nat) (s : State) : State :=
  let st := instState s f
  if (st = 2 ∨ st = 5) ∧ s.faultSeq.phase ≠ .sequence ∧ fnQuiet s f then
    let s := dropWindows f (dropObjects f (dropOwed f s))
    let s := if st = 2 then setInst s f 1 else vfAgain (setInst (returnShape f s) f 0)
    instFinish f 0 s
  else s

def execInstanceResetDone (f : FnId) (s : State) : Out := commit s (instanceResetDone f.val s)

/-! ### Freezing (R382) -/

/-- INSTANCE_FREEZE: fetching stops, and the contexts run to their freeze points. -/
def instanceFreeze (h : CmdHdr) (i : Nat) (s : State) : State :=
  if i = 0 ∨ 32 ≤ i ∨ instState s i = 0 then finish h 1 0 0 s
  else if instState s i ≠ 1 then finish h 2 0 0 s
  else instWait h i ((ctxsOf s i).foldl (fun s c => ctxMod c (fun x => { x with freezing := true }) s) (setInst s i 3))

def execInstanceFreeze (h : CmdHdr) (inst : Nat) (s : State) : Out :=
  commit s (hostCmd (.instanceFreeze h inst) h .refused (instanceFreeze h inst) s)

/-- A context stands at its freeze point (R382). -/
def atFreeze (s : State) (c : Nat) (x : Ctx) : Bool :=
  x.tiles.all (fun e => ctxStateAt s c e.1 != 2 || haltsAt (owedSteps s c) x e.2) && !inVote s c x
    && (!x.pitch.flags.testBit 0 || (phaseOf s c != 3 && phaseOf s c != 4 && (match (trainGet s c).stream with
      | some st => st.broken || st.jobs.isEmpty
      | none => true)))

/-- Serving stands still: started batches have completed, no commit or copy is under way (R382). -/
def serveStill (v : Serve) : Bool := v.batches.all (fun b => v.nextStart ≤ b.seq) && v.turn.isNone && v.copies.isEmpty

/-- Everything of an instance stands at its freeze point (R382). -/
def freezeReady (s : State) (f : Nat) : Bool :=
  s.taken.all (fun i => !takenOf f i) && s.loads.all (fun r => r.hdr.fn.val != f) && (match s.loading with
      | some g => g.req.hdr.fn.val != f
      | none => true)
    && s.dmas.all (fun d => d.hdr.fn.val != f) && s.places.all (fun r => r.fn != f || r.copying.isEmpty)
    && (ctxsOf s f).all (fun c => (match ctxGet s c with | some x => atFreeze s c x | none => true)
      && (match serveGet s c with | some v => serveStill v | none => true))
    && s.chans.all (fun e => e.2.fn != f || !decoding s e.1)

/-- The rows and entries of an array that a record owns (R60). -/
def ownedRows (x : Arr) (r : ArrRec) : Tbl AccRow × Tbl (Nat × Nat) :=
  (x.rows.filter (fun e => r.accBase ≤ e.1 && e.1 < r.accBase + r.accCount),
   x.entries.filter (fun e => r.chBase ≤ e.1 && e.1 < r.chBase + r.chCount))

/-- The rows and entries that an instance's contexts own, by tile * 4 + array. -/
def spillRows (s : State) (f : Nat) : Tbl (Tbl AccRow × Tbl (Nat × Nat)) :=
  ((s.ctxs.filter (fun e => e.2.fn == f)).flatMap (fun e => e.2.pitch.arrays)).foldl (fun t r =>
    match siteOfTile s r.tile with
    | some site =>
      let (a, b) := ownedRows (arrGet s site r.arr) r
      let (a0, b0) := tgetD t (r.tile * 4 + r.arr) ([], [])
      tput t (r.tile * 4 + r.arr) (a0 ++ a, b0 ++ b)
    | none => t) []

/-- The bytes of a context's peg pool, by place in it. -/
def poolBytes (s : State) (v : Serve) : Tbl Byte :=
  (indexed v.frames).flatMap (fun e => match e.2 with
    | .near st n => (s.near.filter (fun b => frameAddr st n ≤ b.1 && b.1 < frameAddr st n + pageSize)).map (fun b =>
        (e.1 * pageSize + (b.1 - frameAddr st n), b.2))
    | .far _ => [])

/-- The blocks of a context and of a channel: first key and length. -/
def ctxBlocks (c : Nat) : List (Nat × Nat) := [(Reg.STEP_STATE c, 0x40), (Reg.SERVE_STATE c, 0x80), (Reg.DECK_STATE c, 0x40)]
def chanBlock (n : Nat) : Nat × Nat := (Reg.CHANNEL_STATE n, 0x20)

/-- The registers of some blocks. -/
def blockRegs (s : State) (bs : List (Nat × Nat)) : Tbl W64 :=
  s.regs.filter (fun e => bs.any (fun b => b.1 ≤ e.1 && e.1 < b.1 + b.2))

/-- What the spill object of an instance holds (R382). -/
def takeSpill (s : State) (f : Nat) : Spill :=
  let cs := ctxsOf s f
  let sv := s.serves.filter (fun e => cs.contains e.1)
  let ch := s.chans.filter (fun e => e.2.fn == f)
  { rows := spillRows s f, train := s.train.filter (fun e => cs.contains e.1), serves := sv,
    pools := sv.map (fun e => (e.1, poolBytes s e.2)), chans := ch, decks := s.decks.filter (fun e => e.2.fn == f),
    runs := s.runs.filter (fun r => r.fn == f),
    tiles := (s.ctxs.filter (fun e => e.2.fn == f)).map (fun e => (e.1, e.2.tiles.filterMap (fun x =>
      (tileOfSite s x.1).map (fun l => (l, x.2))))),
    records := (objsOf s f).filterMap (fun o => o.record.map (fun r => (o.handle, r))),
    regs := blockRegs s (cs.flatMap ctxBlocks ++ ch.map (fun e => chanBlock e.1)) }

/-- The size that the model gives a spill object: 4 KiB, 128 B a row, 8 B an entry, the pool's pages, and 4 KiB for each
channel, deck, batch and run. -/
def spillSize (p : Spill) : Nat :=
  let sum := fun (l : List Nat) => l.foldl (· + ·) 0
  4096 + sum (p.rows.map (fun e => 128 * e.2.1.length + 8 * e.2.2.length))
    + sum (p.serves.map (fun e => e.2.frames.length * pageSize + 4096 * e.2.batches.length))
    + 4096 * (p.chans.length + p.decks.length + p.runs.length)

/-- The lowest number that no spill object's content has. -/
def nextSpill (s : State) : Nat := (s.spills.map (fun e => e.1 + 1)).foldl max 1

/-- The stacks of which a function holds granules. -/
def fnStacks (s : State) (f : Nat) : Nat := ((List.range 8).filter (fun st => !(fnGranules s f st).isEmpty)).foldl (fun m st => m + 2 ^ st) 0

/-- INSTANCE_FROZEN: every context has reached its freeze point, and the spill object is written; it names its content in its
first 8 bytes. Where it does not fit, the instance resumes (R382). -/
def instanceFrozen (f : Nat) (s : State) : State :=
  if instState s f = 3 ∧ healthy s ∧ freezeReady s f then
    let p := takeSpill s f
    let n := nextSpill s
    let resume := fun (s : State) => instFinish f 7 ((ctxsOf s f).foldl (fun s c => ctxMod c (fun x => { x with freezing := false }) s)
      (setInst s f 1))
    match freeHandle s f with
    | none => resume s
    | some hd =>
      let o : Obj := { fn := f, handle := hd, id := 0, owner := 0xFE, oflags := 0, keySlot := 0, format := 8, size := spillSize p,
                       first := 0, pages := [], state := 1, doneSeq := 0, result := 0, users := [], freed := false, record := none }
      if fnStacks s f = 0 then resume s
      else match createObj s o 0 (fnStacks s f) with
        | none => resume s
        | some t =>
          let t := match objGet t f hd with
            | some o => objWrite o 0 (natLe 8 n) t
            | none => t
          let t := { t with spills := tput t.spills n p,
                            frozen := tput t.frozen f { spill := hd, gen := genOf t f, restored := none, qps := [] } }
          instFinish f 0 (setInst t f 4)
  else s

def execInstanceFrozen (f : FnId) (s : State) : Out := commit s (instanceFrozen f.val s)

end Sys2Proof.Machine
end

