-- ==== Sys2Proof/Machine/Startup.lean ====
section
/-! DEFINITION. What ends work on the part, what start-up and recovery bring in, failed starts and part reset (R466-R468,
R492-R497). -/

namespace Sys2Proof.Machine

/-! ### Losing work (R466, R467, R496) -/

/-- The code with which a command that was taken and has not run ends at a chip fault; a command without one ends ABORTED
(R467). -/
def ownCode : Instr → Option Nat
  | .loadPitch _ _ _ => some 0x17
  | .replace _ _ _ _ => some 0x17
  | .codecCode _ _ => some 9
  | .mediaFeed _ _ _ _ _ => some 7
  | .mediaRelease _ _ _ => some 7
  | .mediaClose _ _ _ => some 7
  | .place _ _ => some 7
  | .peg _ _ _ _ _ _ => some 0x0C
  | .renew _ _ _ _ => some 0x0C
  | .unpeg _ _ _ => some 0x0C
  | _ => none

/-- Instance resets and destructions wait for QUIESCED and are then performed (R469). -/
def outlasts : Instr → Bool
  | .instanceReset _ _ => true
  | .instanceDestroy _ _ => true
  | _ => false

/-- End one command that has not run. -/
def loseCommand (s : State) (i : Instr) : State :=
  match hdrOf i, ownCode i with
  | some h, some c => finish h c 0 0 s
  | some h, none => reject h 9 s
  | none, _ => s

/-- Commands taken and not yet run end. -/
def loseTaken (s : State) : State :=
  (s.taken.filter (fun i => !outlasts i)).foldl loseCommand { s with taken := s.taken.filter outlasts }

/-- Loads queued and under way end with CHIP_FAULT (R109). -/
def loseLoads (s : State) : State :=
  let hs := s.loads.map (·.hdr) ++ (match s.loading with | some g => [g.req.hdr] | none => [])
  hs.foldl (fun s h => finish h 0x17 0 0 s) { s with loads := [], loading := none }

/-- DMAs under way end with ABORTED. -/
def loseDmas (s : State) : State := s.dmas.foldl (fun s d => reject d.hdr 9 (leave d.req s)) { s with dmas := [] }

/-- Freezes under way end with ABORTED, and their instances are active again. -/
def loseFreezes (s : State) : State :=
  (upFrom 1 31).foldl (fun s i => if instState s i = 3 then
    (instWaiters s i).foldl (fun s h => reject h 9 s) (setInst { s with instCmd := tdel s.instCmd i } i 1) else s) s

/-- A context is lost: its LOST event is posted, its UNLOADs end ABORTED, its tiles are left; the objects that it owned stay
until recovery (R467). -/
def loseCtx (s : State) (c : Nat) : State :=
  match ctxGet s c with
  | none => s
  | some x =>
    let s := (match x.unload with | some (_, hs) => hs | none => []).foldl (fun s h => reject h 9 s) s
    let s := endEvent c 2 ((x.tiles.map (·.1)).foldl (leaveTile c) s)
    let s := { s with ctxs := tdel s.ctxs c, train := tdel s.train c,
                      mesh := s.mesh.filter (fun m => m.ctx != c) }
    setF s (Reg.STEP_STATE c) 31 28 (if x.pitch.flags.testBit 0 && x.started then 6 else 0)

/-- Everything that runs for contexts, and every command outstanding, ends (R467, R496). -/
def loseWork (s : State) : State :=
  let s := loseTaken s
  let s := (s.serves.map (·.1)).foldl (fun s c => serveLost c s) s
  let s := closeChans (fun _ _ => true) 7 7 s
  let s := (s.decks.map (·.1)).foldl (fun s c => closeDeck c s) s
  let s := dropRuns (fun _ => true) (dropPlaces (fun _ => true) 7 s)
  let s := loseFreezes (loseDmas (loseLoads s))
  syncMedia (syncRecords ((s.ctxs.map (·.1)).foldl loseCtx { s with endings := [] }))

/-! ### Stacks, engines and dies -/

/-- What training found at a stack. -/
def stackTest (t : SelfTest) (st : Nat) : StackTest :=
  ((t.stackTests.find? (fun e => e.1.val == st)).map (·.2)).getD .good

/-- MEM_STATUS follows the stacks (R178). -/
def syncMem (s : State) : State :=
  let on := (List.range 8).filter (stackOn s)
  let g := (on.map (fun st => fld s (Reg.STACK_STATUS st) 5 0)).foldl (· + ·) 0
  setF (setF s Reg.MEM_STATUS 23 16 ((on.map (2 ^ ·)).foldl (· + ·) 0)) Reg.MEM_STATUS 8 0 g

/-- A stack is in service, or not, with its codec unit and sweep engine (R179, R213). -/
def setStack (st : Nat) (on : Bool) (pc : Option Nat) (s : State) : State :=
  let k := Reg.STACK_STATUS st
  let s := setF s k 31 24 (match on, pc with
    | true, none => 128
    | true, some p => 192 + p
    | false, _ => 0)
  let s := setF s k 5 0 (if on then (if pc.isSome then 58 else 59) else 0)
  assignFar (syncMem (setB (setB s (Reg.CODEC_STATUS st) 31 on) (Reg.SWEEP_STATUS st) 31 on))

/-- A stack is trained at start-up, and its logged spare-row candidates are repaired (R176). -/
def trainStack (t : SelfTest) (s : State) (st : Nat) : State :=
  let s := softRepair st s
  match stackTest t st with
  | .good => setStack st true none s
  | .remapped pc => orR (setStack st true (some pc.val) s) Reg.MEM_CAUSE 0x200
  | .failed => setStack st false none s

/-- A decode engine is fit (R316). -/
def engineFit (t : SelfTest) (e : Nat) : Bool := !t.decodeFail.testBit e && !t.decodeFused.testBit e

/-- The number of fit decode engines. -/
def fitEngines (t : SelfTest) : Nat := ((List.range 52).filter (engineFit t)).length

/-- Write the decode map: logical engines 0-47 to the fit engines in ascending order (R316, R334, R335). -/
def writeEngines (t : SelfTest) (s : State) : State :=
  let fit := (List.range 52).filter (engineFit t)
  let put := fun (s : State) (e : Nat) =>
    let (role, l) := match fit.idxOf? e with
      | some k => if k < 48 then (1, k) else (2, 0)
      | none => (0, 0)
    let fused := t.decodeFused.testBit e
    let s := setR s (Reg.DECODE_FITNESS e) (role * 2 ^ 30 + l * 2 ^ 24 + (if t.decodeFail.testBit e || fused then 0 else 2 ^ 23)
      + (if fused then 2 ^ 22 else 0))
    setB s (Reg.ENGINE_STATUS e) 31 (role == 1)
  let s := satR ((List.range 52).foldl put s) Reg.DECODE_EPOCH 1
  syncMedia (setF (setB s Reg.MEDIA_STATUS 31 true) Reg.MEDIA_STATUS 21 16 fit.length)

/-- The first check that a start of some dies, stacks and perhaps the decode engines fails, with its DETAIL (R495). -/
def startCheck (t : SelfTest) (ds ss : List Nat) (dec : Bool) : Option (Nat × Nat) :=
  if t.fuseBad then some (9, 0)
  else match ds.find? (fun d => fitCount t d < 128) with
    | some d => some (1, d)
    | none =>
      if dec && fitEngines t < 48 then some (2, fitEngines t)
      else (ss.find? (fun st => stackTest t st == .failed)).map (fun st => (3, st))

/-! ### The nonvolatile store in the ranger's registers -/

/-- One bank's status (R439). -/
def bankStatus (s : State) (b : Bank) (n : Nat) : Nat :=
  b.state * 2 ^ 30 + (if s.store.prefer = n then 2 ^ 29 else 0) + (if b.state = 1 then b.svn * 2 ^ 16 + b.major * 2 ^ 8 + b.minor else 0)

/-- A bank. -/
def bankOf (s : State) (n : Nat) : Bank := if n = 0 then s.store.bankA else s.store.bankB

/-- The ranger's registers follow the store, the key slots and the sessions (R438, R439). -/
def syncRanger (s : State) : State :=
  let s := setR (setR s Reg.BANK_A_STATUS (bankStatus s s.store.bankA 0)) Reg.BANK_B_STATUS (bankStatus s s.store.bankB 1)
  let s := setB (setF s Reg.RANGER_STATUS 6 0 s.store.counter) Reg.RANGER_STATUS 27 s.store.anchors.isEmpty
  let s := setF s Reg.RANGER_STATUS 26 24 s.sessions.length
  let s := setR s Reg.PITCH_KEYS ((s.pitchKeys.map (fun e => 2 ^ e.1)).foldl (· + ·) 0)
  setR s Reg.FW_KEYS s.store.revoked

/-- A bank that boots (R412): valid, its key not revoked, its SVN not below the rollback counter. -/
def bankBoots (s : State) (n : Nat) : Bool :=
  let b := bankOf s n
  b.state == 1 && !s.store.revoked.testBit b.key && s.store.counter ≤ b.svn

/-- The mask ROM chooses a bank: the preferred one, else the other with FW_FALLBACK (R412). -/
def bootBank (s : State) : Option State :=
  let run := fun (n : Nat) (fb : Bool) =>
    let s := setB (setB (setB s Reg.RANGER_STATUS 31 true) Reg.RANGER_STATUS 30 (n == 1)) Reg.RANGER_STATUS 29 fb
    let s := setF s Reg.RANGER_STATUS 23 16 (bankOf s n).svn
    if fb then orR s Reg.MGMT_CAUSE 2 else s
  let p := s.store.prefer
  if bankBoots s p then some (run p false) else if bankBoots s (1 - p) then some (run (1 - p) true) else none

/-! ### Failed starts and base camp (R495-R497) -/

/-- A reason that means retirement (R495); a failed recovery's is that of the check that failed. -/
def retires (code detail : Nat) : Bool :=
  [1, 2, 3, 9].contains code || (code == 0x0A && [1, 2, 3, 9].contains detail)

/-- Record the code of a failed start (R502). -/
def recordFail (code detail : Nat) (s : State) : State :=
  setB (setF (setF s Reg.BASECAMP_REASON 23 16 code) Reg.BASECAMP_REASON 15 8 detail) Reg.BASECAMP_REASON 30 (retires code detail)

/-- Every port goes down with a reason (R391). -/
def portsDown (reason : Nat) (s : State) : State :=
  (List.range 8).foldl (fun s p => if portState s p = 0 then s else setPort p 0 reason (portDrop false p s)) s

/-- The part enters base camp (R497): what still ran ends, ports go down, QUIESCED clears. Its registers keep their values (R508);
the dies that have been tested stay powered: the model's choice (log entry 91). -/
def enterCamp (s : State) : State :=
  let s := portsDown 0 (loseWork s)
  let s := setB (setB (setB s Reg.POWER_STATE 23 true) Reg.POWER_STATE 25 false) Reg.POWER_STATE 24 false
  let s := setB (setF s Reg.FAULT_STATUS 31 30 0) Reg.BASECAMP_REASON 31 true
  { s with start := { s.start with running := false, toCamp := none, thermalWait := false },
           faultSeq := { phase := .none, since := s.timeBase } }

/-- Dies, stacks and engines are out of service until they are tested again (R496: the start runs again from step 5). -/
def unserve (s : State) : State :=
  let s := (List.range 8).foldl (fun s st => setStack st false none s) s
  setB { s with siteMap := [], diesOn := 0 } Reg.MEDIA_STATUS 31 false

/-- Every outstanding command ends with ABORTED (R496). -/
def abortAll (s : State) : State :=
  (s.owed.filter (fun o => o.left != 0)).foldl (fun s o => reject o.hdr 9 s) { s with taken := [] }

/-- A start fails (R496): in early service every outstanding command ends, and every resident context is lost. -/
def failedStart (code detail : Nat) (s : State) : State :=
  let s := if early s && !full s && !quiescedNow s then loseWork (abortAll s) else s
  let s := recordFail code detail (satR (orR s Reg.POWER_CAUSE 0x100) Reg.FAILED_STARTS 1)
  if code = 4 ∨ s.start.fromCamp ∨ 3 ≤ getR s Reg.FAILED_STARTS then enterCamp s
  else
    let s := setF (setB (setB s Reg.POWER_STATE 25 false) Reg.POWER_STATE 24 false) Reg.POWER_STATE 28 26 5
    powerDie 0 { unserve s with start := { s.start with running := true, began := s.timeBase } }

/-! ### Part reset (R492) -/

/-- The registers that a part reset keeps: RESET_CAUSE, FAILED_STARTS, the dip counts, CDC_TIMEOUTS, CDC_LAST, the dip log and
the tray block (R456, R492). -/
def keptReg (k : Nat) : Bool :=
  (0x800024 ≤ k && k < 0x80003C) || (0x800100 ≤ k && k < 0x800200) || (0x880000 ≤ k && k < 0x890000)

/-- A bank under write is no longer valid (R414). -/
def dropWrite (s : State) : State :=
  match s.fw with
  | none => s
  | some w =>
    let bad := fun (b : Bank) => { b with state := 2 }
    { s with fw := none, store := if w.bank = 0 then { s.store with bankA := bad s.store.bankA }
                                  else { s.store with bankB := bad s.store.bankB } }

/-- The part is held in part reset, with a bit of RESET_CAUSE (R492, R514). A supply reset during start-up steps 1-7 is a
failed start (R495). -/
def partReset (cause : Nat) (s : State) : State :=
  let fails := cause == 2 && s.start.running
  let s := if fails then satR s Reg.FAILED_STARTS 1 else s
  let camp := baseCamp s
  let s := dropWrite s
  let pw : Power := { State.reset.power with
    restAt := s.timeBase
    quietSince := s.timeBase
    nextTick := (s.timeBase / msAon + 1) * msAon
    allowance := s.power.allowance }
  let st : Startup := {
    inReset := true, running := false, t0 := s.timeBase, began := s.timeBase,
    fromCamp := camp || (s.start.inReset && s.start.fromCamp),
    toCamp := if fails && (s.start.fromCamp || decide (3 ≤ getR s Reg.FAILED_STARTS)) then some (8, 0)
      else if s.start.inReset then s.start.toCamp else none,
    thermalWait := false }
  let t : State := { State.reset with
    pending := s.pending
    freeCtr := s.freeCtr
    out := s.out
    timeBase := s.timeBase
    host := s.host
    hostDead := s.hostDead
    regs := s.regs.filter (fun e => keptReg e.1)
    pins := s.pins
    power := pw
    pitchKeys := s.pitchKeys
    spills := s.spills
    store := s.store
    tray := s.tray
    start := st }
  let t := orR t Reg.RESET_CAUSE (2 ^ cause)
  if fails then recordFail 8 0 (orR t Reg.POWER_CAUSE 0x100) else t

end Sys2Proof.Machine
end

