-- ==== Sys2Proof/Machine/Faults.lean ====
section
/-! DEFINITION. The chip-fault sequence after its detection, QUIESCED, and recovery (R466-R472). Detection is `chipFault` of
Ops.lean; from it on `healthy` is false, so nothing is issued, taken or written for a context. -/

namespace Sys2Proof.Machine

/-! ### QUIESCED (R466) -/

/-- Scrub and spare remap give up their tokens, with MAINT_ABORTED (R437). -/
def stopMaint (s : State) : State :=
  if bitR s Reg.MAINT_HOLDERS 0 || bitR s Reg.MAINT_HOLDERS 2 then
    let s := if bitR s Reg.MAINT_HOLDERS 2 then
        let st := fld s Reg.MAINT_HOLDERS 18 16
        let k := Reg.STACK_STATUS st
        setStack st true (if bitR s k 30 then some (fld s k 29 24) else none) s
      else s
    let s := setB (setF (setB (setB s Reg.MAINT_HOLDERS 0 false) Reg.MAINT_HOLDERS 2 false) Reg.MAINT_HOLDERS 18 16 0)
      Reg.SCRUB_CONTROL 31 false
    orR s Reg.MGMT_CAUSE 0x80
  else s

/-- Steps 5 and 6 of R466: FINAL on the streams, the completions of R467, LOST events, then QUIESCED. -/
def enterQuiesced (s : State) : State :=
  let s := (s.ctxs.map (·.1)).foldl (finalStream (getR s Reg.FAULT_CODE)) s
  let s := setB (stopMaint (loseWork s)) Reg.FAULT_STATUS 31 true
  { s with faultSeq := { phase := .quiesced, since := s.timeBase } }

/-- QUIESCED: 25,000 AON cycles after the fault (R466). -/
def quiescedEv (s : State) : State :=
  if s.faultSeq.phase = .sequence ∧ s.faultSeq.since + msAon ≤ s.timeBase then enterQuiesced s else s

def execQuiesced (s : State) : Out := commit s (quiescedEv s)

/-! ### Recovery (R468) -/

/-- Recovery begins. -/
def beginRecovery (s : State) : State :=
  let s := setB (setB s Reg.FAULT_STATUS 30 true) Reg.FAULT_CONTROL 31 false
  { setF s Reg.RECOVERY_REPORT 31 30 3 with faultSeq := { phase := .recovering, since := s.timeBase } }

/-- The view may write the fault registers of the physical function (R468, R472). -/
def isPf : View → Bool
  | .fn f => f == 0
  | .mgmt => true

/-- RECOVER: FAULT_CONTROL.RECOVER is written with 1; without QUIESCED, and during recovery, it has no effect (R468, R469). -/
def recoverWrite (v : View) (s : State) : State :=
  if isPf v && s.faultSeq.phase == .quiesced then beginRecovery s else s

def execRecover (v : View) (s : State) : Out := commit s (access (.recover v) (recoverWrite v) s)

/-- RECOVERY_HOLD_EXPIRY: HOLD_MS after QUIESCED was entered; 0xFFFF waits for RECOVER (R468). -/
def holdExpiry (s : State) : State :=
  let hold := fld s Reg.FAULT_CONTROL 15 0
  if s.faultSeq.phase = .quiesced ∧ hold ≠ 0xFFFF ∧ s.faultSeq.since + hold * msAon ≤ s.timeBase then beginRecovery s else s

def execRecoveryHoldExpiry (s : State) : Out := commit s (holdExpiry s)

/-- Step 1: objects that contexts owned go, with their placement entries; tile stores, accumulator files and rescale tables
are zeroed. -/
def recoverStores (s : State) : State :=
  let mine := (s.objs.map (·.2)).filter (fun o => o.owner < 64)
  let s := mine.foldl (fun s o =>
    let s := freeObj o.fn o.handle s
    { s with ptab := mzero s.ptab (o.fn * pageSize + o.handle * 64) 64 }) s
  let keep := fun (e : ErrPlace × Bool) => match e.1 with
    | .store _ _ => false
    | .acc _ _ _ => false
    | .entry _ _ _ => false
    | .weight _ _ => false
    | .figure _ _ _ => false
    | .table _ => false
    | _ => true
  { s with
    objs := s.objs.map (fun e => (e.1, { e.2 with users := [] }))
    tileStore := []
    errs := s.errs.filter keep
    sites := s.sites.map (fun e => (e.1, { e.2 with arrs := e.2.arrs.map (fun a => (a.1, { a.2 with
      latch := none
      rows := []
      entries := [] })) })) }

/-- A stack is remapped in recovery: every object with a page in it is freed, and granule 58 leaves the shape that held it
(R468 step 3). -/
def discardStack (st : Nat) (s : State) : State :=
  let inIt := fun (o : Obj) => o.pages.any (fun p => match p with | .near t _ => t == st | .far _ => false)
  let mine := (s.objs.map (·.2)).filter inIt
  let s := mine.foldl (fun s o => freeObj o.fn o.handle s) s
  let s := { s with objs := s.objs.filter (fun e => !inIt e.2) }
  match tget s.granOwner (st * 64 + 58) with
  | none => s
  | some i =>
    let k := if st < 4 then Reg.INST_GRANULES_LO i else Reg.INST_GRANULES_HI i
    let lo := 8 * (st % 4)
    setF { s with granOwner := tdel s.granOwner (st * 64 + 58) } k (lo + 7) lo (fld s k (lo + 7) lo - 1)

/-- Step 3 for one stack: its logged spare-row candidates are repaired, and a pseudo-channel that fails is remapped where none was;
the stacks remapped now are collected. -/
def recoverStack (t : SelfTest) (a : State × Nat) (st : Nat) : State × Nat :=
  let (s, m) := a
  let a := (softRepair st s, m)
  let s := a.1
  match stackTest t st with
  | .remapped pc =>
    if bitR s (Reg.STACK_STATUS st) 30 then a
    else (orR (setStack st true (some pc.val) (discardStack st s)) Reg.MEM_CAUSE 0x200, m + 2 ^ st)
  | _ => a

/-- A stack fails in recovery: it fails training, or another pseudo-channel than the remapped one fails (R176). -/
def stackFails (s : State) (t : SelfTest) (st : Nat) : Bool :=
  match stackTest t st with
  | .failed => true
  | .remapped pc => bitR s (Reg.STACK_STATUS st) 30 && fld s (Reg.STACK_STATUS st) 29 24 != pc.val
  | .good => false

/-- The spare decode engines that a new decode map brings into service (R472). -/
def enginesUsed (s t : State) : Nat :=
  ((List.range 52).filter (fun e => fld s (Reg.DECODE_FITNESS e) 31 30 == 2 && fld t (Reg.DECODE_FITNESS e) 31 30 == 1)).length

/-- The DRBG is instantiated anew where the source samples (R358, R468). -/
def renewDrbg (s : State) : State :=
  if bitR s Reg.RANDOM_STATUS 30 && !bitR s Reg.RANDOM_STATUS 29 && !bitR s Reg.MAINT_HOLDERS 5 then instantiate s else s

/-- Recovery fails at a check: a failed start with code 0x0A; the part stays QUIESCED (R468). -/
def recoveryFails (check : Nat) (s : State) : State :=
  let s := setF (setB s Reg.FAULT_STATUS 30 false) Reg.RECOVERY_REPORT 31 30 2
  failedStart 0x0A check { s with faultSeq := { phase := .restarting, since := s.timeBase } }

/-- Recovery returns the part to service: steps 4 and 5. -/
def recoveryEnds (stk tiles engs : Nat) (s : State) : State :=
  let s := setF (renewDrbg s) Reg.FAULT_STATUS 31 30 0
  let s := setR s Reg.RECOVERY_REPORT (2 ^ 30 + 2 ^ 29 + stk * 2 ^ 16 + min tiles 64 * 2 ^ 8 + min engs 4)
  { s with faultSeq := { phase := .none, since := s.timeBase } }

/-- RECOVERY_COMPLETE: recovery over the dies, stacks and engines that are in service (R468). -/
def recoveryComplete (t : SelfTest) (s : State) : State :=
  if s.faultSeq.phase ≠ .recovering then s
  else
    let ds := if full s then [0, 1, 2, 3] else [0]
    let ss := if full s then List.range 8 else [0, 1]
    let s := recoverStores s
    let u := writeDies t ds s
    match ds.find? (fun d => fitCount t d < 128) with
    | some _ => recoveryFails 1 u
    | none =>
      if full s && fitEngines t < 48 then recoveryFails 2 u
      else
        let w := if full s then writeEngines t u else u
        match ss.find? (stackFails w t) with
        | some _ => recoveryFails 3 w
        | none =>
          let (x, m) := ss.foldl (recoverStack t) (w, 0)
          recoveryEnds m (sparesUsed s w) (enginesUsed u w) x

def execRecoveryComplete (t : SelfTest) (s : State) : Out := commit s (recoveryComplete t s)

/-! ### Clearing the fault (R472) -/

/-- CHIP_FAULT_CLEAR: the physical function clears CHIP_FAULT with SECONDARY and RECOVERED; while QUIESCED or RECOVERING reads 1
the write is ignored with ACCESS_ERROR (R469, R472). The offset is that of FAULT_STATUS. -/
def chipFaultClear (v : View) (s : State) : State :=
  if !isPf v || s.start.inReset then s
  else if quiescedNow s || bitR s Reg.FAULT_STATUS 30 then
    match v with
    | .fn f => accessError f.val 3 (Reg.FAULT_STATUS % 2 ^ 26) s
    | .mgmt => s
  else
    setB (setB (setB s Reg.FAULT_STATUS 0 false) Reg.FAULT_STATUS 29 false) Reg.RECOVERY_REPORT 29 false

def execChipFaultClear (v : View) (s : State) : Out := commit s (access (.chipFaultClear v) (chipFaultClear v) s)

end Sys2Proof.Machine
end

