-- ==== Sys2Proof/Machine/Power.lean ====
section
/-! DEFINITION. Supplies, part reset, start-up, the power controller, dips, crossings and the power states (R473-R503,
R512-R515). -/

namespace Sys2Proof.Machine

/-- Change the power controller's state. -/
def pwrMod (f : Power → Power) (s : State) : State := { s with power := f s.power }
/-- Change the pins. -/
def pinMod (f : Pins → Pins) (s : State) : State := { s with pins := f s.pins }

/-! ### Supplies and reset pins -/

/-- What survives the loss of the always-on supply: the nonvolatile store with DIP_WEAR, and what lies outside the part. -/
def unpowered (s : State) : State :=
  let s := dropWrite s
  { State.reset with
    pending := s.pending
    freeCtr := s.freeCtr
    out := s.out
    host := s.host
    hostDead := s.hostDead
    regs := s.regs.filter (fun e => e.1 == Reg.DIP_WEAR)
    pitchKeys := s.pitchKeys
    spills := s.spills
    store := s.store }

/-- POWER_ON: the always-on supply comes up; SLOT_ID is sampled and the tray bus controller starts (R443, R492, R513). -/
def powerOn (slot : Nat) (s : State) : State :=
  let s := pinMod (fun p => { p with slotId := slot }) (unpowered s)
  let s := setB (setF s Reg.TRAY_STATUS 27 24 slot) Reg.TRAY_STATUS 31 true
  { s with tray := { s.tray with joined := some 0, presenceAt := 10 * msAon, budgetAt := 100 * msAon } }

def execPowerOn (slotId : Fin 16) (s : State) : Out := commit s (powerOn slotId.val s)

/-- POWER_OFF: the always-on rails go (R515). -/
def powerOff (s : State) : State :=
  pinMod (fun p => { p with aon := false, fabClk := false, pcieClk := false }) (unpowered s)

def execPowerOff (s : State) : Out := commit s (powerOff s)

/-- PERST_N falls (R514). In SLEEP the part wakes for it, with WAKE to the peers (R451, R498). -/
def perstFall (s : State) : State :=
  if s.pins.aon && s.pins.perstN then
    pinMod (fun p => { p with perstN := false }) (partReset 1 (sleepWake true s))
  else s

def execPerstNAssert (s : State) : Out := commit s (perstFall s)

/-- SUPPLY_OK falls: a supply reset (R514). -/
def supplyFall (s : State) : State :=
  if s.pins.aon && s.pins.supplyOk then pinMod (fun p => { p with supplyOk := false }) (partReset 2 s) else s

def execSupplyOkFall (s : State) : Out := commit s (supplyFall s)

/-- SUPPLY_RESET: the core supply below VRST for 1 us, or another rail below its reset level for 2 us (R489, R491, R511). The
core supply is not monitored in SLEEP. -/
def supplyReset (core : Bool) (s : State) : State :=
  if s.pins.aon && !(core && sleeping s) then partReset 2 s else s

def execSupplyReset (core : Bool) (s : State) : Out := commit s (supplyReset core s)

/-- THERMAL_TRIP: part reset; the start that follows waits for the dies to cool (R488, R519). -/
def thermalTrip (s : State) : State :=
  if s.pins.aon && !s.start.inReset then
    let t := partReset 3 s
    { t with start := { t.start with thermalWait := true } }
  else s

def execThermalTrip (s : State) : Out := commit s (thermalTrip s)

/-! ### Start-up (R493-R497) -/

/-- The source starts, passes its start-up test and the DRBG is instantiated, since the ranger needs it for the management network from its own start on
(R353, R354, R426). -/
def startEntropy (s : State) : State :=
  let (e, s) := samples (setB s Reg.RANDOM_STATUS 30 true)
  startSource e s

/-- PART_RESET_END: the later of the two rises; steps 1-4 follow: fuses, the PCIe link, a firmware bank. The straps of
PORT_MODE are sampled (R493, R514, R517). -/
def partResetEnd (mode : Nat) (s : State) : State :=
  if s.pins.aon && s.start.inReset then
    let s := { s with
      linkUp := true
      pins := { s.pins with supplyOk := true, perstN := true, fabClk := true, pcieClk := true, portMode := mode }
      start := { s.start with inReset := false, running := true, t0 := s.timeBase, began := s.timeBase }
      power := { s.power with nextTick := (s.timeBase / msAon + 1) * msAon } }
    let s := setF (startEntropy (syncRanger s)) Reg.POWER_STATE 28 26 5
    match s.start.toCamp with
    | some (c, d) => enterCamp (recordFail c d ((bootBank s).getD s))
    | none => match bootBank s with
      | some t => powerDie 0 (syncTray t)
      | none => failedStart 4 0 (setF s Reg.POWER_STATE 28 26 4)
  else s

def execPartResetEnd (portMode : Fin 256) (s : State) : Out := commit s (partResetEnd portMode.val s)

/-- Start-up is at a step. -/
def atStep (s : State) (n : Nat) : Bool := s.start.running && !s.start.inReset && fld s Reg.POWER_STATE 28 26 == n

/-- The tile frequency and its target, in units of 25 MHz, with the core set point (R476, R512). -/
def setTarget (f : Nat) (s : State) : State :=
  emit (setF (setF s Reg.CLOCK_STATUS 31 24 f) Reg.CLOCK_STATUS 23 16 f) (.avs (Config.setPoint f))

/-- Milliseconds since the part reset ended. -/
def startMs (s : State) : Nat := (s.timeBase - s.start.t0) / msAon

/-- The logical engines that no instance holds. -/
def freeEngines (s : State) : Nat :=
  ((List.range 48).filter (fun l => (upFrom 1 31).all (fun i => !(shapeDecode s i).testBit l))).foldl (fun m l => m + 2 ^ l) 0

/-- The decode engines in the pools. -/
def setPoolDecode (m : Nat) (s : State) : State :=
  setR (setR s Reg.POOL_DECODE_LO (m % 2 ^ 32)) Reg.POOL_DECODE_HI (m / 2 ^ 32)

/-- EARLY_SERVICE: the hub units, die T0 and stacks S0 and S1 are tested; the part enters early service, or the start fails
(R493 steps 5 and 6, R494, R495), with the tested die's entries written all the same (R21). -/
def earlyService (t : SelfTest) (s : State) : State :=
  if atStep s 5 && !s.start.thermalWait then
    match startCheck t [0] [0, 1] false with
    | some (c, d) => failedStart c d (if c = 9 then s else writeDies t [0] s)
    | none =>
      let s := [0, 1].foldl (trainStack t) (writeDies t [0] s)
      let s := setTarget 0x30 (setPoolDecode 0 s)
      let s := setR s Reg.EARLY_MS (startMs s)
      let s := orR (setF (setB s Reg.POWER_STATE 25 true) Reg.POWER_STATE 28 26 7) Reg.POWER_CAUSE 0x40
      let s := if s.faultSeq.phase = .restarting
        then { setB s Reg.FAULT_STATUS 31 false with faultSeq := { phase := .none, since := s.timeBase } } else s
      trainPorts ([1, 2, 3].foldl (fun s d => powerDie d s) s)
  else s

def execEarlyService (t : SelfTest) (s : State) : Out := commit s (earlyService t s)

/-- FULL_SERVICE: dies T1-T3, stacks S2-S7 and the decode engines are tested and mapped; the tiles slew to 2.0 GHz in steps of
100 MHz; the seal is applied (R493 step 7, R430, R475). -/
def fullService (t : SelfTest) (s : State) : State :=
  if atStep s 7 && early s && !full s then
    match startCheck t [1, 2, 3] (upFrom 2 6) true with
    | some (c, d) => failedStart c d (if c = 9 then s else writeDies t [1, 2, 3] s)
    | none =>
      let s := writeEngines t ((upFrom 2 6).foldl (trainStack t) (writeDies t [1, 2, 3] s))
      let s := [0x34, 0x38, 0x3C, 0x40, 0x44, 0x48, 0x4C, 0x50].foldl (fun s f => setTarget f s) (setPoolDecode (freeEngines s) s)
      let s := setR (setR s Reg.FULL_MS (startMs s)) Reg.FAILED_STARTS 0
      let s := orR (setF (setF s Reg.POWER_STATE 25 24 1) Reg.POWER_STATE 28 26 0) Reg.POWER_CAUSE 0x80
      let s := if s.store.sealAtStart then setB s Reg.RANGER_STATUS 28 true else s
      { s with start := { s.start with running := false, fromCamp := false } }
  else s

def execFullService (t : SelfTest) (s : State) : Out := commit s (fullService t s)

/-- START_TIMEOUT: full service was not reached within 30 s (R495). -/
def startTimeout (s : State) : State :=
  if s.start.running && !s.start.inReset && !s.start.thermalWait && s.start.began + 30000 * msAon ≤ s.timeBase
  then failedStart 5 0 s else s

def execStartTimeout (s : State) : Out := commit s (startTimeout s)

/-- THERMAL_WAIT_TIMEOUT: the dies did not cool within 60 s (R495). -/
def thermalWaitTimeout (s : State) : State :=
  if s.start.running && !s.start.inReset && s.start.thermalWait && s.start.began + 60000 * msAon ≤ s.timeBase
  then failedStart 6 0 s else s

def execThermalWaitTimeout (s : State) : Out := commit s (thermalWaitTimeout s)

/-! ### Dips (R489, R490) -/

/-- SUPPLY_DIP: a die's core supply falls below VWARN. -/
def supplyDip (s : State) : State :=
  if s.pins.aon && !s.start.inReset && !sleeping s then
    match s.power.dip with
    | some d => pwrMod (fun p => { p with dip := some { d with lastFall := s.timeBase, again := true } }) s
    | none =>
      let s := pwrMod (fun p => { p with dip := some { began := s.timeBase, lastFall := s.timeBase, again := false }, slew := none }) s
      orR (setF s Reg.CLOCK_STATUS 15 14 2) Reg.POWER_CAUSE 1
  else s

def execSupplyDip (die : Fin 5) (s : State) : Out := commit s ((fun (_ : Fin 5) => supplyDip s) die)

/-- CLOCKS_RESTORED: every die has stayed above VWARN for 5 ms; the event is counted and logged. Where the supply fell more
than once, the time that it stayed below VWARN is free. -/
def clocksRestored (die low : Nat) (s : State) : State :=
  match s.power.dip with
  | some d =>
    if d.lastFall + 5 * msAon ≤ s.timeBase then
      let k := Reg.DIP_LOG (getR s Reg.DIP_COUNT % 16)
      let (w, s) := if d.again then freshVal s 32 else (s.timeBase - 5 * msAon - d.began, s)
      let s := setR (setR (setR s k d.began) (k + 8) w) (k + 0xC) (die * 2 ^ 29 + low % 2 ^ 16)
      let s := satR (satR s Reg.DIP_COUNT 1) Reg.DIP_WEAR 1
      orR (setB (pwrMod (fun p => { p with dip := none }) s) Reg.CLOCK_STATUS 15 false) Reg.POWER_CAUSE 2
    else s
  | none => s

def execClocksRestored (die : Fin 5) (lowMv : Nat) (s : State) : Out := commit s (clocksRestored die.val lowMv s)

/-! ### The power controller (R486, R487) -/

/-- The floor of the tile frequency (R476). -/
def freqFloor (s : State) : Nat := if full s then 0x28 else 0x18

/-- What reads at or above its throttle temperature: dies, and stacks (R519). -/
def hotMask (temps : List Nat) (s : State) : Nat :=
  maskOf 5 (fun d => 95 ≤ nth temps d) + maskOf 8 (fun st => 95 ≤ fld s (Reg.STACK_STATUS st) 23 16) * 256

/-- The readings of one millisecond: temperatures, what is hot, the 1 ms mean and the 100 ms window. Milliseconds and windows lie on
the AON time base (R487). -/
def takeReadings (mean : Nat) (temps : List Nat) (s : State) : State :=
  let s := setR s Reg.DIE_TEMP ((List.range 4).foldl (fun m d => m + min 255 (nth temps d) * 2 ^ (8 * d)) 0)
  let s := setR s Reg.HUB_TEMP (min 255 (nth temps 4))
  let hot := hotMask temps s
  let ms := s.timeBase / msAon
  let s := if hot &&& s.power.hot = hot then s else orR s Reg.POWER_CAUSE 0x10
  pwrMod (fun p =>
    let done := ms % 100 == 0
    { p with
      nextTick := (ms + 1) * msAon
      hot := hot
      msMean := mean
      winSum := if done then 0 else p.winSum + mean
      winCount := if done then 0 else p.winCount + 1
      winMean := if done && p.winCount + 1 == 100 then (p.winSum + mean) / 100 else p.winMean }) s

/-- LIMITED follows the frequency and the set point; POWER_LIMITED at the first step below the target, and where a write of
the set point was not acknowledged (R486, R512). -/
def syncLimited (s : State) : State :=
  let low := fld s Reg.CLOCK_STATUS 31 24 < fld s Reg.CLOCK_STATUS 23 16 || s.power.avsLimited
  let s := if low && !bitR s Reg.CLOCK_STATUS 13 then orR s Reg.POWER_CAUSE 4 else s
  setB s Reg.CLOCK_STATUS 13 low

/-- A slew begins. -/
def beginSlew (up : Bool) (s : State) : State :=
  setB (pwrMod (fun p => { p with slew := some up }) s) Reg.CLOCK_STATUS 14 true

/-- POWER_CONTROLLER_TICK: every 1 ms the mean is compared with L, and a slew is chosen (R486). While the clocks are halved
there is no step. -/
def powerTick (mean : Nat) (temps : List Nat) (s : State) : State :=
  if s.pins.aon && !s.start.inReset && !sleeping s && s.power.nextTick ≤ s.timeBase then
    let s := takeReadings mean temps s
    let hot := s.power.hot != 0
    let s := if !hot && s.start.thermalWait then { s with start := { s.start with thermalWait := false, began := s.timeBase } } else s
    let l := limitOf s * 80
    let f := fld s Reg.CLOCK_STATUS 31 24
    if bitR s Reg.CLOCK_STATUS 15 || !inService s then s
    else if l < mean || hot then
      let s := pwrMod (fun p => { p with underMs := 0 }) s
      if freqFloor s < f then beginSlew false (pwrMod (fun p => { p with overMs := 0 }) s)
      else pwrMod (fun p => { p with overMs := p.overMs + 1 }) s
    else
      let n := if mean + 400 < l then min 10 (s.power.underMs + 1) else 0
      let s := pwrMod (fun p => { p with overMs := 0, underMs := n }) s
      if n = 10 ∧ f < fld s Reg.CLOCK_STATUS 23 16 then beginSlew true s else s
  else s

def execPowerControllerTick (mean : Nat) (temps : List Nat) (s : State) : Out := commit s (powerTick mean temps s)

/-- POWER_OVER: 100 consecutive milliseconds over the limit at the floor (R486). -/
def powerOver (s : State) : State :=
  if 100 ≤ s.power.overMs then orR (pwrMod (fun p => { p with overMs := 0 }) s) Reg.POWER_CAUSE 8 else s

def execPowerOver (s : State) : Out := commit s (powerOver s)

/-- SLEW_STEP: one step of 100 MHz; the set point is raised before a step up and lowered after a step down (R475, R476,
R512). -/
def slewStep (acked : Bool) (s : State) : State :=
  match s.power.slew with
  | none => s
  | some up =>
    let f := fld s Reg.CLOCK_STATUS 31 24
    let g := if up then min (f + 4) (fld s Reg.CLOCK_STATUS 23 16) else max (f - 4) (freqFloor s)
    let s := emit s (.avs (Config.setPoint g))
    let s := pwrMod (fun p => { p with slew := none, avsLimited := !acked }) s
    syncLimited (setB (setF s Reg.CLOCK_STATUS 31 24 (if up && !acked then f else g)) Reg.CLOCK_STATUS 14 false)

def execSlewStep (acked : Bool) (s : State) : Out := commit s (slewStep acked s)

/-! ### Crossings and reference clocks (R477-R480, R498) -/

/-- The crossings of R480; none for another number, else whether it may be data path. -/
def crossingKind (n : Nat) : Option Bool :=
  if n < 4 ∨ (0x10 ≤ n ∧ n < 0x14) ∨ (0x20 ≤ n ∧ n < 0x28) ∨ n = 0x30 ∨ (0x40 ≤ n ∧ n < 0x48) ∨ (0x50 ≤ n ∧ n < 0x84) then some true
  else if n = 0x90 ∨ n = 0xA0 ∨ n = 0xB0 ∨ (0xC0 ≤ n ∧ n < 0xC4) then some false
  else none

/-- What the requester of a transfer that failed is given: a register read Completer Abort, a write nothing, and the requester of
memory what a failed far-store read gives it (R159, R479). -/
def cdcRequester (t : CdcTransfer) (s : State) : State :=
  match t with
  | .registerRead => emit s .completerAbort
  | .bar2Read n => emit s (.readData (List.replicate n 0xFF#8))
  | .dma f q cid => failDma f.val q cid s
  | _ => s

/-- CDC_TIMEOUT: a pending transfer saw no far clock for 64 AON cycles (R479). -/
def cdcTimeout (n : Nat) (t : CdcTransfer) (s : State) : State :=
  match crossingKind n with
  | none => s
  | some path =>
    if s.start.inReset || !s.pins.aon then s
    else
      let c := t == .context && path
      let s := satR (setR s Reg.CDC_LAST ((if c then 2 ^ 31 else 0) + n)) Reg.CDC_TIMEOUTS 1
      let s := orR s Reg.POWER_CAUSE 0x20
      if c then chipFault 0x11 n s else cdcRequester t s

def execCdcTimeout (crossing : Nat) (transfer : CdcTransfer) (s : State) : Out := commit s (cdcTimeout crossing transfer s)

/-- FAB_REFCLK_LOSS: every port goes down with DOWN_REASON 1 (R498). -/
def execFabRefclkLoss (s : State) : Out :=
  commit s (onlyIf (s.pins.aon && s.pins.fabClk) (fun s => portsDown 1 (pinMod (fun p => { p with fabClk := false }) s)) s)

/-- PCIE_REFCLK_LOSS: the host link goes down (R498). -/
def execPcieRefclkLoss (s : State) : Out :=
  commit s (onlyIf (s.pins.aon && s.pins.pcieClk) (fun s => { pinMod (fun p => { p with pcieClk := false }) s with linkUp := false }) s)

/-! ### DOZE (R482) -/

/-- The part enters a power state. -/
def setRest (r : Rest) (s : State) : State := pwrMod (fun p => { p with rest := r, restAt := s.timeBase }) s

/-- PART_DOZE_ENTRY: the conditions have held for 1 us, and DOZE_EN is set. -/
def partDozeEntry (s : State) : State :=
  if s.power.rest = .awake ∧ inService s ∧ healthy s ∧ bitR s Reg.POWER_CONTROL 30 ∧ dozeCond s ∧ s.power.quietSince + usAon ≤ s.timeBase
  then setRest .doze s else s

def execPartDozeEntry (s : State) : Out := commit s (partDozeEntry s)

/-- DOZE_WAKE. -/
def execDozeWake (s : State) : Out := commit s (leaveDoze s)

/-! ### NAP (R483) -/

/-- STATE of POWER_STATE (R500). -/
def setPowerState (v : Nat) (s : State) : State := setF s Reg.POWER_STATE 31 29 v

/-- NAP: a write of POWER_CONTROL.NAP. -/
def napWrite (v : View) (on : Bool) (s : State) : State :=
  if isPf v && !s.start.inReset then
    let s := setB s Reg.POWER_CONTROL 31 on
    if s.power.rest = .awake then setPowerState (if on then 1 else 0) s else s
  else s

def execNapWrite (v : View) (on : Bool) (s : State) : Out := commit s (access (.napWrite v on) (napWrite v on) s)

/-- A context stands still on a tile: parked, READY, DONE, not started, or held in a WAIT, with no figure in flight. -/
def standsStill (s : State) (c : Nat) (e : Nat × TileCtx) : Bool :=
  let st := siteGet s e.1
  st.flights.all (fun f => f.ctx != c) && (ctxStateAt s c e.1 != 2 || (st.hold.map (·.kind) == some 4))

/-- A logical tile lies in a resident reserved set (R106, R483). -/
def tileKept (s : State) (l : Nat) : Bool := s.ctxs.any (fun e => reservedTile e.2 l)

/-- In NAP the tiles outside every resident reserved set are GATED (R26, R483). -/
def napGate (s : State) : State :=
  s.siteMap.foldl (fun s e => if tileKept s e.1 then s else setTileState s e.2 2) s

/-- NAP_ENTRY. -/
def napEntry (s : State) : State :=
  if s.power.rest = .awake ∧ bitR s Reg.POWER_CONTROL 31 ∧ healthy s ∧ idleCond s
      ∧ s.ctxs.all (fun e => reservedOnly e.2.pitch || e.2.tiles.all (standsStill s e.1))
  then napGate (setPowerState 2 (setRest .nap s)) else s

def execNapEntry (s : State) : Out := commit s (napEntry s)

/-- A gated tile holds a timed wake within 50 us. -/
def wakeDue (s : State) : Bool :=
  let lim := s.cycle + 1250 * tileRate s
  s.ctxs.any (fun e => e.2.tiles.any (fun t => tileState s t.1 == 2 &&
    ((match t.2.sleep with | some w => decide (w ≤ lim) | none => false)
      || (match t.2.park with | some (.time w) => decide (w ≤ lim) | _ => false))))

/-- The latched blocks of a gated tile are reloaded from their recorded sources (R136, R483). -/
def reloadSite (s : State) (e : Nat × Site) : State :=
  match tileOfSite s e.1 with
  | none => s
  | some l => e.2.arrs.foldl (fun s a => match a.2.latch with
      | some b => match ctxGet s b.ctx, (tcGet s b.ctx e.1).bind (fun t => tget t.loads a.1) with
        | some x, some r => if (x.pitch.tileMap.getD l 0#8).toNat.testBit 2 then s else restoreBlock e.1 b.ctx l s (a.1, r)
        | _, _ => s
      | none => s) s

/-- NAP_EXIT: NAP is cleared, and the latched blocks are reloaded; WOKE ends the wake. -/
def napExit (s : State) : State :=
  if s.power.rest = .nap ∧ (!bitR s Reg.POWER_CONTROL 31 || wakeDue s) then
    let s := setPowerState 0 (setB (setRest .leavingNap s) Reg.POWER_CONTROL 31 false)
    s.sites.foldl reloadSite s
  else s

def execNapExit (s : State) : Out := commit s (napExit s)

/-! ### SLEEP (R485) -/

/-- Registers of the always-on domain: power, tray and ranger (R473, R485). -/
def aonReg (k : Nat) : Bool := (0x800000 ≤ k && k < 0x900000) || Reg.rangerBase ≤ k

/-- Pages in copy commit. -/
def commitCopies (s : State) : State :=
  (s.places.flatMap (fun r => r.copying.map (fun m => (r.fn, r.handle, m.1)))).foldl (fun s m => migrationCommit m.1 m.2.1 m.2.2 s) s

/-- The part enters SLEEP: pages in copy commit, registers are saved, the near store refreshes itself, ports go down. -/
def enterSleep (s : State) : State :=
  let s := setPowerState 3 (portsDown 0 (commitCopies s))
  let s := (List.range 8).foldl (fun s st => if stackOn s st then setB s (Reg.STACK_STATUS st) 13 true else s) s
  pwrMod (fun p => { p with saved := some (s.regs.filter (fun e => !aonReg e.1)) }) (setRest .sleep s)

/-- SLEEP is left: the stacks leave self-refresh, the saved registers return, LAST_RESULT is recorded, ports train. -/
def leaveSleep (s : State) : State :=
  let s := { s with regs := (s.power.saved.getD []).foldl (fun t e => tput t e.1 e.2) (s.regs.filter (fun e => aonReg e.1)) }
  let s := pwrMod (fun p => { p with saved := none }) (setRest .awake s)
  let s := (List.range 8).foldl (fun s st => setB s (Reg.STACK_STATUS st) 13 false) s
  trainPorts (setPowerState 0 (setRoundState 0 (setLastResult 1 s)))

/-- WOKE: the wake from SLEEP or NAP completes. After SLEEP, tile stores, accumulator files and rescale tables are empty and
the DRBG is instantiated anew; after an entry that was undone nothing is lost, and the part never was in SLEEP. -/
def woke (s : State) : State :=
  match s.power.rest with
  | .leavingNap => orR (ungate (setRest .awake s)) Reg.POWER_CAUSE 0x200
  | .waking true => leaveSleep s
  | .waking false =>
    let keep := fun (e : ErrPlace × Bool) => match e.1 with
      | .store _ _ => false
      | .acc _ _ _ => false
      | .entry _ _ _ => false
      | .weight _ _ => false
      | .table _ => false
      | _ => true
    let s := { s with
      tileStore := []
      sites := []
      errs := s.errs.filter keep }
    orR (renewDrbg (leaveSleep s)) Reg.POWER_CAUSE 0x200
  | _ => s

/-- POWER_STATE_READ: what the read answers once the part is ACTIVE (R500). -/
def powerStateRead (v : View) (s : State) : State :=
  if !s.pins.aon || s.start.inReset || (v != .mgmt && !s.linkUp) then s
  else emit s (.readData (natLe 4 (if isPf v then getR s Reg.POWER_STATE else 0)))

end Sys2Proof.Machine
end

