-- ==== Sys2Proof/Machine/Tray.lean ====
section
/-! DEFINITION. The tray bus: frames, rounds, members, the budget, and a node alone (R442-R459). A frame row with the node's own
slot is the end of its own transmission: the frame stands in its queue. -/

namespace Sys2Proof.Machine

/-- The controller receives (R445, R453): it is on the bus. -/
def onBus (s : State) : Bool := s.pins.aon && bitR s Reg.TRAY_STATUS 31 && !bitR s Reg.TRAY_STATUS 28

/-! ### Error counts and ALONE -/

/-- TEC, REC and UNACKED (R458). -/
def tec (s : State) : Nat := fld s Reg.TRAY_ERRORS 7 0
def rec_ (s : State) : Nat := fld s Reg.TRAY_ERRORS 15 8
def unacked (s : State) : Nat := fld s Reg.TRAY_ERRORS 31 24

/-- ERROR_PASSIVE follows the counts (R442). -/
def syncPassive (s : State) : State :=
  let p := 128 ≤ tec s || 128 ≤ rec_ s
  let s := if p && !bitR s Reg.TRAY_STATUS 29 then orR s Reg.TRAY_CAUSE 2 else s
  setB s Reg.TRAY_STATUS 29 p

/-- ALONE clears (R455). -/
def notAlone (s : State) : State := if bitR s Reg.TRAY_STATUS 30 then syncTray (setB s Reg.TRAY_STATUS 30 false) else s

/-- A frame came from another slot: it is counted, and the slot was seen. REC falls by one, from above 127 to a free value of
119-127 (ISO 11898-1). -/
def heard (slot : Nat) (s : State) : State :=
  let (r, s) := if rec_ s < 128 then (rec_ s - 1, s) else (fun (v : Nat × State) => (119 + v.1 % 9, v.2)) (freshVal s 32)
  let s := syncPassive (setF (satR s Reg.FRAMES_RX 1) Reg.TRAY_ERRORS 15 8 r)
  let s := trayMod (fun t => { t with others := tput t.others slot (match tget t.others slot with
    | some m => { m with seen := s.timeBase }
    | none => { seen := s.timeBase, present := false, budget := none }) }) s
  notAlone s

/-- The number of a round was seen (R446). -/
def sawRound (n : Nat) (s : State) : State := trayMod (fun t => { t with lastRound := n }) s

/-- A frame of this node stands in its queue and may be sent. -/
def queued (ty : Nat) (data : Bytes) (s : State) : Bool := mayTransmit s && onBus s && s.tray.txq.contains (ty, data)

/-- A frame of this node was sent and acknowledged. -/
def sent (ty : Nat) (data : Bytes) (s : State) : State :=
  let s := trayMod (fun t => { t with txq := t.txq.erase (ty, data) }) s
  let s := setF (setF s Reg.TRAY_ERRORS 31 24 0) Reg.TRAY_ERRORS 7 0 (tec s - 1)
  emit (notAlone (syncPassive (satR s Reg.FRAMES_TX 1))) (.tray ty data)

/-! ### Rounds (R446-R452) -/

/-- Change the open round. -/
def roundMod (f : Round → Round) (s : State) : State := trayMod (fun t => { t with round := t.round.map f }) s

/-- Open a round. -/
def openRound (r : Round) (st : Nat) (s : State) : State :=
  setRoundState st (setF (sawRound r.num (trayMod (fun t => { t with round := some r }) s)) Reg.TRAY_STATUS 15 8 r.num)

/-- A COMMIT waits to be sent. -/
def commitQueued (s : State) : Bool := s.tray.txq.any (fun e => e.1 == 2)

/-- The proposer holds a yes from every member of its mask: COMMIT RESULT 0 is queued (R449). -/
def tryCommit (s : State) : State :=
  match s.tray.round with
  | some r => if r.mine && r.window.isNone && !commitQueued s && !r.no && r.mask &&& r.yes == r.mask
    then queueFrame 2 [r.num, 0] s else s
  | none => s

/-- What the node does when a frame of its own has been sent. -/
def ownFrame (ty : Nat) (data : Bytes) (s : State) : State :=
  let n := fieldAt data 0 1
  let s := sent ty data s
  if ty = 4 then
    tryCommit (openRound { num := n, mine := true, mask := fieldAt data 2 2, began := s.timeBase, vote := some true, no := false,
                           yes := 2 ^ mySlot s, window := none } 1 s)
  else if ty = 2 then
    match s.tray.round with
    | some r =>
      if r.num ≠ n then s
      else if fieldAt data 1 1 = 0 then setRoundState 3 (roundMod (fun r => { r with window := some s.timeBase }) s)
      else endRound (if r.no then 2 else 3) s
    | none => s
  else if ty = 1 then endRound 4 (if n = 1 then setB s Reg.TRAY_CONTROL 30 false else s)
  else s

/-- A frame ends on the bus: sent by this node, or received from another. -/
def frameIn (slot ty : Nat) (data : List Nat) (other : State → State) (s : State) : State :=
  let b := slice (data.map (BitVec.ofNat 8)) 0 8
  if !onBus s then s
  else if slot = mySlot s then (if queued ty b s then ownFrame ty b s else s)
  else other (heard slot s)

/-- A PROPOSE of another node (R446-R448). -/
def proposeIn (round members : Nat) (s : State) : State :=
  if s.tray.round.isSome then satR s Reg.FRAMES_IGNORED 1
  else if baseCamp s then s
  else
    let s := if s.tray.txq.any (fun e => e.1 == 4)
      then setLastResult 5 (endRequest (trayMod (fun t => { t with txq := t.txq.filter (fun e => e.1 != 4) }) s)) else s
    let r := voteReason members s
    let s := openRound { num := round, mine := false, mask := members, began := s.timeBase, vote := some (r == 0), no := r != 0,
                         yes := 0, window := none } 2 s
    queueFrame 3 [round, if r = 0 then 0 else 1, r] s

/-- PROPOSE_FRAME. -/
def execProposeFrame (slot : Fin 16) (round members : Nat) (s : State) : Out :=
  commit s (frameIn slot.val 4 ([round, 0] ++ two members) (proposeIn (round % 256) (members % 65536)) s)

/-- A VOTE of another node (R449). -/
def voteIn (slot round vote : Nat) (s : State) : State :=
  match s.tray.round with
  | some r =>
    if r.num ≠ round then s
    else if vote = 0 then tryCommit (roundMod (fun r => { r with yes := r.yes ||| 2 ^ slot }) s)
    else
      let s := roundMod (fun r => { r with no := true }) s
      if r.mine && r.window.isNone && !commitQueued s then queueFrame 2 [r.num, 1] s else s
  | none => s

/-- VOTE_FRAME. -/
def execVoteFrame (slot : Fin 16) (round vote reason : Nat) (s : State) : Out :=
  commit s (frameIn slot.val 3 [round, vote, reason] (fun s => voteIn slot.val (round % 256) (vote % 256) (sawRound (round % 256) s)) s)

/-- VOTE_DEADLINE: 100 ms after its PROPOSE with votes missing, the proposer commits RESULT 1 (R449). -/
def voteDeadline (s : State) : State :=
  match s.tray.round with
  | some r => if r.mine && r.window.isNone && !commitQueued s && r.began + 100 * msAon ≤ s.timeBase then queueFrame 2 [r.num, 1] s else s
  | none => s

def execVoteDeadline (s : State) : Out := commit s (voteDeadline s)

/-- A COMMIT of another node (R449, R450, R452). -/
def commitIn (round result : Nat) (s : State) : State :=
  match s.tray.round with
  | some r =>
    if r.num ≠ round || r.window.isSome then s
    else if result = 0 then setRoundState 3 (roundMod (fun r => { r with window := some s.timeBase }) s)
    else endRound (if r.no then 2 else 3) s
  | none => s

/-- COMMIT_FRAME. -/
def execCommitFrame (slot : Fin 16) (round result : Nat) (s : State) : Out :=
  commit s (frameIn slot.val 2 [round, result] (fun s => commitIn (round % 256) (result % 256) (sawRound (round % 256) s)) s)

/-- COMMIT_TIMEOUT: a member has no COMMIT 200 ms after the PROPOSE (R449). -/
def commitTimeout (s : State) : State :=
  match s.tray.round with
  | some r => if !r.mine && r.window.isNone && r.began + 200 * msAon ≤ s.timeBase then endRound 3 s else s
  | none => s

def execCommitTimeout (s : State) : Out := commit s (commitTimeout s)

/-- LAST_CALL_END: the 20 ms window ends with no WAKE; the node enters SLEEP and records 0b001 once it wakes (R450). A WAKE of
its own that waits to be sent holds the end back. A node that is in part reset, starting or in base camp only ends the round (log entry 77). -/
def lastCallEnd (s : State) : State :=
  match s.tray.round.bind (·.window) with
  | some w =>
    if w + 20 * msAon ≤ s.timeBase ∧ ¬ s.tray.txq.any (fun e => e.1 == 1) then
      let was := fld s Reg.TRAY_STATUS 20 18
      let s := setLastResult was (endRound 1 s)
      if sleeping s || !full s || s.start.inReset then setLastResult 1 s else setRoundState 4 (enterSleep (leaveDoze s))
    else s
  | none => s

def execLastCallEnd (s : State) : Out := commit s (lastCallEnd s)

/-- A WAKE of another node: the round is aborted, NAP ends, DOZE and SLEEP are left (R450-R453, R482, R483). -/
def wakeIn (s : State) : State := sleepWake false (leaveDoze (endNap (endRound 4 (orR s Reg.TRAY_CAUSE 0x20))))

/-! ### Requests of host software -/

/-- The tray registers are reached: the part is out of part reset. -/
def trayReg (f : State → State) (s : State) : State := if s.pins.aon && !s.start.inReset then f s else s

/-- PROPOSE (R447, R456). A request while a round is open ends withdrawn; one off the bus is refused. -/
def proposeReq (s : State) : State :=
  let m := memberMask s
  let n := (s.tray.lastRound + 1) % 256
  if bitR s Reg.TRAY_CONTROL 31 then s
  else if s.tray.round.isSome then setLastResult 5 s
  else if baseCamp s || !mayTransmit s || voteReason m s != 0 then setLastResult 2 s
  else
    let s := setB s Reg.TRAY_CONTROL 31 true
    if bitR s Reg.TRAY_STATUS 30 then
      openRound { num := n, mine := true, mask := m, began := s.timeBase, vote := some true, no := false, yes := m,
                  window := some s.timeBase } 3 s
    else setRoundState 1 (queueFrame 4 ([n, 0] ++ two m) s)

def execPropose (s : State) : Out := commit s (access .propose (trayReg proposeReq) s)

/-- WAKE (R451). -/
def wakeReq (s : State) : State :=
  if bitR s Reg.TRAY_CONTROL 30 then s else queueWake 1 (setB s Reg.TRAY_CONTROL 30 true)

def execWake (s : State) : Out := commit s (access .wake (trayReg wakeReq) s)

/-- SLEEP_READY; cleared after a yes it withdraws it (R451). -/
def sleepReady (on : Bool) (s : State) : State :=
  let was := bitR s Reg.TRAY_CONTROL 29
  let s := setB s Reg.TRAY_CONTROL 29 on
  if was && !on then withdraw s else s

def execSleepReady (on : Bool) (s : State) : Out := commit s (access (.sleepReady on) (trayReg (sleepReady on)) s)

/-- A write of ENABLE: the controller joins or leaves the bus (R456). -/
def trayEnable (on : Bool) (s : State) : State :=
  if on && !bitR s Reg.TRAY_STATUS 31 then
    syncTray (setB (trayMod (fun t => { t with joined := some s.timeBase, presenceAt := s.timeBase + 10 * msAon,
                                               budgetAt := s.timeBase + 100 * msAon }) s) Reg.TRAY_STATUS 31 true)
  else if !on && bitR s Reg.TRAY_STATUS 31 then
    let s := endRequest (endRound 3 s)
    syncTray (setB (trayMod (fun t => { t with joined := none, txq := [] }) s) Reg.TRAY_STATUS 31 false)
  else syncTray s

/-! ### Members and the budget (R444, R445, R454) -/

/-- BUDGET_FRAME. -/
def execBudgetFrame (slot : Fin 16) (cap request draw : Nat) (s : State) : Out :=
  commit s (frameIn slot.val 0x10 (two cap ++ two request ++ two draw) (fun s =>
    syncTray (trayMod (fun t => { t with others := t.others.map (fun e =>
      if e.1 = slot.val then (e.1, { e.2 with budget := some (cap % 65536, request % 65536) }) else e) }) s)) s)

/-- BUDGET_TIMER: every 100 ms (R444). -/
def budgetTimer (s : State) : State :=
  if onBus s && s.tray.budgetAt ≤ s.timeBase then
    queueFrame 0x10 (two (myCap s) ++ two (myRequest s) ++ two (s.power.winMean / 80))
      (trayMod (fun t => { t with budgetAt := t.budgetAt + 100 * msAon }) s)
  else s

def execBudgetTimer (s : State) : Out := commit s (budgetTimer s)

/-- The low 56 bits of the fused serial number. -/
def mySerial : Nat := Config.serial % 2 ^ 56

/-- The payload of a PRESENCE. -/
def presenceData (camp : Bool) (serial : Nat) : List Nat := (if camp then 1 else 0) :: (natLe 7 serial).map (·.toNat)

/-- PRESENCE_FRAME: one with this node's slot and another serial number is a slot conflict (R445). -/
def presenceIn (slot : Nat) (camp : Bool) (serial : Nat) (s : State) : State :=
  if onBus s && slot == mySlot s && serial % 2 ^ 56 != mySerial then
    orR (trayMod (fun t => { t with mute := true, txq := [] }) (satR s Reg.FRAMES_RX 1)) Reg.TRAY_CAUSE 8
  else frameIn slot 0x20 (presenceData camp serial) (fun s =>
    syncTray (trayMod (fun t => { t with others := t.others.map (fun e =>
      if e.1 = slot then (e.1, { e.2 with present := !camp }) else e) }) s)) s

def execPresenceFrame (slot : Fin 16) (camp : Bool) (serial : Nat) (s : State) : Out :=
  commit s (presenceIn slot.val camp serial s)

/-- PRESENCE_TIMER: every 1 s (R444). -/
def presenceTimer (s : State) : State :=
  if onBus s && s.tray.presenceAt ≤ s.timeBase then
    queueFrame 0x20 (presenceData (baseCamp s) mySerial) (trayMod (fun t => { t with presenceAt := t.presenceAt + 1000 * msAon }) s)
  else s

def execPresenceTimer (s : State) : Out := commit s (presenceTimer s)

/-- MEMBER_EXPIRY: a member has been silent for 3 s; the allowance follows (R445, R454). -/
def memberExpiry (slot : Nat) (s : State) : State :=
  if s.tray.others.any (fun e => e.1 == slot && e.2.present && decide (e.2.seen + 3000 * msAon ≤ s.timeBase)) then syncTray s else s

def execMemberExpiry (slot : Fin 16) (s : State) : Out := commit s (memberExpiry slot.val s)

/-! ### A node alone, and errors (R442, R455) -/

/-- ALONE: the 16th consecutive unacknowledged attempt. -/
def aloneEv (s : State) : State :=
  if onBus s && 16 ≤ unacked s && !bitR s Reg.TRAY_STATUS 30 then
    syncTray (orR (setB (trayMod (fun t => { t with retryAt := s.timeBase + 1000 * msAon }) s) Reg.TRAY_STATUS 30 true) Reg.TRAY_CAUSE 1)
  else s

def execAlone (s : State) : Out := commit s (aloneEv s)

/-- ALONE_RETRY: the frame at the head of the queue is tried once per second. -/
def aloneRetry (acked : Bool) (s : State) : State :=
  match s.tray.txq with
  | e :: _ =>
    if onBus s && bitR s Reg.TRAY_STATUS 30 && s.tray.retryAt ≤ s.timeBase then
      if acked then ownFrame e.1 e.2 s
      else setF (trayMod (fun t => { t with retryAt := s.timeBase + 1000 * msAon }) s) Reg.TRAY_ERRORS 31 24 (min 255 (unacked s + 1))
    else s
  | [] => s

def execAloneRetry (acked : Bool) (s : State) : Out := commit s (aloneRetry acked s)

/-- BUS_ERROR: an error raises TEC or REC; a failed attempt to send is unacknowledged. At 256 the controller is bus-off. -/
def busError (tx : Bool) (n : Nat) (s : State) : State :=
  if !onBus s then s
  else if tx then
    let t := tec s + n
    let s := setF (setF s Reg.TRAY_ERRORS 31 24 (min 255 (unacked s + 1))) Reg.TRAY_ERRORS 7 0 (min 255 t)
    let s := syncPassive s
    if 256 ≤ t then orR (setB s Reg.TRAY_STATUS 28 true) Reg.TRAY_CAUSE 4 else s
  else syncPassive (setF s Reg.TRAY_ERRORS 15 8 (min 255 (rec_ s + n)))

def execBusError (tx : Bool) (amount : Nat) (s : State) : Out := commit s (busError tx amount s)

/-- BUS_OFF_RECOVERY: the counts return to 0. -/
def busOffRecovery (s : State) : State :=
  if bitR s Reg.TRAY_STATUS 28 then
    syncPassive (setF (setF (setB s Reg.TRAY_STATUS 28 false) Reg.TRAY_ERRORS 7 0 0) Reg.TRAY_ERRORS 15 8 0)
  else s

def execBusOffRecovery (s : State) : Out := commit s (busOffRecovery s)

/-- IGNORED_FRAME: counted in FRAMES_IGNORED (R442, R444). -/
def ignoredFrame (slot : Nat) (s : State) : State :=
  if !onBus s then s else satR (if slot = mySlot s then s else heard slot s) Reg.FRAMES_IGNORED 1

def execIgnoredFrame (slot : Fin 16) (s : State) : Out := commit s (ignoredFrame slot.val s)

end Sys2Proof.Machine
end

