-- ==== Sys2Proof/Machine/Access.lean ====
section
/-! DEFINITION. Register accesses through PF BAR0, an instance's BAR0 and management's space 0 (R5-R7, R365-R367, R420,
R504-R507): which register an offset names, what it reads as in each view, and what a write does. -/

namespace Sys2Proof.Machine

/-! ### Which register an offset names -/

/-- The function whose BAR0 a view is; management's space 0 is the physical function's. -/
def viewFn : View → Nat
  | .fn f => f.val
  | .mgmt => 0

/-- Who reads or writes, for the latch and the held low halves (R367): a function, or management as reader 32. -/
def readerOf : View → Nat
  | .fn f => f.val
  | .mgmt => 32

/-- A tile window shows all its registers (R38): its die is powered, and the site is in service or a spare. -/
def windowOpen (s : State) (site : Nat) : Bool :=
  s.diesOn.testBit (dieOf site) && (roleOf s site == 1 || roleOf s site == 2)

/-- A block of PF BAR0 reads normally: identity, interrupts, the instance manager, clocks and power from start-up step 3,
everything from early service (R493), and in base camp the blocks of R497. -/
def blockShown (s : State) (off : Nat) : Bool :=
  let b := off / 0x10000
  let always := off < 0x2000 || (0x80 ≤ b && b < 0x90)
  let step := fld s Reg.POWER_STATE 28 26
  if s.start.inReset || step == 1 || step == 2 then false
  else if baseCamp s then always || 0x100 ≤ b
  else if early s || full s then true
  else always || b == 1

/-- The key of the register word at a 4-byte-aligned offset of PF BAR0; none where it reads as Reserved does. -/
def pfKey (s : State) (off : Nat) : Option Nat :=
  if 2 ^ 26 ≤ off || !blockShown s off then none
  else if 0x1000000 ≤ off then
    let site := (off - 0x1000000) / 0x10000
    if 576 ≤ site then none
    else if off % 0x10000 < 0x10 || windowOpen s site then some off
    else none
  else if 0x100000 ≤ off && off < 0x200000 then (if (off - 0x100000) / 0x40 < shapeQps s 0 then some off else none)
  else some off

/-- The registers of the interrupt block that an instance does not have (R470). -/
def pfOnlyIrq (o : Nat) : Bool := o == 4 || o == 0x24 || (0x100 ≤ o && o < 0x1C0)

/-- The key of the register word at a 4-byte-aligned offset of an instance's BAR0 (R365). -/
def instKey (s : State) (f off : Nat) : Option Nat :=
  if !s.vfEnable || baseCamp s || !(early s || full s) then none
  else if off < 0x1000 then some off
  else if off < 0x2000 then
    let o := off - 0x1000
    if pfOnlyIrq o then none else if 0x40 ≤ o && o < 0x50 then some (Reg.fnSpace f + off) else some off
  else if off < 0x2040 then some (Reg.fnSpace f + off)
  else if 0x10000 ≤ off && off < 0x11000 then
    (if (off - 0x10000) / 0x40 < shapeQps s f then some (Reg.fnSpace f + off) else none)
  else if 0x20000 ≤ off && off < 0x24000 then
    let c := (off - 0x20000) / 0x100
    let o := off % 0x100
    if tget s.ctxFn c ≠ some f then none
    else if o < 0x40 then some (0x401000 + c * 0x40 + o)
    else if o < 0xC0 then some (0xC1000 + c * 0x80 + (o - 0x40))
    else some (0x601000 + c * 0x40 + (o - 0xC0))
  else if 0x40000 ≤ off && off < 0x60000 then
    let n := (off - 0x40000) / 0x20
    if tget s.chanFn n ≠ some f then none else some (0x501000 + n * 0x20 + off % 0x20)
  else if 0x80000 ≤ off && off < 0x80200 then some (Reg.fnSpace f + off)
  else none

/-- The key of the register word at a 4-byte-aligned offset in a view. -/
def keyOf (s : State) (v : View) (off : Nat) : Option Nat :=
  if viewFn v = 0 then pfKey s off else instKey s (viewFn v) off

/-! ### What a register reads as -/

/-- FN_STATUS of a function (R371). -/
def fnStatus (s : State) (f : Nat) : Nat :=
  genOf s f * 2 ^ 16 + (if quiescedNow s then 16 else 0) + (if early s then 8 else 0)
    + (if f = 0 then 1 else fld s (Reg.INST_STATE f) 2 0)

/-- SUMMARY of a function (R471): the groups are those that the tree shows once the ranger has started it (R463). -/
def summary (s : State) (f : Nat) : Nat :=
  (if treeUp s then groupsOf s f else 0) + (if f = 0 && alertLow s then 2 ^ 31 else 0)

/-- Whether the leaf at a cause register's key is pending in a function's view (R461, R464). -/
def leafPending (s : State) (f k : Nat) : Bool :=
  match leafOf k with
  | some (_, _, o) => inView s f o && pendingBits s k != 0
  | none => false

/-- A site's leaf: the OR of its six cause registers (R461). -/
def sitePending (s : State) (site : Nat) : Bool :=
  leafPending s 0 (Reg.MESH_CAUSE site) || leafPending s 0 (Reg.CALLER_CAUSE site)
    || (List.range 4).any (fun a => leafPending s 0 (Reg.ARR_CAUSE site a))

/-- A context's leaf (R461). -/
def ctxPending (s : State) (f c : Nat) : Bool :=
  leafPending s f (Reg.CTX_SWEEP_CAUSE c) || leafPending s f (Reg.SERVE_CAUSE c) || leafPending s f (Reg.DECK_CAUSE c)

/-- UNIT_PENDING (R470). -/
def unitPending (s : State) : Nat :=
  maskOf 26 (fun i =>
    if i < 8 then leafPending s 0 (Reg.CODEC_CAUSE i)
    else if i < 16 then leafPending s 0 (Reg.SWEEP_CAUSE (i - 8))
    else if i = 16 then leafPending s 0 Reg.VOTE_CAUSE
    else if i < 25 then leafPending s 0 (Reg.PORT_CAUSE (i - 17))
    else leafPending s 0 Reg.FAB_CAUSE)

/-- The interrupt block, SUMMARY to CHANNEL_PENDING, in a function's view (R470); none for the registers that are stored. -/
def irqRead (s : State) (f o : Nat) : Option Nat :=
  if o = 0 then some (summary s f)
  else if o = 0x14 && f ≠ 0 then some (getR s Reg.FAULT_CODE / 2 ^ 24 * 2 ^ 24)
  else if 0x100 ≤ o && o < 0x180 then
    let d := (o - 0x100) / 0x20
    let w := o % 0x20 / 4
    some (maskOf (if w = 4 then 16 else 32) (fun b => sitePending s (d * 144 + 32 * w + b)))
  else if o = 0x180 then some (unitPending s)
  else if o = 0x1C0 || o = 0x1C4 then some (maskOf 32 (fun b => ctxPending s f ((o - 0x1C0) * 8 + b)))
  else if o = 0x1C8 then some (maskOf 32 (fun b => leafPending s f (Reg.FN_CAUSE b)))
  else if 0x200 ≤ o && o < 0x400 then
    some (maskOf 32 (fun b => leafPending s f (Reg.CHANNEL_CAUSE ((o - 0x200) * 8 + b))))
  else none

/-- A tile window's registers that follow the machine (R29 to R34); none for those that are stored. -/
def tileRead (s : State) (k : Nat) : Option Nat :=
  let site := (k - 0x1000000) / 0x10000
  let o := k % 0x10000
  if o = 4 then some (site * 2 ^ 16 + site % 144 / 12 * 2 ^ 8 + site % 12 * 2 ^ 4 + dieOf site)
  else if o = 8 then some (getR s (Reg.MAP_EPOCH 0))
  else if o = 0xC then
    let st := if !s.diesOn.testBit (dieOf site) then 4 else if roleOf s site = 3 then 6 else tileState s site
    some (setBits (getR s k) 2 0 st)
  else if o = 0x128 then some (getR s k + holdTime s site)
  else none

/-- FW_VERSION: the running image, once the ranger runs a valid bank (R505). -/
def fwVersion (s : State) : Nat :=
  if rangerUp s && bitR s Reg.RANGER_STATUS 31 then
    let b := bankOf s (fld s Reg.RANGER_STATUS 30 30)
    b.svn * 2 ^ 16 + b.major * 2 ^ 8 + b.minor
  else 0

/-- The granules of a stack in the pool, by byte of POOL_GRANULES (R370). -/
def poolGranules (s : State) (k first : Nat) : Nat :=
  if full s then leNat ((upFrom first 4).map (fun st => BitVec.ofNat 8 (fnGranules s 0 st).length)) else getR s k

/-- PKG_POWER in a view (R431, R487): 10 W is 80 units of 0.125 W. -/
def pkgPower (s : State) : View → Nat
  | .mgmt => s.power.msMean % 65536
  | .fn _ => s.power.winMean / 80 * 80 % 65536

/-- CLOCK_STATUS: while the clocks are halved TILE_FREQ is half of the frequency that was in force, and LIMITED reads 1 when that
is below the target (R475, R476, R486, R501). -/
def clockStatus (s : State) : Nat :=
  let v := getR s Reg.CLOCK_STATUS
  if v.testBit 15 then
    let f := bitsOf v 31 24 / 2
    f * 2 ^ 24 + v % 2 ^ 24 + (if f < bitsOf v 23 16 && !v.testBit 13 then 2 ^ 13 else 0)
  else v

/-- FAB_STATUS: ENABLED is the ports' PORT_CONTROL.ENABLE (R404). -/
def fabStatus (s : State) : Nat :=
  getR s Reg.FAB_STATUS % 256 + maskOf 8 (fun p => bitR s (Reg.PORT_CONTROL p) 31) * 256

/-- The registers whose value follows the machine, by key in a view; none for those that are stored. -/
def liveRead (s : State) (v : View) (k : Nat) : Option Nat :=
  let f := viewFn v
  if 0x1000 ≤ k && k < 0x2000 then irqRead s f (k - 0x1000)
  else if 0x1000000 ≤ k && k < 0x4000000 then tileRead s k
  else if 0x10 ≤ k && k < 0x20 then some (bitsOf Config.serial ((k - 0x10) * 8 + 31) ((k - 0x10) * 8))
  else if k = Reg.FN_STATUS f then some (fnStatus s f)
  else if k = 0x44 then some (fwVersion s)
  else if k = Reg.TICKET_NOW then some (s.timeBase % 65536)
  else if k = Reg.TIME_BASE then some (s.timeBase % 2 ^ 64)
  else if k = Reg.CYCLE_COUNT then some (s.cycle % 2 ^ 64)
  else if k = Reg.ENTROPY_CUTOFFS then some (Config.aptCutoff % 65536 * 65536 + getR s k % 65536)
  else if k = Reg.POOL_GRANULES_LO then some (poolGranules s k 0)
  else if k = Reg.POOL_GRANULES_HI then some (poolGranules s k 4)
  else if k = Reg.PKG_POWER then some (pkgPower s v)
  else if k = Reg.TRAY_MEMBERS then some (memberMask s)
  else if k = Reg.CLOCK_STATUS then some (clockStatus s)
  else if k = Reg.FAB_STATUS then some (fabStatus s)
  else if 0x601000 ≤ k && k < 0x602000 then some (getR (syncDecks s) k)
  else if 0x400000 ≤ k && k < 0x400800 && k % 0x100 = 0 then some (sweepStatus s ((k - 0x400000) / 0x100))
  else if 0x300000 ≤ k && k < 0x300800 && k % 0x100 = 0 then some (codecStatus s ((k - 0x300000) / 0x100))
  else none

/-- The whole value of the register at a key in a view: an instance reads the coarsened registers as their last sample
(R432). -/
def regValue (s : State) (v : View) (k : Nat) : Nat :=
  if viewFn v ≠ 0 && coarse k then ((tget s.sample k).map (·.toNat)).getD 0 / 4096 * 4096
  else (liveRead s v k).getD (getR s k)

/-! ### Reads (R366, R367) -/

/-- A function's MSI-X pending bits, from bit `first` on (R364). -/
def pbaWord (s : State) (f first : Nat) : Nat := maskOf 32 (fun b => s.pba.contains (f, first + b))

/-- The first pending-bit offset of a BAR0, and its size in bytes (R364). -/
def pbaPlace (f : Nat) : Nat × Nat := if f = 0 then (0xF0000, 16) else (0x81000, 8)

/-- One 32-bit word of a view's BAR0; the low half of a 64-bit register loads the reader's latch, and its high half comes from
the latch while it holds that register (R367). -/
def readWord (s : State) (v : View) (off : Nat) : State × Nat :=
  let f := viewFn v
  let (p, n) := pbaPlace f
  if p ≤ off && off < p + n && (f ≠ 0 || blockShown s off) then (s, pbaWord s f ((off - p) * 8))
  else
    match (keyOf s v off).bind wordAt with
    | none => (s, 0)
    | some (r, key, high) =>
      let x := regValue s v key
      if r.width ≠ 64 then (s, x % 2 ^ 32)
      else if high then
        match tget s.latch (readerOf v) with
        | some (k, h) => (s, if k = key then h else x / 2 ^ 32)
        | none => (s, x / 2 ^ 32)
      else ({ s with latch := tput s.latch (readerOf v) (key, x / 2 ^ 32) }, x % 2 ^ 32)

/-- The bytes of `n` words from an aligned offset, lowest first. -/
def readWords (v : View) : Nat → Nat → State → State × Bytes
  | 0, _, s => (s, [])
  | n + 1, off, s =>
    let (s, w) := readWord s v off
    let (s, t) := readWords v n (off + 4) s
    (s, natLe 4 w ++ t)

/-- An access that R366 calls unaligned. -/
def unaligned (off size : Nat) : Bool :=
  (4 ≤ size && off % 4 != 0) || (size == 2 && off % 2 != 0) || 64 < size || 64 < off % 64 + size

/-- The access reaches the part: out of part reset, and over the link unless it is management's. -/
def reached (s : State) : View → Bool
  | .fn _ => s.pins.aon && !s.start.inReset && s.linkUp
  | .mgmt => s.pins.aon && !s.start.inReset

/-- An access error of the function that a view is; management has none. -/
def viewError (v : View) (kind off : Nat) (s : State) : State :=
  match v with
  | .fn f => accessError f.val kind off s
  | .mgmt => s

/-- LOW_HALF_READ, and every read of a BAR0. -/
def barRead (v : View) (off size : Nat) (s : State) : State :=
  if !reached s v then s
  else if unaligned off size then emit (viewError v 1 off s) .completerAbort
  else
    let lo := off / 4 * 4
    let (s, bs) := readWords v (ceilDiv (off + size - lo) 4) lo s
    emit s (.readData (slice bs (off - lo) size))

def execLowHalfRead (v : View) (off size : Nat) (s : State) : Out :=
  commit s (access (.lowHalfRead v off size) (barRead v off size) s)

/-! ### Writes -/

/-- The bits that a write's enabled bytes cover. -/
def enMask (en : Nat) : Nat := ((List.range 4).map (fun b => if en.testBit b then 0xFF * 2 ^ (8 * b) else 0)).foldl (· + ·) 0

/-- `old` with the bits of `m` taken from `x`. -/
def mergeBits (old x m : Nat) : Nat := (old ^^^ (old &&& m)) ||| (x &&& m)

/-- A further message of a group after a W1C write by a function that leaves it pending (R464). -/
def stillPending (v : View) (g : Nat) (s : State) : State :=
  match v with
  | .fn f => if treeUp s && (groupsOf s f.val).testBit g then groupMsg f.val s g else s
  | .mgmt => s

/-- The write of a whole register by its access codes (R5): `m` are the bits of the enabled bytes. -/
def writeFields (v : View) (r : RegRow) (k x m : Nat) (s : State) : State :=
  let old := getR s k
  let c := x &&& m &&& r.w1c
  let y := mergeBits old x (r.rw &&& m)
  let s := setR s k (y ^^^ (y &&& c))
  match leafOf k with
  | some (g, _, _) => if c = 0 then s else stillPending v g s
  | none => s

/-- RWL fields (R430): their write by host software stops at the seal, with ACCESS_ERROR; management's never does. -/
def writeLocked (v : View) (off : Nat) (r : RegRow) (k x m : Nat) (s : State) : State :=
  if r.rwl &&& m = 0 then s
  else if isSealed s && v != .mgmt then viewError v 3 off s
  else
    let y := mergeBits (getR s k) x (r.rwl &&& m)
    setR s k (if k = Reg.FAB_VERSIONS then y / 256 * 256 + ((y % 16) ||| 1) else y)

/-- A vector that is unmasked sends the message that waits in its PBA bit (R364, R464). -/
def sendPending (f : Nat) (n : Nat) (s : State) : State :=
  if s.pba.contains (f, n) && !bitR s (Reg.MSIX_TABLE f n + 12) 0 then
    msixTo { s with pba := s.pba.erase (f, n) } f n
  else s

/-- The offset of a queue pair register within its block, for a key of a queue pair block: pair and register. -/
def qpPart (f k : Nat) : Option (Nat × Nat) :=
  let b := Reg.qpBlock f 0
  if b ≤ k && k < b + 0x10000 then some ((k - b) / 0x40, (k - b) % 0x40) else none

/-- QP_CONFIG: the configuration first, then ENABLE (R374). -/
def writeQpConfig (v : View) (r : RegRow) (q k x m : Nat) (s : State) : State :=
  let s := writeFields v { r with rw := r.rw % 2 ^ 31 } k x m s
  if m.testBit 31 then (if x.testBit 31 then qpEnable (viewFn v) q s else qpDisable (viewFn v) q s) else s

/-- TRAY_CONTROL (R458). -/
def writeTrayControl (x m : Nat) (s : State) : State :=
  if m.testBit 31 then
    let s := trayReg (sleepReady (x.testBit 29)) s
    let s := if x.testBit 30 then trayReg wakeReq s else s
    if x.testBit 31 then trayReg proposeReq s else s
  else s

/-- Whether R507 excludes a write by this view to the register at a key. -/
def excluded (v : View) (k : Nat) : Bool :=
  match v with
  | .mgmt => match qpPart 0 k with
    | some (_, o) => o == 0x18 || o == 0x1C
    | none => false
  | .fn f => k == Reg.SCRUB_CONTROL || (f != 0 && (k == Reg.FAULT_STATUS || k == Reg.RECOVERY_REPORT))

/-- What a write does to a 32-bit register, beyond its stored fields, for the registers whose writes have effects of their own. -/
def writeReg (v : View) (off : Nat) (r : RegRow) (k x m : Nat) (s : State) : State :=
  let f := viewFn v
  if r.wo ≠ 0 then
    if m ≠ 0xFFFFFFFF then viewError v 0 off s
    else match qpPart f k with
      | some (q, o) => if o = 0x18 then sqTail f q (x % 65536) s else cqHead f q (x % 65536) s
      | none => s
  else if k = Reg.HOST_PROTOCOL f then
    (if m.testBit 8 then hostProtocol f (bitsOf x 15 12) (bitsOf x 11 8) s else s)
  else if k = Reg.FAULT_STATUS then (if (x &&& m).testBit 0 then stillPending v 0 (chipFaultClear v s) else s)
  else if k = Reg.RECOVERY_REPORT then
    (if (x &&& m).testBit 29 then stillPending v 0 (setB s k 29 false) else s)
  else if k = Reg.FAULT_CONTROL then
    let s := writeFields v r k x m s
    if (x &&& m).testBit 31 then recoverWrite v s else s
  else if k = Reg.POWER_CONTROL then
    let s := writeFields v { r with rw := 2 ^ 30 } k x m s
    if m.testBit 31 then napWrite v (x.testBit 31) s else s
  else if k = Reg.TRAY_CONTROL then writeTrayControl x m s
  else if k = Reg.TRAY_CONFIG then
    let s := writeLocked v off r k x m (writeFields v r k x m s)
    trayEnable (bitR s Reg.TRAY_CONFIG 0) s
  else if k = Reg.POWER_LIMIT then syncLimit (writeLocked v off r k x m s)
  else if 0x700100 ≤ k && k < 0x700500 && k % 0x80 = 4 then
    let s := writeFields v { r with rw := 2 ^ 30 } k x m s
    if m.testBit 31 then portEnable ((k - 0x700100) / 0x80) (x.testBit 31) s else s
  else
    match qpPart f k with
    | some (q, 0x10) => writeQpConfig v r q k x m s
    | _ =>
      let s := writeLocked v off r k x m (writeFields v r k (if f ≠ 0 && 0x40 ≤ k % 0x1000 && k % 0x1000 < 0x50
        && k / 0x1000 % 0x100000 = 1 then x &&& 0x1F1F1F1F else x) m s)
      if Reg.msixBlock f ≤ k && k < Reg.msixBlock f + 0x800 then sendPending f ((k - Reg.msixBlock f) / 16) s
      else if 0x1000000 ≤ k && k < 0x4000000 && r.w1c != 0 then clearCode ((k - 0x1000000) / 0x10000) s
      else s

/-- Where a held low half stands (R367). -/
def heldKey (v : View) (k : Nat) : Nat := readerOf v * 2 ^ 44 + k

/-- A write of one word of a view's BAR0, with its byte enables: none where R507 excludes the writer. The low half of a 64-bit
RW register is held until its high half is written by the same writer (R367). -/
def writeWord (v : View) (acc off en x : Nat) (s : State) : Option State :=
  let m := enMask en
  if m = 0 then some s
  else if viewFn v ≠ 0 && (off == 0x1004 || off == 0x1024) && (keyOf s v 0x1000).isSome then none
  else
    match keyOf s v off with
    | none => some s
    | some k =>
      match wordAt k with
      | none => some s
      | some (r, key, high) =>
        if excluded v key then none
        else if r.width ≠ 64 then some (writeReg v acc r key x m s)
        else if r.rw = 0 then some s
        else if high then
          let lo := (tget s.held (heldKey v key)).getD (getR s key % 2 ^ 32)
          let hi := mergeBits (getR s key / 2 ^ 32) x (m &&& (r.rw / 2 ^ 32))
          some (setR { s with held := tdel s.held (heldKey v key) } key (hi * 2 ^ 32 + lo))
        else
          let old := (tget s.held (heldKey v key)).getD (getR s key % 2 ^ 32)
          some { s with held := tput s.held (heldKey v key) (mergeBits old x (m &&& (r.rw % 2 ^ 32))) }

/-- The words of a write in ascending order (R366): `en` and `x` are the byte enables and data from the word at `off` on. The
flag tells whether R507 excluded one of them. -/
def writeWords (v : View) (acc : Nat) : Nat → Nat → Nat → Nat → State → State × Bool
  | 0, _, _, _, s => (s, false)
  | n + 1, off, en, x, s =>
    match writeWord v acc off (en % 16) (x % 2 ^ 32) s with
    | some t => writeWords v acc n (off + 4) (en / 16) (x / 2 ^ 32) t
    | none => ((writeWords v acc n (off + 4) (en / 16) (x / 2 ^ 32) (viewError v 5 acc s)).1, true)

/-- REGISTER_WRITE: `size` bytes from `off`, of which those that `be` names are enabled. -/
def barWrite (v : View) (off size be val : Nat) (s : State) : State × Bool :=
  if !reached s v then (s, false)
  else if unaligned off size then (viewError v 2 off s, false)
  else
    let sh := off % 4
    writeWords v off (ceilDiv (sh + size) 4) (off - sh) (be % 2 ^ size * 2 ^ sh) (val % 2 ^ (8 * size) * 2 ^ (8 * sh)) s

def execRegisterWrite (v : View) (off size be val : Nat) (s : State) : Out :=
  commit s (access (.registerWrite v off size be val) (fun s => (barWrite v off size be val s).1) s)

end Sys2Proof.Machine
end

