-- ==== Sys2Proof/Machine/Image.lean ====
section
/-! DEFINITION. The state image of a frozen instance: saving, restoring and thawing (R382). The contents of the image's
sections have a layout of the model's own. -/

namespace Sys2Proof.Machine

/-! ### Building an image -/

/-- The SHAPE field: the arguments of INSTANCE_CREATE, bytes 0x10-0x2F of the command (R376, R380). -/
def shapeBytes (s : State) (i : Nat) : Bytes :=
  natLe 1 i ++ natLe 1 (shapeQps s i) ++ natLe 2 0 ++ natLe 4 (shapeTiles s i) ++ natLe 4 (shapePegs s i) ++ natLe 4 0
    ++ natLe 4 (getR s (Reg.INST_GRANULES_LO i)) ++ natLe 4 (getR s (Reg.INST_GRANULES_HI i)) ++ natLe 8 (shapeDecode s i)

/-- QUEUES: 32 B for each pair of the shape in order: bases, configuration with ENABLE as the pair runs, SQ head, CQ tail,
phase. -/
def queueBytes (s : State) (i : Nat) (z : Frozen) (q : Nat) : Bytes :=
  let p := qpGet s i q
  let on := qpEnabled s i q
  let (head, tail, ph, en) := match z.qps.find? (fun e => e.1 == q) with
    | some (_, h, t, b) => (h, t, b, true)
    | none => (fld s (Reg.QP_STATUS i q) 15 0, p.cqTail, p.phase, on)
  natLe 8 (getR s (Reg.SQ_BASE i q)) ++ natLe 8 (getR s (Reg.CQ_BASE i q))
    ++ natLe 4 (setBits (getR s (Reg.QP_CONFIG i q)) 31 31 (if en then 1 else 0)) ++ natLe 2 head ++ natLe 2 tail
    ++ natLe 1 (if ph then 1 else 0) ++ natLe 7 0

/-- The number that a context of a restored instance had at its source. -/
def savedNum (z : Frozen) (c : Nat) : Nat :=
  match (z.restored.getD []).find? (fun e => e.2 == c) with
  | some e => e.1
  | none => c

/-- CONTEXTS: 80 B for each context. -/
def contextBytes (s : State) (z : Frozen) (e : Nat × Ctx) : Bytes :=
  let (c, x) := e
  natLe 1 (savedNum z c) ++ natLe 1 (phaseOf s c + (if x.started then 8 else 0) + (if x.ended then 16 else 0)) ++ natLe 2 0
    ++ natLe 4 (getR s (Reg.LOSS_SCALE c)) ++ natLe 8 (getR s (Reg.STEP c)) ++ natLe 4 (getR s (Reg.GOOD_STEPS c))
    ++ natLe 4 x.len ++ natLe 8 x.addr ++ slice x.digest 0 48

/-- TILES: 128 B for a context on a tile. -/
def tileBytes (s : State) (z : Frozen) (c : Nat) (e : Nat × TileCtx) : Bytes :=
  let (site, t) := e
  let k := t.slot
  natLe 1 (savedNum z c) ++ natLe 1 (ctxStateAt s c site) ++ natLe 2 ((tileOfSite s site).getD 0) ++ natLe 2 (nextFig s c site)
    ++ natLe 1 (fld s (Reg.CTX_STATE site k) 20 16) ++ natLe 1 (getR s (Reg.CTX_FLAGS site k))
    ++ natLe 4 (getR s (Reg.CTX_STEPS site k)) ++ natLe 4 t.opIndex ++ (List.range 16).flatMap (fun i => natLe 4 (gReg t i))
    ++ (List.range 32).flatMap (fun i => natLe 1 (tokGet t i)) ++ natLe 8 (s.cycle - t.stepStart) ++ natLe 8 0

/-- A page's place in 4 bytes: bit 31 far; else the stack in bits 30:28 and the frame. -/
def locBytes : PageLoc → Bytes
  | .far j => natLe 4 (2 ^ 31 + j)
  | .near st n => natLe 4 (st * 2 ^ 28 + n)

/-- SPILL_MAP holds one record for each object of the instance, the spill object among them: its placement entry and its page
map. -/
def objectBytes (s : State) (z : Frozen) (o : Obj) : Bytes :=
  natLe 4 o.handle ++ natLe 4 o.id ++ natLe 1 (if o.owner < 64 then savedNum z o.owner else o.owner) ++ natLe 1 o.oflags
    ++ natLe 1 o.keySlot ++ natLe 1 o.format ++ natLe 8 o.size ++ natLe 4 o.first ++ natLe 4 o.pages.length ++ natLe 1 o.state
    ++ natLe 1 o.result ++ natLe 2 o.doneSeq ++ natLe 8 ((o.users.map (fun c => 2 ^ savedNum z c)).foldl (· + ·) 0)
    ++ mread s.ptab (o.fn * pageSize + o.handle * 64 + 0x22) 4 ++ natLe 4 (if o.freed then 1 else 0) ++ o.pages.flatMap locBytes

/-- A section: its head and its content. -/
def sectionBytes (ty : Nat) (b : Bytes) : Bytes := natLe 2 ty ++ natLe 2 0 ++ natLe 4 b.length ++ b

/-- Registered far pages that an instance's objects use: 1 more than the highest place in its list. -/
def farInUse (s : State) (i : Nat) : Nat := ((usedFar s i).map (· + 1)).foldl max 0

/-- The image of a frozen instance. -/
def imageOf (s : State) (i : Nat) (z : Frozen) : Bytes :=
  let cs := s.ctxs.filter (fun e => e.2.fn == i)
  let body := sectionBytes 1 ((List.range (shapeQps s i)).flatMap (queueBytes s i z)) ++ sectionBytes 2 (cs.flatMap (contextBytes s z))
    ++ sectionBytes 3 (cs.flatMap (fun e => e.2.tiles.flatMap (tileBytes s z e.1)))
    ++ sectionBytes 4 ((objsOf s i).flatMap (objectBytes s z))
  let head := [0x4A#8, 0x58#8, 0x53#8, 0x49#8] ++ natLe 1 0 ++ natLe 1 1 ++ natLe 2 0 ++ natLe 4 (64 + body.length)
  let tail := shapeBytes s i ++ natLe 2 z.gen ++ natLe 2 4 ++ natLe 4 z.spill ++ natLe 4 (farInUse s i) ++ natLe 4 0 ++ body
  head ++ natLe 4 (crc32c (head ++ tail)) ++ tail

/-- INSTANCE_SAVE (R381, R382). -/
def instanceSave (h : CmdHdr) (i addr len : Nat) (s : State) : State :=
  if len = 0 then reject h 2 s
  else if i = 0 ∨ 32 ≤ i ∨ instState s i = 0 then finish h 1 0 0 s
  else match instState s i, tget s.frozen i with
    | 4, some z =>
      let b := imageOf s i z
      if len < b.length then finish h 8 0 b.length s
      else
        let (s, st) := devWrite h.fn.val addr b s
        if st ≠ 0 then reject h st s else finish h 0 0 b.length s
    | _, _ => finish h 2 0 0 s

def execInstanceSave (h : CmdHdr) (inst addr len : Nat) (s : State) : Out :=
  commit s (hostCmd (.instanceSave h inst addr len) h .refused (instanceSave h inst addr len) s)

/-! ### Restoring -/

/-- The sections of an image after its header: type and content. -/
def imageSections : Nat → Bytes → List (Nat × Bytes)
  | 0, _ => []
  | k + 1, b =>
    let n := fieldAt b 4 4
    (fieldAt b 0 2, slice b 8 n) :: imageSections k (b.drop (8 + n))

/-- The content of a section. -/
def imageSection (img : Bytes) (ty : Nat) : Bytes :=
  (((imageSections (fieldAt img 0x32 2 % 16) (img.drop 64)).find? (fun e => e.1 == ty)).map (·.2)).getD []

/-- Records of one size. -/
def chunks (n : Nat) (b : Bytes) : List Bytes := (List.range (b.length / n)).map (fun k => (b.drop (n * k)).take n)

/-- One object of an image: the object, with the REQ bytes of its entry. -/
def readObject (i : Nat) (b : Bytes) : Obj × Bytes :=
  let n := fieldAt b 28 4
  let loc := fun (k : Nat) => let w := fieldAt b (52 + 4 * k) 4
    if w.testBit 31 then PageLoc.far (w % 2 ^ 31) else PageLoc.near (w / 2 ^ 28) (w % 2 ^ 28)
  ({ fn := i, handle := fieldAt b 0 4, id := fieldAt b 4 4, owner := fieldAt b 8 1, oflags := fieldAt b 9 1, keySlot := fieldAt b 10 1,
     format := fieldAt b 11 1, size := fieldAt b 12 8, first := fieldAt b 20 4, pages := (List.range n).map loc,
     state := fieldAt b 32 1, result := fieldAt b 33 1, doneSeq := fieldAt b 34 2, users := bitPositions 64 (fieldAt b 36 8),
     freed := fieldAt b 48 4 == 1, record := none }, slice b 44 4)

/-- The objects of an image. -/
def readObjects (i : Nat) : Nat → Bytes → List (Obj × Bytes)
  | 0, _ => []
  | k + 1, b => if b.isEmpty then [] else readObject i b :: readObjects i k (b.drop (52 + 4 * fieldAt b 28 4))

/-- The shape of an instance holds another: R382's equal or larger. -/
def shapeHolds (s : State) (i : Nat) (sh : Bytes) : Bool :=
  let g := natLe 4 (getR s (Reg.INST_GRANULES_LO i)) ++ natLe 4 (getR s (Reg.INST_GRANULES_HI i))
  within (fieldAt sh 4 4) (shapeTiles s i) && within (fieldAt sh 24 8) (shapeDecode s i) && fieldAt sh 1 1 ≤ shapeQps s i
    && fieldAt sh 8 4 ≤ shapePegs s i && (List.range 8).all (fun st => fieldAt sh (16 + st) 1 ≤ fieldAt g st 1)

/-- The instance is frozen and empty: no context, channel or object but its own spill object, and no image restored. -/
def frozenEmpty (s : State) (i : Nat) (z : Frozen) : Bool :=
  instState s i == 4 && z.restored.isNone && (ctxsOf s i).isEmpty && s.chans.all (fun e => e.2.fn != i)
    && (objsOf s i).all (fun o => o.handle == z.spill)

/-- Recreate one object: same handle, address and tier; a near page takes a frame of the same stack. -/
def recreate (o : Obj) (req : Bytes) (m : List (Nat × Nat)) (s : State) : Option State :=
  let want := fun (p : PageLoc) => match p with | .near st _ => some st | .far _ => none
  let far := o.pages.filter (fun p => match p with | .far _ => true | .near _ _ => false)
  let num := fun (c : Nat) => ((m.find? (fun e => e.1 == c)).map (·.2)).getD c
  match placePages s o.fn ((o.pages.map want).filter Option.isSome) with
  | none => none
  | some ps =>
    let pages := (o.pages.foldl (fun (a : List PageLoc × List PageLoc) p => match p, a.2 with
      | .far j, l => (a.1 ++ [.far j], l)
      | .near _ _, q :: l => (a.1 ++ [q], l)
      | .near _ _, [] => a) ([], ps)).1
    let s := objPut s { o with pages := pages, users := o.users.map num, owner := if o.owner < 64 then num o.owner else o.owner }
    let s := zeroPages { s with ptab := mwrite s.ptab (o.fn * pageSize + o.handle * 64 + 0x22) req } ps
    if far.length ≤ (tgetD s.farPool o.fn []).length then some s else none

/-- Recreate the objects of an image. -/
def recreateAll (m : List (Nat × Nat)) : List (Obj × Bytes) → State → Option State
  | [], s => some s
  | (o, r) :: t, s => (recreate o r m s).bind (recreateAll m t)

/-- The context numbers at the destination: the recorded one where it is free, else the lowest free. -/
def placeNums (used : List Nat) : List Nat → List (Nat × Nat)
  | [] => []
  | c :: t =>
    let n := if used.contains c then ((List.range 64).find? (fun k => !used.contains k)).getD 64 else c
    (c, n) :: placeNums (n :: used) t

/-- The checks of a reloaded pitch against the part: those of steps 5-7 of R107 that do not place objects. -/
def checkReload (s : State) (f : Nat) (p : Pitch) : Chk Unit := do
  checkOwner s f p
  checkLimits s p
  checkArrayRanges s p
  checkSweep p
  checkVotes p
  checkReservedSets s p
  each (checkPath s p.tileMap) p.routes
  checkSlots s (residentSlots s) p.routes
  each (checkSlack s) p.routes
  checkFigureStore s p

/-- The handles of a reloaded context's object records. -/
def reloadHandles (s : State) (f c : Nat) (p : Pitch) : List Nat :=
  p.objs.map (fun r => if r.kind = 0 then 0
    else (((objsOf s f).find? (fun o => o.id == r.id && o.users.contains c)).map (·.handle)).getD 0)

/-- Reload one context from its record: its pitch, then its registers (R382 step 2). -/
def reloadCtx (i : Nat) (m : List (Nat × Nat)) (b : Bytes) (s : State) : Option State :=
  let c := ((m.find? (fun e => e.1 == fieldAt b 0 1)).map (·.2)).getD 64
  let a := fieldAt b 24 8
  let a := if a < 2 ^ 48 then i * 2 ^ 43 + a % 2 ^ 43 else a
  let len := fieldAt b 20 4
  let (s, st, img) := readPitch i a len s
  if st ≠ 0 ∨ 64 ≤ c ∨ sha384 (img.take (fieldAt img 0x0C 4)) ≠ slice b 32 48 then none
  else match parsePitch s.pitchKeys img len with
    | .error _ => none
    | .ok p => match checkReload s i p with
      | .error _ => none
      | .ok _ =>
        let h : CmdHdr := { fn := Fin.ofNat 32 i, qp := 0, gen := 0, cid := 0, tag := 0, fence := false, noIrq := false }
        let s := reside c { hdr := h, at_ := s.timeBase, addr := a, len := len, replaces := none, takesOver := false } p (slice b 32 48) (reloadHandles s i c p) s
        let v := fieldAt b 1 1
        let s := ctxMod c (fun x => { x with started := v.testBit 3, ended := v.testBit 4, freezing := true }) s
        some (setPhase c v (setR (setR (setR s (Reg.LOSS_SCALE c) (fieldAt b 4 4)) (Reg.STEP c) (fieldAt b 8 8))
          (Reg.GOOD_STEPS c) (fieldAt b 16 4)))

/-- Reload every context. -/
def reloadAll (i : Nat) (m : List (Nat × Nat)) : List Bytes → State → Option State
  | [], s => some s
  | b :: t, s => (reloadCtx i m b s).bind (reloadAll i m t)

/-- What a context held on a tile, from its record. -/
def reloadTile (m : List (Nat × Nat)) (s : State) (b : Bytes) : State :=
  let c := ((m.find? (fun e => e.1 == fieldAt b 0 1)).map (·.2)).getD 64
  match siteOfTile s (fieldAt b 2 2) with
  | none => s
  | some site =>
    let k := slotOf s c site
    let st := fieldAt b 1 1
    let pick := fun (n w o : Nat) => ((List.range n).map (fun j => (j, fieldAt b (o + w * j) w))).filter (fun e => e.2 != 0)
    let s := tcMod c site (fun t => { t with g := pick 16 4 16, t := pick 32 1 80, opIndex := fieldAt b 12 4,
                                             stepStart := s.cycle - fieldAt b 112 8, steps := fieldAt b 8 4 }) s
    let s := setNext c site (fieldAt b 4 2) (setCtxState c site st (fieldAt b 6 1) s)
    let s := setR (setR s (Reg.CTX_FLAGS site k) (fieldAt b 7 1)) (Reg.CTX_STEPS site k) (fieldAt b 8 4)
    let s := if st = 2 then siteMod site (fun x => { x with active := some c }) s else s
    syncSite site s

/-- The pairs of an image: base and configuration are written, and the heads wait for the thaw. -/
def reloadPair (i : Nat) (s : State) (e : Nat × Bytes) : State :=
  let (q, b) := e
  setR (setR (setR s (Reg.SQ_BASE i q) (fieldAt b 0 8)) (Reg.CQ_BASE i q) (fieldAt b 8 8)) (Reg.QP_CONFIG i q) (fieldAt b 16 4)

/-- The heads of the enabled pairs of an image. -/
def pairHeads (bs : List Bytes) : List (Nat × Nat × Nat × Bool) :=
  (indexed bs).filterMap (fun e => if (fieldAt e.2 16 4).testBit 31
    then some (e.1, fieldAt e.2 20 2, fieldAt e.2 22 2, fieldAt e.2 24 1 == 1) else none)

/-- Restore an image that has passed the checks of its form (R382): the state, or the code that refuses it. -/
def restoreImage (i : Nat) (z : Frozen) (img : Bytes) (s : State) : Except Nat State :=
  let objs := readObjects i 32768 (imageSection img 4)
  let cbs := chunks 80 (imageSection img 2)
  let m := placeNums (s.ctxs.map (·.1)) (cbs.map (fun b => fieldAt b 0 1))
  let s0 := { s with objs := s.objs.filter (fun e => e.2.fn != i) }
  match recreateAll m objs s0 with
  | none => .error 3
  | some s => match reloadAll i m cbs s with
    | none => .error 0x0B
    | some s =>
      let s := (chunks 128 (imageSection img 3)).foldl (reloadTile m) s
      let qs := chunks 32 (imageSection img 1)
      let s := (indexed qs).foldl (reloadPair i) s
      .ok { s with frozen := tput s.frozen i { z with spill := fieldAt img 0x34 4, gen := fieldAt img 0x30 2, restored := some m,
                                                      qps := pairHeads qs } }

/-- INSTANCE_RESTORE (R381, R382). -/
def instanceRestore (h : CmdHdr) (i addr len : Nat) (s : State) : State :=
  if len = 0 then reject h 2 s
  else if i = 0 ∨ 32 ≤ i ∨ instState s i = 0 then finish h 1 0 0 s
  else match tget s.frozen i with
    | none => finish h 2 0 0 s
    | some z =>
      if !frozenEmpty s i z then finish h 2 0 0 s
      else
        let (s, st, img) := devRead h.fn.val addr (min len 0x40000) s
        let n := fieldAt img 8 4
        if st ≠ 0 then reject h st s
        else if fieldAt img 0 4 ≠ 0x4953584A ∨ n < 64 ∨ img.length < n then finish h 0x0A 0 0 s
        else if fieldAt img 5 1 ≠ 1 ∨ fieldAt img 4 1 ≠ 0 then finish h 9 0 0 s
        else if fieldAt img 12 4 ≠ crc32c (slice img 0 12 ++ slice img 16 (n - 16)) then finish h 0x0A 0 0 s
        else if ¬ shapeHolds s i (slice img 16 32) then finish h 3 0 0 s
        else if (tgetD s.farPool i []).length < fieldAt img 0x38 4 then finish h 0x0C 0 0 s
        else match restoreImage i z (img.take n) s with
          | .error e => finish h e 0 0 s
          | .ok t => finish h 0 0 0 (syncMedia (syncRecords t))

def execInstanceRestore (h : CmdHdr) (inst addr len : Nat) (s : State) : Out :=
  commit s (hostCmd (.instanceRestore h inst addr len) h .refused (instanceRestore h inst addr len) s)

/-! ### Thawing -/

/-- Move the registers of a block to another block. -/
def moveBlock (p : Spill) (s : State) (e : (Nat × Nat) × (Nat × Nat)) : State :=
  let a := e.1
  let b := e.2
  (p.regs.filter (fun r => a.1 ≤ r.1 && r.1 < a.1 + a.2)).foldl (fun s r => setR s (r.1 - a.1 + b.1) r.2.toNat)
    (resetRange s b.1 (b.1 + b.2))

/-- `n` free values of `w` bits. -/
def freshVals (w : Nat) : Nat → State → List Nat × State
  | 0, s => ([], s)
  | n + 1, s => let (v, s) := freshVal s w
                let (l, s) := freshVals w n s
                (v :: l, s)

/-- The rows and entries that a record owns, with free values: its spill object's content is not one that this part wrote. -/
def freeOwned (s : State) (r : ArrRec) : State :=
  match siteOfTile s r.tile with
  | none => s
  | some site =>
    let (rows, s) := (upFrom r.accBase r.accCount).foldl (fun (a : Tbl AccRow × State) k =>
      let (b, s) := freshVal a.2 1
      let (l, s) := freshVals 32 32 s
      (a.1 ++ [(k, { int := b == 1, lanes := l })], s)) ([], s)
    let (ents, s) := (upFrom r.chBase r.chCount).foldl (fun (a : Tbl (Nat × Nat) × State) k =>
      let (v, s) := freshVals 32 2 a.2
      (if v = [0, 0] then a.1 else a.1 ++ [(k, (nth v 0, nth v 1))], s)) ([], s)
    arrMod site r.arr (fun x => { x with rows := rows.foldl (fun t e => tput t e.1 e.2) x.rows,
                                         entries := ents.foldl (fun t e => tput t e.1 e.2) x.entries }) s

/-- Rows and entries of one array return from the spill object. -/
def loadRows (s : State) (e : Nat × (Tbl AccRow × Tbl (Nat × Nat))) : State :=
  match siteOfTile s (e.1 / 4) with
  | none => s
  | some site => arrMod site (e.1 % 4) (fun x => { x with rows := e.2.1.foldl (fun t r => tput t r.1 r.2) x.rows,
                                                          entries := e.2.2.foldl (fun t r => tput t r.1 r.2) x.entries }) s

/-- What a context held on a tile returns: its times are moved to this part's cycle. -/
def loadTile (c : Nat) (s : State) (e : Nat × TileCtx) : State :=
  match siteOfTile s e.1 with
  | none => s
  | some site => tcMod c site (fun t =>
      let on := fun (k : Nat) => k + t.stepStart - e.2.stepStart
      { e.2 with
        slot := t.slot, stepStart := t.stepStart, sleep := e.2.sleep.map on,
        park := match e.2.park with
          | some (.time k) => some (.time (on k))
          | p => p }) s

/-- A context's serving returns: its pool takes frames anew and their contents. -/
def loadServe (i : Nat) (num : Nat → Nat) (p : Spill) (s : State) (e : Nat × Serve) : State :=
  match placePages s i (wants 0 e.2.a.poolStacks e.2.frames.length) with
  | none => s
  | some fs =>
    let s := { s with serves := tput s.serves (num e.1) { e.2 with frames := fs } }
    (tgetD p.pools e.1 []).foldl (fun s b => match fs[b.1 / pageSize]? with
      | some (.near st n) => { s with near := mput s.near (frameAddr st n + b.1 % pageSize) b.2 }
      | _ => s) (zeroPages s fs)

/-- Working state returns from a spill object that this part wrote. -/
def loadSpill (i : Nat) (m : List (Nat × Nat)) (p : Spill) (s : State) : State :=
  let num := fun (c : Nat) => ((m.find? (fun e => e.1 == c)).map (·.2)).getD c
  let cm := placeChans (s.chans.map (·.1)) (p.chans.map (·.1))
  let cnum := fun (n : Nat) => ((cm.find? (fun e => e.1 == n)).map (·.2)).getD n
  let s := p.rows.foldl loadRows s
  let s := p.tiles.foldl (fun s e => e.2.foldl (loadTile (num e.1)) s) s
  let s := { s with train := p.train.foldl (fun (t : Tbl Train) (e : Nat × Train) => tput t (num e.1) { e.2 with stream := none, next := none, wait := none }) s.train }
  let s := p.serves.foldl (loadServe i num p) s
  let s := { s with chans := p.chans.foldl (fun (t : Tbl Channel) (e : Nat × Channel) => tput t (cnum e.1) { e.2 with fn := i, a := { e.2.a with ctx := num e.2.a.ctx } })
                      s.chans,
                    chanFn := p.chans.foldl (fun t e => tput t (cnum e.1) i) s.chanFn,
                    decks := p.decks.foldl (fun (t : Tbl Deck) (e : Nat × Deck) => tput t (num e.1) { e.2 with
                      fn := i, a := { e.2.a with ctx := num e.2.a.ctx },
                      chans := e.2.chans.map (fun j => { j with num := cnum j.num }) }) s.decks,
                    runs := s.runs ++ p.runs.map (fun r => { r with fn := i }) }
  let s := p.records.foldl (fun s e => objMod i e.1 (fun o => { o with record := some e.2 }) s) s
  let s := (m.flatMap (fun e => List.zip (ctxBlocks e.1) (ctxBlocks e.2))).foldl (moveBlock p) s
  let s := (cm.map (fun e => (chanBlock e.1, chanBlock e.2))).foldl (moveBlock p) s
  (m.map (·.2)).foldl (fun s c => syncStream c s) s
where
  /-- Channel numbers at the destination. -/
  placeChans (used : List Nat) : List Nat → List (Nat × Nat)
    | [] => []
    | c :: t =>
      let n := if used.contains c then ((List.range 4096).find? (fun k => !used.contains k)).getD c else c
      (c, n) :: placeChans (n :: used) t

/-- The content of an instance's spill object: the one that its first 8 bytes number. -/
def spillOf (s : State) (i : Nat) (z : Frozen) : Option Spill :=
  match objGet s i z.spill with
  | none => none
  | some o => match (objRead false o 0 8 s).2 with
    | some b => tget s.spills (leNat b)
    | none => none

/-- A pair resumes at its recorded head; the doorbells of the source are gone, so its tail is its head and its CQ is empty. -/
def resumePair (i : Nat) (s : State) (e : Nat × Nat × Nat × Bool) : State :=
  let (q, head, tail, ph) := e
  qpPut (setR s (Reg.QP_STATUS i q) (2 ^ 31 + head)) i q { sqTail := head, cqTail := tail, cqHead := tail, phase := ph }

/-- INSTANCE_THAW (R382). -/
def instanceThaw (h : CmdHdr) (i : Nat) (s : State) : State :=
  if i = 0 ∨ 32 ≤ i ∨ instState s i = 0 then finish h 1 0 0 s
  else match instState s i, tget s.frozen i with
    | 4, some z =>
      let s : State := match z.restored with
        | none => s
        | some m =>
          let s : State := match spillOf s i z with
            | some p => loadSpill i m p s
            | none => ((ctxsOf s i).flatMap (fun c => ((ctxGet s c).map (fun x => x.pitch.arrays)).getD [])).foldl freeOwned s
          z.qps.foldl (resumePair i) s
      let s := freeObj i z.spill { s with frozen := tdel s.frozen i }
      let s := setF s (Reg.INST_STATE i) 31 16 ((z.gen + 1) % 65536)
      let s := (ctxsOf s i).foldl (fun s c => ctxMod c (fun x => { x with freezing := false }) s) (setInst s i 1)
      finish h 0 0 0 (syncMedia (syncRecords (syncServeRegs s)))
    | _, _ => finish h 2 0 0 s

def execInstanceThaw (h : CmdHdr) (inst : Nat) (s : State) : Out :=
  commit s (hostCmd (.instanceThaw h inst) h .refused (instanceThaw h inst) s)

end Sys2Proof.Machine
end

