-- ==== Sys2Proof/Machine/Mgmt.lean ====
section
/-! DEFINITION. The management network (R409-R441): sessions, requests and their statuses, register access, maintenance
tokens, firmware banks, fuses, keys, anchors, attestation, and the restart of the entropy source (R357). A request is the
row of its opcode, with the session that sent it and its REQUEST_ID. -/

namespace Sys2Proof.Machine

/-! ### Sessions (R416-R418) -/

/-- The management network answers: the ranger or the mask ROM runs (R412, R493). -/
def netUp (s : State) : Bool := s.pins.aon && !s.start.inReset

/-- A response: STATUS and the rest of its body (R418, R422). -/
def respond (i : Fin 4) (id st : Nat) (data : Bytes) (s : State) : State := emit s (.mgmt i.val id st data)

/-- The bank under write is no longer valid, and its token is released (R414). -/
def endWrite (s : State) : State := syncRanger (setB (dropWrite s) Reg.MAINT_HOLDERS 3 false)

/-- A session closes; a bank that it was writing becomes invalid (R414, R437). -/
def closeSession (i : Nat) (s : State) : State :=
  match tget s.sessions i with
  | none => s
  | some _ =>
    let s := emit { s with sessions := tdel s.sessions i } (.sessionClosed i)
    if s.fw.any (fun w => w.session == i) then endWrite s else syncRanger s

/-- A failed handshake (R416). -/
def authFail (s : State) : State := orR (satR s Reg.AUTH_FAILURES 1) Reg.MGMT_CAUSE 0x10

/-- Open a session with a role on the lowest free number. -/
def openSession (role : Nat) (install : Bool) (s : State) : State :=
  match (List.range 4).find? (fun k => (tget s.sessions k).isNone) with
  | none => s
  | some k =>
    let x : Session := { role := role, install := install, hello := false, last := s.timeBase, spdm := 0 }
    syncRanger { s with sessions := tput s.sessions k x }

/-- TLS_HANDSHAKE. It draws an ephemeral key, with prediction resistance, and a nonce (R354, log entry 66). A fifth connection is closed
before its handshake; a handshake while the DRBG does not serve fails (R426); in installation mode one session from a link-local
address is accepted (R417). -/
def tlsHandshake (o : TlsOffer) (s : State) : State :=
  if !netUp s || 4 ≤ s.sessions.length then s
  else
  let (s, key) := draw true 48 s
  let (s, nonce) := draw false 32 s
  if key.isNone || nonce.isNone || !o.good then authFail s
  else if s.store.anchors.isEmpty then
    (if o.linkLocal && s.sessions.isEmpty then openSession 3 true s else authFail s)
  else if s.store.deny.any (fun e => e.2 == o.digest) then authFail s
  else match tget s.store.anchors o.anchor with
    | some (role, _) => openSession role false s
    | none => authFail s

def execTlsHandshake (o : TlsOffer) (s : State) : Out := commit s (tlsHandshake o s)

/-- SESSION_IDLE_TIMEOUT: no request for 600 s (R416). -/
def sessionIdle (i : Nat) (s : State) : State :=
  match tget s.sessions i with
  | some x => if x.last + 15000000000 ≤ s.timeBase then closeSession i s else s
  | none => s

def execSessionIdleTimeout (i : Fin 4) (s : State) : Out := commit s (sessionIdle i.val s)

/-- SESSION_CLOSE. -/
def execSessionClose (i : Fin 4) (s : State) : Out := commit s (closeSession i.val s)

/-! ### Requests (R418-R422) -/

/-- A request of an open session. `role` is the least role that R421 lists, `camp` whether base camp serves the opcode (R412),
`inst` whether an installation session admits it (R417). A request before HELLO is answered VERSION. -/
def request (i : Fin 4) (id role : Nat) (camp inst : Bool) (body : State → State) (s : State) : State :=
  match tget s.sessions i.val with
  | none => s
  | some x =>
    if !netUp s then s
    else
      let s := { s with sessions := tput s.sessions i.val { x with last := s.timeBase } }
      if baseCamp s && !camp then respond i id 0x0C [] s
      else if !x.hello then respond i id 0x0A [] s
      else if x.role < role || (x.install && !inst) then respond i id 1 [] s
      else body s

/-- HELLO: the part holds version 1.0 only; a client without it is answered VERSION and closed (R418). -/
def hello (i : Fin 4) (id mask : Nat) (s : State) : State :=
  match tget s.sessions i.val with
  | none => s
  | some x =>
    if !netUp s then s
    else if !mask.testBit 0 then closeSession i.val (respond i id 0x0A [] s)
    else respond i id 0 [0#8, 1#8] { s with sessions := tput s.sessions i.val { x with last := s.timeBase, hello := true } }

def execHello (i : Fin 4) (id mask : Nat) (s : State) : Out := commit s (hello i id mask s)

/-! ### READ and WRITE (R420) -/

/-- The words of a space lie within it: space 0 is PF BAR0; space 1's offsets are 32 bits. -/
def spaceOk (space off count : Nat) : Bool :=
  off % 4 == 0 && 1 ≤ count && count ≤ 256
    && ((space == 0 && off + 4 * count ≤ 2 ^ 26) || (space == 1 && off + 4 * count ≤ 2 ^ 32))

/-- The words of the ranger space (R438). -/
def rangerWords (s : State) (off count : Nat) : Bytes :=
  (List.range count).flatMap (fun k =>
    let key := Reg.rangerBase + off + 4 * k
    natLe 4 (if (rowAt key).isSome then getR s key else 0))

/-- READ. -/
def mgmtRead (i : Fin 4) (id space off count : Nat) (s : State) : State :=
  if !spaceOk space off count then respond i id 2 [] s
  else if space = 1 then respond i id 0 (rangerWords s off count) s
  else
    let (s, b) := readWords .mgmt count off s
    respond i id 0 b s

def execRead (i : Fin 4) (id space off count : Nat) (s : State) : Out :=
  let go := request i id 1 true false (mgmtRead i id space off count)
  commit s (if space = 0 then access (.read i id space off count) go s else go s)

/-- The words written to the ranger space: MGMT_CAUSE and MGMT_MASK alone take a write (R441). -/
def writeRanger : Nat → List Nat → State → State
  | _, [], s => s
  | key, w :: ws, s =>
    let s := match rowAt key with
      | some r => if r.rw + r.w1c = 0 then s else writeFields .mgmt r key (w % 2 ^ 32) 0xFFFFFFFF s
      | none => s
    writeRanger (key + 4) ws s

/-- The data of a write as one number, first word lowest. -/
def wordsNat : List Nat → Nat
  | [] => 0
  | w :: ws => w % 2 ^ 32 + 2 ^ 32 * wordsNat ws

/-- WRITE; a write that R507 excludes is answered FIELD. -/
def mgmtWrite (i : Fin 4) (id space off : Nat) (words : List Nat) (s : State) : State :=
  let n := words.length
  if !spaceOk space off n then respond i id 2 [] s
  else if space = 1 then respond i id 0 [] (writeRanger (Reg.rangerBase + off) words s)
  else
    let (s, bad) := writeWords .mgmt off n off (2 ^ (4 * n) - 1) (wordsNat words) s
    respond i id (if bad then 2 else 0) [] s

def execWrite (i : Fin 4) (id space off : Nat) (words : List Nat) (s : State) : Out :=
  let go := request i id 3 false false (mgmtWrite i id space off words)
  commit s (if space = 0 then access (.write i id space off words) go s else go s)

/-! ### Maintenance tokens (R434-R436) -/

/-- The activities that hold a token, with their ARGUMENT, by ascending activity code. -/
def holders (s : State) : List (Nat × Nat) :=
  let b := fun (k : Nat) => bitR s Reg.MAINT_HOLDERS k
  (if b 0 then [(1, 0)] else []) ++ (if b 1 then [(2, 0)] else [])
    ++ (if b 2 then [(3, fld s Reg.MAINT_HOLDERS 18 16)] else [])
    ++ ((List.range 8).filter (fun p => b (8 + p))).map (fun p => (4, p))
    ++ (if b 3 then [(5, (s.fw.map (·.bank)).getD 0)] else [])
    ++ (if b 4 then [(6, 0)] else []) ++ (if b 5 then [(7, 0)] else [])

/-- The pairs of activities that R435 does not allow at once, the lower code first. -/
def exclusions : List (Nat × Nat) := [(1, 1), (1, 3), (2, 2), (2, 3), (2, 6), (3, 3), (3, 6), (5, 5), (5, 6), (6, 6), (6, 7), (7, 7)]

/-- Whether a request for an activity conflicts with a holder (R435). -/
def conflicts (a arg : Nat) (h : Nat × Nat) : Bool :=
  if a = 4 ∧ h.1 = 4 then arg == h.2 else exclusions.contains (min a h.1, max a h.1)

/-- The first holder that a request conflicts with. -/
def conflictOf (s : State) (a arg : Nat) : Option (Nat × Nat) := (holders s).find? (conflicts a arg)

/-- A request of management for a token: CONFLICT with the holder, BUSY where its precondition does not hold, or granted
(R434, R436). -/
def takeToken (i : Fin 4) (id a arg : Nat) (ready : Bool) (grant : State → State) (s : State) : State :=
  match conflictOf s a arg with
  | some (c, x) => respond i id 3 [BitVec.ofNat 8 c, BitVec.ofNat 8 x] (orR s Reg.MGMT_CAUSE 0x40)
  | none => if ready then grant s else respond i id 4 [] s

/-- No fault sequence or recovery is under way. -/
def calm (s : State) : Bool := s.faultSeq.phase == .none

/-- MAINT_START of the near-store scrub. -/
def startScrub (i : Fin 4) (id arg : Nat) (s : State) : State :=
  if arg ≠ 0 then respond i id 2 [] s
  else takeToken i id 1 0 (calm s && (List.range 8).all (stackOn s))
    (fun s => respond i id 0 [] (setB (setB s Reg.MAINT_HOLDERS 0 true) Reg.SCRUB_CONTROL 31 true)) s

def execMaintStartScrub (i : Fin 4) (id arg : Nat) (s : State) : Out :=
  commit s (access (.maintStartScrub i id arg) (request i id 2 false false (startScrub i id arg)) s)

/-- MAINT_START of the tile retest. -/
def startRetest (i : Fin 4) (id arg : Nat) (s : State) : State :=
  if arg ≠ 0 then respond i id 2 [] s
  else takeToken i id 2 0 (calm s && inService s && s.ctxs.isEmpty && s.chans.isEmpty)
    (fun s => respond i id 0 [] (tokenGranted (setB s Reg.MAINT_HOLDERS 1 true))) s

def execMaintStartRetest (i : Fin 4) (id arg : Nat) (s : State) : Out :=
  commit s (access (.maintStartRetest i id arg) (request i id 2 false false (startRetest i id arg)) s)

/-- TILE_RETEST_DONE: the dies and engines in service are tested and their maps written (R22, R316). A die that the retest leaves with
fewer than 128 fit sites is left without logical tiles, and the part stays in service: the model's choice (log entry 91). -/
def retestDone (t : SelfTest) (s : State) : State :=
  if bitR s Reg.MAINT_HOLDERS 1 then
    let s := writeDies t (if full s then [0, 1, 2, 3] else [0]) s
    let s := if full s then writeEngines t s else s
    setB s Reg.MAINT_HOLDERS 1 false
  else s

def execTileRetestDone (t : SelfTest) (s : State) : Out := commit s (retestDone t s)

/-- No page of any object lies in a stack. -/
def stackClear (s : State) (st : Nat) : Bool :=
  s.objs.all (fun e => e.2.pages.all (fun p => match p with | .near t _ => t != st | .far _ => true))

/-- MAINT_START of the spare remap: the stack goes out of service (R434). -/
def startRemap (i : Fin 4) (id st : Nat) (s : State) : State :=
  if 8 ≤ st then respond i id 2 [] s
  else takeToken i id 3 st (calm s && inService s && stackClear s st)
    (fun s =>
      let k := Reg.STACK_STATUS st
      let was := fld s k 31 24
      let s := setF (setB (setStack st false none s) Reg.MAINT_HOLDERS 2 true) Reg.MAINT_HOLDERS 18 16 st
      respond i id 0 [] (tokenGranted (setF s k 30 24 (was % 128)))) s

def execMaintStartRemap (i : Fin 4) (id stack : Nat) (s : State) : Out :=
  commit s (access (.maintStartRemap i id stack) (request i id 2 false false (startRemap i id stack)) s)

/-- The stack under remap as it was before: in service with the remap that it had. -/
def stackBack (st : Nat) (s : State) : State :=
  let k := Reg.STACK_STATUS st
  setStack st true (if bitR s k 30 then some (fld s k 29 24) else none) s

/-- SPARE_REMAP_DONE: hard repair is applied to the stack's logged candidates; the stack returns, with a remapped pseudo-channel where
one failed and none other was remapped before; a stack with two is out of service (R176). -/
def remapDone (r : StackTest) (s : State) : State :=
  if bitR s Reg.MAINT_HOLDERS 2 then
    let st := fld s Reg.MAINT_HOLDERS 18 16
    let k := Reg.STACK_STATUS st
    let s := hardRepair st s
    let s := match r with
      | .good => stackBack st s
      | .remapped pc =>
        if bitR s k 30 && fld s k 29 24 != pc.val then setStack st false none s
        else orR (setStack st true (some pc.val) s) Reg.MEM_CAUSE 0x200
      | .failed => setStack st false none s
    setF (setB s Reg.MAINT_HOLDERS 2 false) Reg.MAINT_HOLDERS 18 16 0
  else s

def execSpareRemapDone (r : StackTest) (s : State) : Out := commit s (remapDone r s)

/-- MAINT_START of a lane retrain: the port goes down (R397). -/
def startLane (i : Fin 4) (id p : Nat) (s : State) : State :=
  if 8 ≤ p then respond i id 2 [] s
  else takeToken i id 4 p true
    (fun s =>
      let up := portUp s p
      let s := setPort p 5 0 (portDrop false p (setB s Reg.MAINT_HOLDERS (8 + p) true))
      respond i id 0 [] (tokenGranted (if up then orR s (Reg.PORT_CAUSE p) 2 else s))) s

def execMaintStartLaneRetrain (i : Fin 4) (id port : Nat) (s : State) : Out :=
  commit s (access (.maintStartLaneRetrain i id port) (request i id 2 false false (startLane i id port)) s)

/-- LANE_RETRAIN_DONE: the lanes have been tested and the port has trained in full (R397). -/
def laneDone (p : Nat) (t : TrainInfo) (s : State) : State :=
  if bitR s Reg.MAINT_HOLDERS (8 + p) then
    let s := setB s Reg.MAINT_HOLDERS (8 + p) false
    if portState s p ≠ 5 then s
    else if !bitR s (Reg.PORT_CONTROL p) 31 then setPort p 0 4 s
    else if !fabricOn s then setPort p 0 1 s
    else trainEnd true p t (trainingStarts p s)
  else s

def execLaneRetrainDone (p : PortId) (t : TrainInfo) (s : State) : Out := commit s (laneDone p.val t s)

/-- An activity that MAINT_START started gives up its token before its end: the scrub stops, a map stays as it is, a stack
returns as it was, a port trains. -/
def stopActivity (a arg : Nat) (s : State) : State :=
  if a = 1 then setB (setB s Reg.MAINT_HOLDERS 0 false) Reg.SCRUB_CONTROL 31 false
  else if a = 2 then setB s Reg.MAINT_HOLDERS 1 false
  else if a = 3 then stackBack arg (setF (setB s Reg.MAINT_HOLDERS 2 false) Reg.MAINT_HOLDERS 18 16 0)
  else
    let s := setB s Reg.MAINT_HOLDERS (8 + arg) false
    if portState s arg ≠ 5 then s
    else if !bitR s (Reg.PORT_CONTROL arg) 31 then setPort arg 0 4 s
    else startTraining arg (setPort arg 0 0 s)

/-- MAINT_STOP: of an activity that MAINT_START started and that holds its token (R434). -/
def maintStop (i : Fin 4) (id a arg : Nat) (s : State) : State :=
  if a = 0 ∨ 4 < a then respond i id 2 [] s
  else if (holders s).contains (a, arg) then respond i id 0 [] (stopActivity a arg s)
  else respond i id 0x0B [] s

def execMaintStop (i : Fin 4) (id activity arg : Nat) (s : State) : Out :=
  commit s (request i id 2 false false (maintStop i id activity arg) s)

/-- MAINT_STATUS. -/
def execMaintStatus (i : Fin 4) (id : Nat) (s : State) : Out :=
  commit s (request i id 1 false false (fun s => respond i id 0 (natLe 4 (getR s Reg.MAINT_HOLDERS)) s) s)

/-! ### Firmware banks (R411-R414) -/

/-- The running bank, where the ranger runs one. -/
def runningBank (s : State) : Option Nat :=
  if bitR s Reg.RANGER_STATUS 31 then some (fld s Reg.RANGER_STATUS 30 30) else none

/-- Replace a bank. -/
def putBank (n : Nat) (b : Bank) (s : State) : State :=
  syncRanger { s with store := if n = 0 then { s.store with bankA := b } else { s.store with bankB := b } }

/-- FW_BEGIN. -/
def fwBegin (i : Fin 4) (id n : Nat) (s : State) : State :=
  if 1 < n then respond i id 2 [] s
  else if runningBank s = some n then respond i id 7 [] s
  else takeToken i id 5 n true
    (fun s =>
      let s := putBank n { bankOf s n with state := 3 } { s with fw := some { session := i.val, bank := n, data := [] } }
      respond i id 0 [] (tokenGranted (setB s Reg.MAINT_HOLDERS 3 true))) s

def execFwBegin (i : Fin 4) (id bank : Nat) (s : State) : Out :=
  commit s (request i id 3 true false (fwBegin i id bank) s)

/-- The write that a session has under way. -/
def writeOf (s : State) (i : Fin 4) : Option FwWrite := s.fw.filter (fun w => w.session == i.val)

/-- FW_CHUNK: up to 64 KiB at the next offset. -/
def fwChunk (i : Fin 4) (id off : Nat) (data : Bytes) (s : State) : State :=
  match writeOf s i with
  | none => respond i id 0x0B [] s
  | some w =>
    if off ≠ w.data.length ∨ 65536 < data.length ∨ 2 ^ 23 < off + data.length then respond i id 2 [] s
    else respond i id 0 [] { s with fw := some { w with data := w.data ++ data } }

def execFwChunk (i : Fin 4) (id off : Nat) (data : Bytes) (s : State) : Out :=
  commit s (request i id 3 true false (fwChunk i id off data) s)

/-- What R412 makes of an image: 0 valid, 5 SIGNATURE, 6 ROLLBACK. -/
def imageCheck (s : State) (img : Bytes) : Nat :=
  let len := fieldAt img 8 4
  let key := fieldAt img 7 1
  let pub := slice img 0x10 97
  let sg := slice img (len - 96) 96
  if slice img 0 4 ≠ [0x4A#8, 0x58#8, 0x46#8, 0x57#8] ∨ len < 224 ∨ img.length < len ∨ 2 ^ 23 < len then 5
  else if 4 ≤ key ∨ s.store.revoked.testBit key ∨ sha384 pub ≠ Config.fwKeyDigest key ∨ slice pub 0 1 ≠ [4#8] then 5
  else if !ecdsaVerify (slice pub 1 96) (sha384 (img.take (len - 96))) (beNat (slice sg 0 48)) (beNat (slice sg 48 48)) then 5
  else if fieldAt img 6 1 < s.store.counter then 6
  else 0

/-- FW_COMMIT. -/
def fwCommit (i : Fin 4) (id : Nat) (s : State) : State :=
  match writeOf s i with
  | none => respond i id 0x0B [] s
  | some w =>
    let c := imageCheck s w.data
    let b : Bank := { state := if c = 0 then 1 else 2, svn := fieldAt w.data 6 1, major := fieldAt w.data 5 1,
                      minor := fieldAt w.data 4 1, key := fieldAt w.data 7 1, digest := sha384 (w.data.take (fieldAt w.data 8 4)) }
    let s := putBank w.bank b (setB { s with fw := none } Reg.MAINT_HOLDERS 3 false)
    respond i id c [] (if c = 0 then s else orR s Reg.MGMT_CAUSE 4)

def execFwCommit (i : Fin 4) (id : Nat) (s : State) : Out := commit s (request i id 3 true false (fwCommit i id) s)

/-- FW_PREFER: names a valid bank. -/
def fwPrefer (i : Fin 4) (id n : Nat) (s : State) : State :=
  if 1 < n ∨ (bankOf s n).state ≠ 1 then respond i id 2 [] s
  else respond i id 0 [] (syncRanger { s with store := { s.store with prefer := n } })

def execFwPrefer (i : Fin 4) (id bank : Nat) (s : State) : Out := commit s (request i id 3 true false (fwPrefer i id bank) s)

/-! ### Fuses (R413, R421, R437) -/

/-- A fuse write ends with a fuse that did not read back blown. -/
def fuseFailed (s : State) : State := orR s Reg.MGMT_CAUSE 1

/-- FUSE_ADVANCE: `blown` of the fuses from the counter up to the target read back blown (R413). -/
def fuseAdvance (i : Fin 4) (id target blown : Nat) (s : State) : State :=
  let c := s.store.counter
  let fit := fun (b : Bank) => b.state == 1 && target ≤ b.svn
  if 64 < target then respond i id 2 [] s
  else if target ≤ c || !fit s.store.bankA || !fit s.store.bankB then respond i id 6 [] s
  else takeToken i id 6 0 (!bitR s Reg.CLOCK_STATUS 15)
    (fun s =>
      let n := c + min blown (target - c)
      let s := syncRanger { tokenGranted s with store := { s.store with counter := n } }
      if n = target then respond i id 0 [BitVec.ofNat 8 n] s else respond i id 9 [BitVec.ofNat 8 n] (fuseFailed s)) s

def execFuseAdvance (i : Fin 4) (id target blown : Nat) (s : State) : Out :=
  commit s (request i id 3 false false (fuseAdvance i id target blown) s)

/-- A bank signed with a revoked key is no longer valid (R412). -/
def revokeBank (key : Nat) (b : Bank) : Bank := if b.state = 1 ∧ b.key = key then { b with state := 2 } else b

/-- FUSE_REVOKE: not of the running image's key, nor of the last unrevoked key (R421). -/
def fuseRevoke (i : Fin 4) (id key : Nat) (blown : Bool) (s : State) : State :=
  let running := match runningBank s with
    | some n => (bankOf s n).key == key
    | none => false
  if 4 ≤ key || running || (List.range 4).all (fun k => k == key || s.store.revoked.testBit k) then respond i id 2 [] s
  else takeToken i id 6 0 (!bitR s Reg.CLOCK_STATUS 15)
    (fun s =>
      let s := tokenGranted s
      if blown then
        let st := { s.store with revoked := s.store.revoked ||| 2 ^ key, bankA := revokeBank key s.store.bankA,
                                 bankB := revokeBank key s.store.bankB }
        respond i id 0 [] (syncRanger { s with store := st })
      else respond i id 9 [] (fuseFailed s)) s

def execFuseRevoke (i : Fin 4) (id key : Nat) (blown : Bool) (s : State) : Out :=
  commit s (request i id 3 false false (fuseRevoke i id key blown) s)

/-! ### Keys (R427-R429) -/

/-- KEYS_CHANGED (R441). -/
def keysChanged (s : State) : State := orR s Reg.MGMT_CAUSE 0x20

/-- The key check value: the first 4 bytes of the AES-256 encryption of a zero block (R427). -/
def checkValue (key : Bytes) : Bytes := (natBe 16 (aesBlock (aesKeys (beNat key)) 0)).take 4

/-- What the ranger space shows of a tenant slot. -/
def showKey (slot : Nat) (loaded : Bool) (owner kcv : Nat) (s : State) : State :=
  setR (setR (setB s (Reg.KEY_LOADED (slot / 32)) (slot % 32) loaded) (Reg.KEY_OWNER slot) owner) (Reg.KEY_KCV slot) kcv

/-- KEY_LOAD. -/
def keyLoad (i : Fin 4) (id slot owner : Nat) (key : Bytes) (s : State) : State :=
  if 256 ≤ slot ∨ 2 ^ 32 ≤ owner ∨ key.length ≠ 32 then respond i id 2 [] s
  else
    let v := checkValue key
    respond i id 0 v (keysChanged (showKey slot true owner (leNat v) { s with keys := tput s.keys slot key }))

def execKeyLoad (i : Fin 4) (id slot owner : Nat) (key : Bytes) (s : State) : Out :=
  commit s (request i id 3 false false (keyLoad i id slot owner key) s)

/-- KEY_CLEAR. -/
def keyClear (i : Fin 4) (id slot : Nat) (s : State) : State :=
  if 256 ≤ slot then respond i id 2 [] s
  else respond i id 0 [] (keysChanged (showKey slot false 0 0 { s with keys := tdel s.keys slot }))

def execKeyClear (i : Fin 4) (id slot : Nat) (s : State) : Out := commit s (request i id 3 false false (keyClear i id slot) s)

/-- PITCH_KEY_SET: an uncompressed point. -/
def pitchKeySet (i : Fin 4) (id slot : Nat) (key : Bytes) (s : State) : State :=
  if 8 ≤ slot ∨ key.length ≠ 97 ∨ slice key 0 1 ≠ [4#8] then respond i id 2 [] s
  else respond i id 0 [] (keysChanged (syncRanger { s with pitchKeys := tput s.pitchKeys slot (key.drop 1) }))

def execPitchKeySet (i : Fin 4) (id slot : Nat) (key : Bytes) (s : State) : Out :=
  commit s (request i id 3 false false (pitchKeySet i id slot key) s)

/-- PITCH_KEY_WITHDRAW. -/
def pitchKeyWithdraw (i : Fin 4) (id slot : Nat) (s : State) : State :=
  if 8 ≤ slot then respond i id 2 [] s
  else respond i id 0 [] (keysChanged (syncRanger { s with pitchKeys := tdel s.pitchKeys slot }))

def execPitchKeyWithdraw (i : Fin 4) (id slot : Nat) (s : State) : Out :=
  commit s (request i id 3 false false (pitchKeyWithdraw i id slot) s)

/-! ### The configuration record (R415, R417, R430) -/

/-- Change the store. -/
def storeMod (f : Store → Store) (s : State) : State := syncRanger { s with store := f s.store }

/-- ANCHOR_SET; the first anchor has role ADMIN (R417). -/
def anchorSet (i : Fin 4) (id slot role : Nat) (cert : Bytes) (s : State) : State :=
  if 4 ≤ slot ∨ role = 0 ∨ 3 < role ∨ cert = [] then respond i id 2 [] s
  else
    let r := if s.store.anchors.isEmpty then 3 else role
    respond i id 0 [] (storeMod (fun t => { t with anchors := tput t.anchors slot (r, cert) }) s)

def execAnchorSet (i : Fin 4) (id slot role : Nat) (cert : Bytes) (s : State) : Out :=
  commit s (request i id 3 false true (anchorSet i id slot role cert) s)

/-- ANCHOR_CLEAR: of one slot, or 0xFF for all. -/
def anchorClear (i : Fin 4) (id slot : Nat) (s : State) : State :=
  if slot = 0xFF then respond i id 0 [] (storeMod (fun t => { t with anchors := [] }) s)
  else if 4 ≤ slot then respond i id 2 [] s
  else respond i id 0 [] (storeMod (fun t => { t with anchors := tdel t.anchors slot }) s)

def execAnchorClear (i : Fin 4) (id slot : Nat) (s : State) : Out :=
  commit s (request i id 3 false false (anchorClear i id slot) s)

/-- DENY_SET. -/
def denySet (i : Fin 4) (id entry digest : Nat) (s : State) : State :=
  if 16 ≤ entry ∨ 2 ^ 384 ≤ digest then respond i id 2 [] s
  else respond i id 0 [] (storeMod (fun t => { t with deny := tput t.deny entry digest }) s)

def execDenySet (i : Fin 4) (id entry digest : Nat) (s : State) : Out :=
  commit s (request i id 3 false false (denySet i id entry digest) s)

/-- NET_CONFIG: after the response the open sessions close (R421). -/
def netConfig (i : Fin 4) (id mode : Nat) (addr : Bytes) (s : State) : State :=
  if 4 ≤ mode then respond i id 2 [] s
  else (List.range 4).foldl (fun s k => closeSession k s)
    (respond i id 0 [] (storeMod (fun t => { t with net := some (mode, addr) }) s))

def execNetConfig (i : Fin 4) (id mode : Nat) (addr : Bytes) (s : State) : Out :=
  commit s (request i id 3 false false (netConfig i id mode addr) s)

/-- SEAL (R430). -/
def execSeal (i : Fin 4) (id : Nat) (s : State) : Out :=
  commit s (request i id 3 false false (fun s => respond i id 0 [] (setB s Reg.RANGER_STATUS 28 true)) s)

/-- SCRUB_PERIOD (R421). -/
def scrubPeriod (i : Fin 4) (id hours : Nat) (s : State) : State :=
  if hours = 0 ∨ 255 < hours then respond i id 2 [] s else respond i id 0 [] (setF s Reg.SCRUB_CONTROL 7 0 hours)

def execScrubPeriod (i : Fin 4) (id hours : Nat) (s : State) : Out :=
  commit s (request i id 2 false false (scrubPeriod i id hours) s)

/-! ### The ranger restarts (R410, R437) -/

/-- Every activity stops at its next safe point and releases its token; a bank under write becomes invalid. -/
def stopAll (s : State) : State :=
  let hs := holders s
  let s := hs.foldl (fun s h => if h.1 ≤ 4 then stopActivity h.1 h.2 s else s) s
  let s := endWrite (setF (setB s Reg.MAINT_HOLDERS 5 false) Reg.RANDOM_STATUS 28 27 0)
  if hs.isEmpty then s else orR s Reg.MGMT_CAUSE 0x80

/-- RANGER_RESTART: sessions close, tokens are released, the firmware is verified afresh; during start-up the start fails
(R495). -/
def rangerRestart (s : State) : State :=
  if !netUp s then s
  else
    let s := stopAll ((List.range 4).foldl (fun s k => closeSession k s) s)
    let s := orR (satR s Reg.RANGER_RESTARTS 1) Reg.MGMT_CAUSE 8
    if s.start.running then failedStart 7 0 s
    else if baseCamp s then (bootBank s).getD s
    else match bootBank s with
      | some t => t
      | none => failedStart 4 0 s

def execRangerRestart (s : State) : Out := commit s (rangerRestart s)

/-! ### The restart of the entropy source (R357) -/

/-- ENTROPY_RESTART: after a failure the ranger takes the token as soon as no holder conflicts, and the source is powered off
and on. -/
def entropyRestart (s : State) : State :=
  if netUp s && bitR s Reg.RANDOM_STATUS 30 && !drbgOn s && !bitR s Reg.RANDOM_STATUS 29 && (conflictOf s 7 0).isNone then
    tokenGranted (setF (setB s Reg.MAINT_HOLDERS 5 true) Reg.RANDOM_STATUS 28 27 1)
  else s

def execEntropyRestart (s : State) : Out := commit s (entropyRestart s)

/-- ENTROPY_RESTORED: the 1,024 samples that the source delivers in its start-up test pass, the DRBG is instantiated anew and the token
is released; or a sample fails, the restart begins again, and after three attempts the source is out of service until part reset. -/
def entropyRestored (samples : Nat) (s : State) : State :=
  if bitR s Reg.MAINT_HOLDERS 5 then
    let s := startSource (natBe 128 samples) s
    if drbgOn s then orR (setF (setB s Reg.MAINT_HOLDERS 5 false) Reg.RANDOM_STATUS 28 27 0) Reg.RANDOM_CAUSE 2 else s
  else s

def execEntropyRestored (samples : Nat) (s : State) : Out := commit s (entropyRestored samples s)

/-! ### Attestation (R423, R424, R426) -/

/-- The SHA-384 of a bank's image. -/
def imageDigest (b : Bank) : Bytes := if b.digest = [] then Config.factoryDigest else b.digest

/-- The running image: its digest and SVN; the mask ROM's where no bank runs. -/
def running (s : State) : Bytes × Nat :=
  match runningBank s with
  | some n => (imageDigest (bankOf s n), (bankOf s n).svn)
  | none => (Config.romDigest, 0)

/-- The certificate chain of slot 0 (R423). -/
def certs (s : State) : Bytes := Config.certChain (running s).1 (running s).2

/-- A signature by the alias key (R423). -/
def sign (s : State) (m : Bytes) : Bytes := Config.aliasSign (running s).1 (running s).2 m

/-- A run of 32-bit registers, little-endian. -/
def regBytes (s : State) (ks : List Nat) : Bytes := ks.flatMap (fun k => natLe 4 (getR s k))

/-- Measurement block `n`, 1 to 9 (R424). -/
def measurement (s : State) (n : Nat) : Bytes :=
  let (dg, svn) := running s
  let other := bankOf s (match runningBank s with | some k => 1 - k | none => 1)
  match n with
  | 1 => Config.romDigest
  | 2 => dg
  | 3 => sha384 [BitVec.ofNat 8 svn, BitVec.ofNat 8 s.store.counter]
  | 4 => if other.state = 1 then imageDigest other else List.replicate 48 0#8
  | 5 => sha384 (natLe 1 s.store.revoked ++ Config.factoryDisables)
  | 6 => sha384 ((List.range 8).flatMap (fun k => match tget s.pitchKeys k with
      | some p => 4#8 :: slice p 0 96
      | none => List.replicate 97 0#8))
  | 7 => sha384 ((List.range 4).flatMap (fun k => match tget s.store.anchors k with
      | some (r, c) => natLe 1 r ++ natLe 4 c.length ++ c
      | none => List.replicate 5 0#8) ++ (List.range 16).flatMap (fun k => natBe 48 (tgetD s.store.deny k 0)))
  | 8 => sha384 (regBytes s ((List.range 8).map Reg.KEY_LOADED ++ (List.range 256).map Reg.KEY_OWNER))
  | _ => sha384 (regBytes s ((List.range 576).map Reg.TILE_FITNESS ++ (List.range 52).map Reg.DECODE_FITNESS
      ++ [Reg.MAP_EPOCH 0, Reg.DECODE_EPOCH]))

/-- An SPDM message: version 1.3, code, two parameters, then its content (log entry 17). -/
def spdmMsg (code p1 p2 : Nat) (rest : Bytes) : Bytes := [0x13#8, BitVec.ofNat 8 code, BitVec.ofNat 8 p1, BitVec.ofNat 8 p2] ++ rest

/-- An SPDM ERROR response. -/
def spdmError (e : Nat) : Bytes := spdmMsg 0x7F e 0 []

/-- An SPDM request: the exchange GET_VERSION, GET_CAPABILITIES, NEGOTIATE_ALGORITHMS comes first, and a request out of
order is UnexpectedRequest; `step` is the place a request takes in it. -/
def spdm (i : Fin 4) (id step : Nat) (body : State → State) (s : State) : State :=
  request i id 1 true false (fun s =>
    match tget s.sessions i.val with
    | none => s
    | some x =>
      if x.spdm < step then respond i id 0 (spdmError 4) s
      else
        let n := if step = 0 then 1 else max x.spdm (min (step + 1) 3)
        body { s with sessions := tput s.sessions i.val { x with spdm := n } }) s

/-- GET_VERSION: 1.3 only. -/
def execGetVersion (i : Fin 4) (id : Nat) (s : State) : Out :=
  commit s (spdm i id 0 (respond i id 0 ([0x10#8, 4#8, 0#8, 0#8, 0#8, 1#8] ++ natLe 2 0x1300)) s)

/-- GET_CAPABILITIES: CERT_CAP, CHAL_CAP, MEAS_CAP with signature, MEAS_FRESH_CAP. -/
def execGetCapabilities (i : Fin 4) (id : Nat) (s : State) : Out :=
  commit s (spdm i id 1 (respond i id 0 (spdmMsg 0x61 0 0 (natLe 4 0 ++ natLe 4 0x36))) s)

/-- NEGOTIATE_ALGORITHMS: ECDSA P-384, SHA-384 for both hashes. -/
def execNegotiateAlgorithms (i : Fin 4) (id : Nat) (s : State) : Out :=
  commit s (spdm i id 2 (respond i id 0 (spdmMsg 0x63 0 0 (natLe 4 4 ++ natLe 4 0x80 ++ natLe 4 2))) s)

/-- GET_DIGESTS: the digest of the chain in slot 0. -/
def execGetDigests (i : Fin 4) (id : Nat) (s : State) : Out :=
  commit s (spdm i id 3 (fun s => respond i id 0 (spdmMsg 1 0 1 (sha384 (certs s))) s) s)

/-- GET_CERTIFICATE: a part of the chain, with the bytes that remain. -/
def getCertificate (i : Fin 4) (id off len : Nat) (s : State) : State :=
  let c := certs s
  if c.length ≤ off then respond i id 0 (spdmError 1) s
  else
    let n := min len (c.length - off)
    respond i id 0 (spdmMsg 2 0 0 (natLe 2 n ++ natLe 2 (c.length - off - n) ++ slice c off n)) s

def execGetCertificate (i : Fin 4) (id off len : Nat) (s : State) : Out :=
  commit s (spdm i id 3 (getCertificate i id off len) s)

/-- The responder nonce of a signed response, or the SPDM error Busy while the DRBG does not serve (R426). -/
def withNonce (i : Fin 4) (id : Nat) (k : Bytes → State → State) (s : State) : State :=
  match draw false 32 s with
  | (s, none) => respond i id 0 (spdmError 3) s
  | (s, some b) => k b s

/-- CHALLENGE: the chain's digest, the responder's nonce, and the alias key's signature over them and the client's nonce. -/
def challenge (i : Fin 4) (id : Nat) (nonce : Bytes) (s : State) : State :=
  withNonce i id (fun b s =>
    let m := sha384 (certs s) ++ b
    respond i id 0 (spdmMsg 3 0 1 (m ++ sign s (nonce ++ m))) s) s

def execChallenge (i : Fin 4) (id : Nat) (nonce : Bytes) (s : State) : Out :=
  commit s (spdm i id 3 (challenge i id nonce) s)

/-- The measurement blocks that an index names: 0 their number, 1 to 9 one, 0xFF all; none for another. -/
def measured (s : State) (index : Nat) : Option Bytes :=
  if index = 0 then some [9#8]
  else if index ≤ 9 then some (natLe 1 index ++ measurement s index)
  else if index = 0xFF then some ((upFrom 1 9).flatMap (fun n => natLe 1 n ++ measurement s n))
  else none

/-- GET_MEASUREMENTS, with or without signature. -/
def getMeasurements (i : Fin 4) (id index : Nat) (signed : Bool) (nonce : Bytes) (s : State) : State :=
  match measured s index with
  | none => respond i id 0 (spdmError 1) s
  | some m =>
    if !signed then respond i id 0 (spdmMsg 0x60 0 0 m) s
    else withNonce i id (fun b s => respond i id 0 (spdmMsg 0x60 0 0 (m ++ b ++ sign s (nonce ++ m ++ b))) s) s

def execGetMeasurements (i : Fin 4) (id index : Nat) (signed : Bool) (nonce : Bytes) (s : State) : Out :=
  commit s (spdm i id 3 (getMeasurements i id index signed nonce) s)

end Sys2Proof.Machine
end

