-- ==== Sys2Proof/Machine/Transport.lean ====
section
/-! DEFINITION. Transport streams (R310, R311): synchronisation, packets, PAT and PMT sections, and PES packets. Field
layouts are those of ISO/IEC 13818-1, which R310 names. -/

namespace Sys2Proof.Machine

/-- A byte as a number. -/
def byteAt (b : Bytes) (i : Nat) : Nat := (b.getD i 0#8).toNat

/-- A big-endian 16-bit field. -/
def be16 (b : Bytes) (i : Nat) : Nat := byteAt b i * 256 + byteAt b (i + 1)

/-- CRC-32 with polynomial 0x04C11DB7, most significant bit first; a section with its CRC gives 0 (R310). -/
def crc32Byte (c : Nat) (b : Byte) : Nat :=
  (List.range 8).foldl (fun c _ => if 2 ^ 31 ≤ c then (c * 2 % 2 ^ 32) ^^^ 0x04C11DB7 else c * 2) (c ^^^ (b.toNat * 2 ^ 24))
def crc32Section (bs : Bytes) : Nat := bs.foldl crc32Byte 0xFFFFFFFF

/-! ### Synchronisation -/

/-- Three sync bytes at the packet spacing from offset o. -/
def syncAt (p off : Nat) (b : Bytes) (o : Nat) : Bool :=
  o + off + 2 * p < b.length && (List.range 3).all (fun k => byteAt b (o + off + k * p) == 0x47)

/-- The bytes that the search for synchronisation skips, and whether it is found (R310). -/
def seekSync (p off : Nat) (b : Bytes) : Nat × Bool :=
  match (List.range (b.length - 2 * p - off)).find? (syncAt p off b) with
  | some o => (o, true)
  | none => (b.length - 3 * p, false)

/-- Bytes skipped since a loss of synchronisation enter TS_DISCARDED once it is regained (R310). -/
def countSkipped (n : Nat) (s : State) : State :=
  match chanGet s n with
  | none => s
  | some ch =>
    let d := ch.demux
    let s := if d.lost then satR s Reg.TS_DISCARDED (ceilDiv d.skipped ch.packet) else s
    chanMod n (fun ch => { ch with demux := { ch.demux with lost := false, skipped := 0 } }) s

/-! ### Sections -/

/-- Whole sections at the front of a buffer, and what is left; 0xFF is stuffing. -/
def splitSections : Nat → Bytes → List Bytes × Bytes
  | 0, b => ([], b)
  | k + 1, b =>
    if b.length < 3 then ([], b)
    else if byteAt b 0 = 0xFF then ([], [])
    else
      let len := 3 + be16 b 1 % 4096
      if b.length < len then ([], b)
      else
        let (l, r) := splitSections k (b.drop len)
        (b.take len :: l, r)

/-- A payload enters a section buffer: the sections it completes, and the buffer. -/
def addSection (buf pay : Bytes) (start : Bool) : List Bytes × Bytes :=
  if start then
    let ptr := byteAt pay 0
    let old := if buf.isEmpty then ([], []) else splitSections 64 (buf ++ (pay.drop 1).take ptr)
    let new := splitSections 64 (pay.drop (1 + ptr))
    (old.1 ++ new.1, new.2)
  else if buf.isEmpty then ([], [])
  else splitSections 64 (buf ++ pay)

/-- A section is sound: long syntax, room for its head and CRC, and the CRC holds. -/
def sectionOk (b : Bytes) : Bool := 12 ≤ b.length && (byteAt b 1).testBit 7 && crc32Section b == 0

/-- A section's version_number; whether it applies now. -/
def sectionVer (b : Bytes) : Nat := byteAt b 5 / 2 % 32
def sectionNow (b : Bytes) : Bool := (byteAt b 5).testBit 0

/-- The programmes of a PAT section: number and PMT PID; number 0 names no programme. -/
def patEntries (b : Bytes) : List (Nat × Nat) :=
  ((List.range ((b.length - 12) / 4)).map (fun i => (be16 b (8 + 4 * i), be16 b (10 + 4 * i) % 0x2000))).filter (fun e => e.1 != 0)

/-- A PAT section applies: a new version from its first section, further sections of the same version joined to it. -/
def applyPat (b : Bytes) (d : Demux) : Demux :=
  if byteAt b 0 ≠ 0 ∨ !sectionNow b then d
  else
    let es := patEntries b
    if d.patVer = some (sectionVer b) then { d with pat := d.pat ++ es.filter (fun e => !d.pat.contains e) }
    else { d with pat := es, patVer := some (sectionVer b) }

/-- A registration descriptor of format identifier 'AV01' stands among some descriptors. -/
def hasAv01 : Nat → Bytes → Bool
  | 0, _ => false
  | k + 1, b =>
    if b.length < 2 then false
    else
      let len := byteAt b 1
      (byteAt b 0 == 5 && slice b 2 4 == [0x41#8, 0x56#8, 0x30#8, 0x31#8]) || hasAv01 k (b.drop (2 + len))

/-- The codec of a stream type (R310); 0 for one that is ignored. -/
def codecOfType (ty : Nat) (desc : Bytes) : Nat :=
  if ty = 0x02 then 1 else if ty = 0x1B then 2 else if ty = 0x24 then 3 else if ty = 0x33 then 5
  else if ty = 0x06 ∧ hasAv01 64 desc then 4 else 0

/-- The streams of a PMT section from an offset: PID and codec. -/
def pmtStreams : Nat → Bytes → List (Nat × Nat)
  | 0, _ => []
  | k + 1, b =>
    if b.length < 5 then []
    else
      let len := be16 b 3 % 4096
      (be16 b 1 % 0x2000, codecOfType (byteAt b 0) ((b.drop 5).take len)) :: pmtStreams k (b.drop (5 + len))

/-- The supported streams of a PMT section. -/
def pmtVideo (b : Bytes) : List (Nat × Nat) :=
  let info := be16 b 10 % 4096
  (pmtStreams 256 ((b.take (b.length - 4)).drop (12 + info))).filter (fun e => e.2 != 0)

/-- The stream that MEDIA_OPEN's PID takes (R304): the one named, or the one of lowest PID. -/
def pickStream (pid : Nat) (l : List (Nat × Nat)) : Option (Nat × Nat) :=
  if pid = 0x1FFF then
    l.foldl (fun m e => match m with
      | none => some e
      | some x => if e.1 < x.1 then some e else some x) none
  else l.find? (fun e => e.1 == pid)

/-- The PMT PID of the channel's programme, as the PAT in force gives it (R304, R311). -/
def pmtPid (ch : Channel) : Option (Nat × Nat) :=
  if ch.a.program = 0xFFFF then ch.demux.pat.head? else ch.demux.pat.find? (fun e => e.1 == ch.a.program)

/-! ### Breaks -/

/-- A break: the PES packet still open is discarded, and its picture is dropped with DISCONTINUITY when the decoder reaches it (R308,
R311). -/
def cutStream (n : Nat) (s : State) : State :=
  chanMod n (fun ch => match ch.es.getLast? with
    | some r => if r.openEnd then { ch with es := ch.es.dropLast ++ [breakMark (some r)] }
      else { ch with es := ch.es ++ [breakMark none] }
    | none => { ch with es := [breakMark none] }) (gapClip n s)

/-- A DISCONTINUITY reaches the front of the transport bytes: the partial section and PES packet go, and packets are found
anew (R308). -/
def applyBreak (n : Nat) (s : State) : State :=
  chanMod n (fun ch => { ch with demux := { ch.demux with
    synced := false, lost := false, skipped := 0, patBuf := [], pmtBuf := [], cc := [] } }) (cutStream n s)

/-- The video stream that the PAT and PMT in force give takes effect: a change of PID is a break (R311). -/
def setVideo (n : Nat) (v : Option (Nat × Nat)) (s : State) : State :=
  match chanGet s n with
  | none => s
  | some ch =>
    if v = ch.demux.video then s
    else
      let s := if ch.demux.video.isSome then cutStream n s else s
      chanMod n (fun ch => { ch with
        demux := { ch.demux with video := v }
        codec := if ch.es.all (fun r => r.data.isEmpty) then (v.map (·.2)).getD ch.codec else ch.codec }) s

/-! ### Packets -/

/-- Mark the open PES packet. -/
def markOpen (g : EsRun → EsRun) (ch : Channel) : Channel :=
  match ch.es.getLast? with
  | some r => if r.openEnd then { ch with es := ch.es.dropLast ++ [g r] } else ch
  | none => ch

/-- The 33-bit PTS at an offset of a PES header. -/
def ptsAt (b : Bytes) (o : Nat) : Nat :=
  byteAt b o / 2 % 8 * 2 ^ 30 + be16 b (o + 1) / 2 * 2 ^ 15 + be16 b (o + 3) / 2

/-- An open PES packet of which nothing has come yet. -/
def openRun (codec : Nat) : EsRun :=
  { data := [], header := [], openEnd := true, left := none, damaged := false, scrambled := false, disc := false, pts := none,
    codec := codec }

/-- A PES packet's first bytes, once its header is whole; until then they wait (R310). -/
def pesHead (b : Bytes) (r : EsRun) : EsRun :=
  if 3 ≤ b.length ∧ slice b 0 3 ≠ [0#8, 0#8, 1#8] then { r with data := b, header := [], damaged := true }
  else
    let hl := 9 + byteAt b 8
    if b.length < 9 ∨ b.length < hl then { r with header := b }
    else
      let plen := be16 b 4
      let left := if plen = 0 then none else some (plen + 6 - hl)
      let data := match left with
        | some k => (b.drop hl).take k
        | none => b.drop hl
      let left' := left.map (· - data.length)
      { r with data := data, header := [], left := left', openEnd := left' != some 0,
               pts := if (byteAt b 7).testBit 7 then some (ptsAt b 9) else none }

/-- A PES packet begins (R310). -/
def pesStart (scr : Bool) (pay : Bytes) (ch : Channel) : Channel :=
  let ch := markOpen (fun r => { r with openEnd := false }) ch
  let run := openRun ((ch.demux.video.map (·.2)).getD 0)
  { ch with es := ch.es ++ [if scr then { run with data := pay, scrambled := true } else pesHead pay run] }

/-- A payload goes on with the open PES packet. -/
def pesMore (scr : Bool) (pay : Bytes) (ch : Channel) : Channel :=
  markOpen (fun r =>
    if scr then { r with data := r.data ++ pay, scrambled := true }
    else if !r.header.isEmpty then pesHead (r.header ++ pay) r
    else
      let data := match r.left with
        | some k => pay.take k
        | none => pay
      let left := r.left.map (· - data.length)
      { r with data := r.data ++ data, left := left, openEnd := left != some 0 }) ch

/-- The PES packet that a lost packet belongs to is damaged: the open one, or one of which only later packets come (R310). -/
def pesDamage (ch : Channel) : Channel :=
  match ch.es.getLast? with
  | some r =>
    if r.openEnd then markOpen (fun r => { r with damaged := true }) ch
    else { ch with es := ch.es ++ [{ openRun ((ch.demux.video.map (·.2)).getD 0) with damaged := true }] }
  | none => { ch with es := [{ openRun ((ch.demux.video.map (·.2)).getD 0) with damaged := true }] }

/-- Sections complete on the PAT or PMT PID: bad ones are counted, good ones apply (R310, R311). -/
def takeSections (n : Nat) (pat : Bool) (l : List Bytes) (s : State) : State :=
  l.foldl (fun s b =>
    if !sectionOk b then orR (satR s Reg.SECTIONS_BAD 1) Reg.MEDIA_CAUSE 8
    else match chanGet s n with
      | none => s
      | some ch =>
        if pat then
          let s := chanMod n (fun ch => { ch with demux := applyPat b ch.demux }) s
          match (chanGet s n).bind pmtPid with
          | none => setVideo n none s
          | some p =>
            if some p = pmtPid ch then s
            else chanMod n (fun ch => { ch with demux := { ch.demux with pmtBuf := [], pmtVer := none } }) (setVideo n none s)
        else
          match pmtPid ch with
          | none => s
          | some p =>
            if byteAt b 0 = 2 ∧ be16 b 3 = p.1 ∧ sectionNow b ∧ ch.demux.pmtVer ≠ some (sectionVer b) then
              setVideo n (pickStream ch.a.pid (pmtVideo b))
                (chanMod n (fun ch => { ch with demux := { ch.demux with pmtVer := some (sectionVer b) } }) s)
            else s) s

/-- A packet's payload goes where its PID says. -/
def routePayload (n pid : Nat) (start scr : Bool) (pay : Bytes) (s : State) : State :=
  match chanGet s n with
  | none => s
  | some ch =>
    if pid = 0 then
      let (l, r) := addSection ch.demux.patBuf pay start
      takeSections n true l (chanMod n (fun ch => { ch with demux := { ch.demux with patBuf := r } }) s)
    else if (pmtPid ch).map (·.2) = some pid then
      let (l, r) := addSection ch.demux.pmtBuf pay start
      takeSections n false l (chanMod n (fun ch => { ch with demux := { ch.demux with pmtBuf := r } }) s)
    else if ch.demux.video.map (·.1) = some pid then chanMod n (if start then pesStart scr pay else pesMore scr pay) s
    else s

/-- One transport packet of 188 bytes (R310). -/
def parsePacket (n : Nat) (b : Bytes) (s : State) : State :=
  let pid := be16 b 1 % 0x2000
  let start := (byteAt b 1).testBit 6
  let scr := byteAt b 3 / 64 != 0
  let afc := byteAt b 3 / 16 % 4
  let cc := byteAt b 3 % 16
  let s := addR s Reg.TS_PACKETS 1
  match chanGet s n with
  | none => s
  | some ch =>
    let mine := ch.demux.video.map (·.1) == some pid
    let damage := fun (s : State) => if mine then chanMod n pesDamage s else s
    let said := 2 ≤ afc && byteAt b 4 != 0 && (byteAt b 5).testBit 7
    if (byteAt b 1).testBit 7 then damage s
    else if afc % 2 = 0 then
      if said then chanMod n (fun ch => { ch with demux := { ch.demux with cc := tdel ch.demux.cc pid } }) s else s
    else
      let pay := b.drop (if afc = 3 then 5 + byteAt b 4 else 4)
      let keep := fun (dup : Bool) (s : State) => chanMod n (fun ch => { ch with demux := { ch.demux with cc := tput ch.demux.cc pid (cc, dup) } }) s
      match tget ch.demux.cc pid with
      | some (last, dup) =>
        if cc = last ∧ !dup ∧ !said then keep true s
        else
          let s := if !said && cc != (last + 1) % 16 then damage s else s
          routePayload n pid start scr pay (keep false s)
      | none => routePayload n pid start scr pay (keep false s)

/-- TS_PACKET: the next transport packet of a channel is parsed; before that a break takes effect, synchronisation is found, or
bytes that can belong to no packet are skipped (R308, R310). -/
def tsPacket (n : Nat) (s : State) : State :=
  match chanGet s n with
  | none => s
  | some ch =>
    if s.faultSeq.phase ≠ .none ∨ !awake s then s
    else match ch.raw with
      | [] => s
      | (true, b) :: t => applyBreak n (chanMod n (fun ch => { ch with raw := if b.isEmpty then t else (false, b) :: t }) s)
      | (false, b) :: t =>
        let p := ch.packet
        let off := if ch.a.input = 0 then 0 else 4
        let over_ := !t.isEmpty || (ch.endFed && ch.feeds.isEmpty)
        let cut := fun (k : Nat) (s : State) => chanMod n (fun ch => { ch with raw := (false, b.drop k) :: t }) s
        if ch.demux.synced then
          if b.length < p then (if over_ then settleChan n (chanMod n (fun ch => { ch with raw := t }) s) else s)
          else if byteAt b off ≠ 0x47 then
            orR (chanMod n (fun ch => { ch with demux := { ch.demux with synced := false, lost := true, skipped := 0 } }) s) Reg.MEDIA_CAUSE 4
          else parsePacket n ((b.drop off).take 188) (cut p s)
        else
          let (k, found) := seekSync p off b
          let skip := fun (k : Nat) (s : State) =>
            chanMod n (fun ch => { ch with demux := { ch.demux with skipped := ch.demux.skipped + k } }) s
          if found then
            countSkipped n (chanMod n (fun ch => { ch with demux := { ch.demux with synced := true } }) (skip k (cut k s)))
          else if over_ then settleChan n (countSkipped n (skip b.length (chanMod n (fun ch => { ch with raw := t }) s)))
          else skip k (cut k s)

def execTsPacket (n : ChanId) (s : State) : Out := commit s (tsPacket n.val s)

end Sys2Proof.Machine
end

