-- ==== Sys2Proof/Machine/Wake.lean ====
section
/-! DEFINITION. What waited and is performed: the accesses that came in SLEEP, in their order, once the part is ACTIVE (R485);
the requests that waited for the tile-store port of a GATED tile, in their order, once it is open (R28). -/

namespace Sys2Proof.Machine

/-- What an access that waited does; no other command waits in SLEEP, or at a port. -/
def perform (i : Instr) (s : State) : State :=
  match i with
  | .registerWrite v off size be val => (barWrite v off size be val s).1
  | .lowHalfRead v off size => barRead v off size s
  | .powerStateRead v => powerStateRead v s
  | .bar2Read off len => bar2Read off len s
  | .bar2Write off data => bar2Write off data s
  | .dmaComplete f q cid => dmaComplete f.val q cid s
  | .hostProtocol f major minor => hostProtocol f.val major minor s
  | .qpEnable f q => qpEnable f.val q s
  | .qpDisable f q => qpDisable f.val q s
  | .sqTail f q tail => sqTail f.val q tail s
  | .cqHead f q head => cqHead f.val q head s
  | .recover v => recoverWrite v s
  | .chipFaultClear v => chipFaultClear v s
  | .napWrite v on => napWrite v on s
  | .portEnable p on => portEnable p.val on s
  | .propose => trayReg proposeReq s
  | .wake => trayReg wakeReq s
  | .sleepReady on => trayReg (sleepReady on) s
  | .read i id space off count => request i id 1 true false (mgmtRead i id space off count) s
  | .write i id space off words => request i id 3 false false (mgmtWrite i id space off words) s
  | .maintStartScrub i id arg => request i id 2 false false (startScrub i id arg) s
  | .maintStartRetest i id arg => request i id 2 false false (startRetest i id arg) s
  | .maintStartRemap i id st => request i id 2 false false (startRemap i id st) s
  | .maintStartLaneRetrain i id p => request i id 2 false false (startLane i id p) s
  | _ => s

/-- Once the part has left SLEEP, what waited is performed. -/
def flush (s : State) : State :=
  if sleeping s then s else s.waiting.foldl (fun s i => perform i s) { s with waiting := [] }

/-- STORE_PORT_OPEN: the port opens; the requests that it held are served in order of arrival, then those that waited behind a BAR2
write (R28, R148). -/
def storePortOpen (site : Nat) (s : State) : State :=
  let (l, s) := portOpens site s
  let s := l.foldl (fun s i => perform i s) s
  s.bar2q.foldl (fun s i => perform i s) { s with bar2q := [] }

def execStorePortOpen (site : SiteId) (s : State) : Out := commit s (storePortOpen site.val s)

/-- SLEEP_WAKE: a wake cause arrives (R485). `peers` tells that it is a cause of the part's own, for which it sends WAKE (R451). -/
def execSleepWake (peers : Bool) (s : State) : Out := commit s (sleepWake peers s)

/-- WOKE. -/
def execWoke (s : State) : Out := commit s (flush (woke s))

/-- POWER_STATE_READ. -/
def execPowerStateRead (v : View) (s : State) : Out := commit s (access (.powerStateRead v) (powerStateRead v) s)

/-- WAKE_FRAME. -/
def execWakeFrame (slot : Fin 16) (reason round : Nat) (s : State) : Out :=
  commit s (frameIn slot.val 1 [reason, round]
    (fun s => wakeIn (if reason % 256 = 3 ∨ reason % 256 = 4 then sawRound (round % 256) s else s)) s)

end Sys2Proof.Machine
end

