-- ==== Sys2Proof/Machine/Dispatch.lean ====
section
/-! DEFINITION. The meaning of every command: one arm for each constructor of `Instr`. -/

namespace Sys2Proof.Machine

def exec (i : Instr) (s : State) : Host.Outcome State Fault Refusal :=
  match i with
  | .powerOn x1 => Sys2Proof.Machine.execPowerOn x1 s
  | .perstNAssert => Sys2Proof.Machine.execPerstNAssert s
  | .supplyOkFall => Sys2Proof.Machine.execSupplyOkFall s
  | .partResetEnd x1 => Sys2Proof.Machine.execPartResetEnd x1 s
  | .earlyService x1 => Sys2Proof.Machine.execEarlyService x1 s
  | .fullService x1 => Sys2Proof.Machine.execFullService x1 s
  | .startTimeout => Sys2Proof.Machine.execStartTimeout s
  | .supplyDip x1 => Sys2Proof.Machine.execSupplyDip x1 s
  | .clocksRestored x1 x2 => Sys2Proof.Machine.execClocksRestored x1 x2 s
  | .supplyReset x1 => Sys2Proof.Machine.execSupplyReset x1 s
  | .thermalTrip => Sys2Proof.Machine.execThermalTrip s
  | .powerControllerTick x1 x2 => Sys2Proof.Machine.execPowerControllerTick x1 x2 s
  | .powerOver => Sys2Proof.Machine.execPowerOver s
  | .slewStep x1 => Sys2Proof.Machine.execSlewStep x1 s
  | .cdcTimeout x1 x2 => Sys2Proof.Machine.execCdcTimeout x1 x2 s
  | .partDozeEntry => Sys2Proof.Machine.execPartDozeEntry s
  | .dozeWake => Sys2Proof.Machine.execDozeWake s
  | .napEntry => Sys2Proof.Machine.execNapEntry s
  | .napExit => Sys2Proof.Machine.execNapExit s
  | .sleepWake x1 => Sys2Proof.Machine.execSleepWake x1 s
  | .woke => Sys2Proof.Machine.execWoke s
  | .fabRefclkLoss => Sys2Proof.Machine.execFabRefclkLoss s
  | .pcieRefclkLoss => Sys2Proof.Machine.execPcieRefclkLoss s
  | .functionLevelReset x1 => Sys2Proof.Machine.execFunctionLevelReset x1 s
  | .pfFunctionLevelReset => Sys2Proof.Machine.execPfFunctionLevelReset s
  | .vfEnableClear => Sys2Proof.Machine.execVfEnableClear s
  | .registerWrite x1 x2 x3 x4 x5 => Sys2Proof.Machine.execRegisterWrite x1 x2 x3 x4 x5 s
  | .lowHalfRead x1 x2 x3 => Sys2Proof.Machine.execLowHalfRead x1 x2 x3 s
  | .powerStateRead x1 => Sys2Proof.Machine.execPowerStateRead x1 s
  | .bar2Read x1 x2 => Sys2Proof.Machine.execBar2Read x1 x2 s
  | .bar2Write x1 x2 => Sys2Proof.Machine.execBar2Write x1 x2 s
  | .hostProtocol x1 x2 x3 => Sys2Proof.Machine.execHostProtocol x1 x2 x3 s
  | .qpEnable x1 x2 => Sys2Proof.Machine.execQpEnable x1 x2 s
  | .qpDisable x1 x2 => Sys2Proof.Machine.execQpDisable x1 x2 s
  | .sqTail x1 x2 x3 => Sys2Proof.Machine.execSqTail x1 x2 x3 s
  | .cqHead x1 x2 x3 => Sys2Proof.Machine.execCqHead x1 x2 x3 s
  | .commandFetch x1 x2 => Sys2Proof.Machine.execCommandFetch x1 x2 s
  | .recover x1 => Sys2Proof.Machine.execRecover x1 s
  | .chipFaultClear x1 => Sys2Proof.Machine.execChipFaultClear x1 s
  | .napWrite x1 x2 => Sys2Proof.Machine.execNapWrite x1 x2 s
  | .portEnable x1 x2 => Sys2Proof.Machine.execPortEnable x1 x2 s
  | .propose => Sys2Proof.Machine.execPropose s
  | .wake => Sys2Proof.Machine.execWake s
  | .sleepReady x1 => Sys2Proof.Machine.execSleepReady x1 s
  | .instanceCreate x1 x2 => Sys2Proof.Machine.execInstanceCreate x1 x2 s
  | .instanceDestroy x1 x2 => Sys2Proof.Machine.execInstanceDestroy x1 x2 s
  | .instanceReset x1 x2 => Sys2Proof.Machine.execInstanceReset x1 x2 s
  | .instanceResetDone x1 => Sys2Proof.Machine.execInstanceResetDone x1 s
  | .instanceFreeze x1 x2 => Sys2Proof.Machine.execInstanceFreeze x1 x2 s
  | .instanceFrozen x1 => Sys2Proof.Machine.execInstanceFrozen x1 s
  | .instanceSave x1 x2 x3 x4 => Sys2Proof.Machine.execInstanceSave x1 x2 x3 x4 s
  | .instanceRestore x1 x2 x3 x4 => Sys2Proof.Machine.execInstanceRestore x1 x2 x3 x4 s
  | .instanceThaw x1 x2 => Sys2Proof.Machine.execInstanceThaw x1 x2 s
  | .dma x1 x2 x3 x4 x5 => Sys2Proof.Machine.execDma x1 x2 x3 x4 x5 s
  | .dmaComplete x1 x2 x3 => Sys2Proof.Machine.execDmaComplete x1 x2 x3 s
  | .objectCreate x1 x2 => Sys2Proof.Machine.execObjectCreate x1 x2 s
  | .objectFree x1 x2 => Sys2Proof.Machine.execObjectFree x1 x2 s
  | .place x1 x2 => Sys2Proof.Machine.execPlace x1 x2 s
  | .pageCopy => Sys2Proof.Machine.execPageCopy s
  | .migrationCommit x1 x2 x3 => Sys2Proof.Machine.execMigrationCommit x1 x2 x3 s
  | .farPool x1 x2 x3 => Sys2Proof.Machine.execFarPool x1 x2 x3 s
  | .loadPitch x1 x2 x3 => Sys2Proof.Machine.execLoadPitch x1 x2 x3 s
  | .loadBegin => Sys2Proof.Machine.execLoadBegin s
  | .pitchLoadComplete => Sys2Proof.Machine.execPitchLoadComplete s
  | .start x1 x2 => Sys2Proof.Machine.execStart x1 x2 s
  | .unload x1 x2 x3 => Sys2Proof.Machine.execUnload x1 x2 x3 s
  | .unloadTakesEffect x1 => Sys2Proof.Machine.execUnloadTakesEffect x1 s
  | .replace x1 x2 x3 x4 => Sys2Proof.Machine.execReplace x1 x2 x3 x4 s
  | .replaceHandover x1 => Sys2Proof.Machine.execReplaceHandover x1 s
  | .post x1 x2 x3 x4 x5 => Sys2Proof.Machine.execPost x1 x2 x3 x4 x5 s
  | .deltaAttach x1 x2 => Sys2Proof.Machine.execDeltaAttach x1 x2 s
  | .codecCode x1 x2 => Sys2Proof.Machine.execCodecCode x1 x2 s
  | .codingRunDone x1 x2 => Sys2Proof.Machine.execCodingRunDone x1 x2 s
  | .codecTableGet x1 x2 x3 => Sys2Proof.Machine.execCodecTableGet x1 x2 x3 s
  | .codecTableSet x1 x2 x3 => Sys2Proof.Machine.execCodecTableSet x1 x2 x3 s
  | .serveOpen x1 x2 => Sys2Proof.Machine.execServeOpen x1 x2 s
  | .serveClose x1 x2 => Sys2Proof.Machine.execServeClose x1 x2 s
  | .closed x1 => Sys2Proof.Machine.execClosed x1 s
  | .submitBatch x1 x2 x3 => Sys2Proof.Machine.execSubmitBatch x1 x2 x3 s
  | .batchStart x1 => Sys2Proof.Machine.execBatchStart x1 s
  | .batchComplete x1 => Sys2Proof.Machine.execBatchComplete x1 s
  | .peg x1 x2 x3 x4 x5 x6 => Sys2Proof.Machine.execPeg x1 x2 x3 x4 x5 x6 s
  | .pegCopyDone x1 x2 => Sys2Proof.Machine.execPegCopyDone x1 x2 s
  | .renew x1 x2 x3 x4 => Sys2Proof.Machine.execRenew x1 x2 x3 x4 s
  | .unpeg x1 x2 x3 => Sys2Proof.Machine.execUnpeg x1 x2 x3 s
  | .unpegDone x1 x2 => Sys2Proof.Machine.execUnpegDone x1 x2 s
  | .pegExpiry x1 x2 => Sys2Proof.Machine.execPegExpiry x1 x2 s
  | .cacheStage x1 x2 x3 x4 => Sys2Proof.Machine.execCacheStage x1 x2 x3 x4 s
  | .cacheCommit x1 x2 => Sys2Proof.Machine.execCacheCommit x1 x2 s
  | .committed x1 => Sys2Proof.Machine.execCommitted x1 s
  | .cacheDrop x1 x2 x3 => Sys2Proof.Machine.execCacheDrop x1 x2 x3 s
  | .mediaOpen x1 x2 => Sys2Proof.Machine.execMediaOpen x1 x2 s
  | .mediaFeed x1 x2 x3 x4 x5 => Sys2Proof.Machine.execMediaFeed x1 x2 x3 x4 x5 s
  | .feedCopy x1 => Sys2Proof.Machine.execFeedCopy x1 s
  | .mediaRelease x1 x2 x3 => Sys2Proof.Machine.execMediaRelease x1 x2 x3 s
  | .mediaClose x1 x2 x3 => Sys2Proof.Machine.execMediaClose x1 x2 x3 s
  | .shuffleOpen x1 x2 => Sys2Proof.Machine.execShuffleOpen x1 x2 s
  | .shuffleClose x1 x2 => Sys2Proof.Machine.execShuffleClose x1 x2 s
  | .randomGet x1 x2 x3 x4 => Sys2Proof.Machine.execRandomGet x1 x2 x3 x4 s
  | .set x1 => Sys2Proof.Machine.execSet x1 s
  | .addg x1 => Sys2Proof.Machine.execAddg x1 s
  | .repeatFig x1 => Sys2Proof.Machine.execRepeatFig x1 s
  | .load x1 => Sys2Proof.Machine.execLoad x1 s
  | .blockLoadComplete x1 x2 => Sys2Proof.Machine.execBlockLoadComplete x1 x2 s
  | .table x1 => Sys2Proof.Machine.execTable x1 s
  | .tableLoadComplete x1 x2 => Sys2Proof.Machine.execTableLoadComplete x1 x2 s
  | .stream x1 => Sys2Proof.Machine.execStream x1 s
  | .streamComplete x1 x2 => Sys2Proof.Machine.execStreamComplete x1 x2 s
  | .quiesced => Sys2Proof.Machine.execQuiesced s
  | .recoveryHoldExpiry => Sys2Proof.Machine.execRecoveryHoldExpiry s
  | .recoveryComplete x1 => Sys2Proof.Machine.execRecoveryComplete x1 s
  | .convert x1 => Sys2Proof.Machine.execConvert x1 s
  | .add x1 => Sys2Proof.Machine.execAdd x1 s
  | .subtract x1 => Sys2Proof.Machine.execSubtract x1 s
  | .multiply x1 => Sys2Proof.Machine.execMultiply x1 s
  | .fusedMultiplyAdd x1 => Sys2Proof.Machine.execFusedMultiplyAdd x1 s
  | .minimum x1 => Sys2Proof.Machine.execMinimum x1 s
  | .maximum x1 => Sys2Proof.Machine.execMaximum x1 s
  | .equal x1 => Sys2Proof.Machine.execEqual x1 s
  | .notEqual x1 => Sys2Proof.Machine.execNotEqual x1 s
  | .less x1 => Sys2Proof.Machine.execLess x1 s
  | .lessOrEqual x1 => Sys2Proof.Machine.execLessOrEqual x1 s
  | .greater x1 => Sys2Proof.Machine.execGreater x1 s
  | .greaterOrEqual x1 => Sys2Proof.Machine.execGreaterOrEqual x1 s
  | .laneSum x1 => Sys2Proof.Machine.execLaneSum x1 s
  | .laneMaximum x1 => Sys2Proof.Machine.execLaneMaximum x1 s
  | .exp2 x1 => Sys2Proof.Machine.execExp2 x1 s
  | .log2 x1 => Sys2Proof.Machine.execLog2 x1 s
  | .reciprocal x1 => Sys2Proof.Machine.execReciprocal x1 s
  | .reciprocalSquareRoot x1 => Sys2Proof.Machine.execReciprocalSquareRoot x1 s
  | .tanh x1 => Sys2Proof.Machine.execTanh x1 s
  | .sigmoid x1 => Sys2Proof.Machine.execSigmoid x1 s
  | .gelu x1 => Sys2Proof.Machine.execGelu x1 s
  | .silu x1 => Sys2Proof.Machine.execSilu x1 s
  | .pitchTable x1 => Sys2Proof.Machine.execPitchTable x1 s
  | .gradientQuantiser x1 => Sys2Proof.Machine.execGradientQuantiser x1 s
  | .vectorComplete x1 x2 => Sys2Proof.Machine.execVectorComplete x1 x2 s
  | .send x1 => Sys2Proof.Machine.execSend x1 s
  | .sendComplete x1 x2 => Sys2Proof.Machine.execSendComplete x1 x2 s
  | .receive x1 => Sys2Proof.Machine.execReceive x1 s
  | .receiveComplete x1 x2 => Sys2Proof.Machine.execReceiveComplete x1 x2 s
  | .fetch x1 => Sys2Proof.Machine.execFetch x1 s
  | .fetchComplete x1 x2 => Sys2Proof.Machine.execFetchComplete x1 x2 s
  | .store x1 => Sys2Proof.Machine.execStore x1 s
  | .storeComplete x1 x2 => Sys2Proof.Machine.execStoreComplete x1 x2 s
  | .wait x1 => Sys2Proof.Machine.execWait x1 s
  | .postToken x1 => Sys2Proof.Machine.execPostToken x1 s
  | .remotePostDelivery x1 x2 => Sys2Proof.Machine.execRemotePostDelivery x1 x2 s
  | .sleep x1 => Sys2Proof.Machine.execSleep x1 s
  | .tileDoze x1 => Sys2Proof.Machine.execTileDoze x1 s
  | .timedWake x1 => Sys2Proof.Machine.execTimedWake x1 s
  | .yieldFig x1 => Sys2Proof.Machine.execYieldFig x1 s
  | .contextResume x1 => Sys2Proof.Machine.execContextResume x1 s
  | .vote x1 => Sys2Proof.Machine.execVote x1 s
  | .chipFlag x1 => Sys2Proof.Machine.execChipFlag x1 s
  | .endStep x1 => Sys2Proof.Machine.execEndStep x1 s
  | .stallLong x1 => Sys2Proof.Machine.execStallLong x1 s
  | .meshFlit x1 x2 x3 x4 x5 x6 x7 => Sys2Proof.Machine.execMeshFlit x1 x2 x3 x4 x5 x6 x7 s
  | .localArrival x1 x2 x3 x4 => Sys2Proof.Machine.execLocalArrival x1 x2 x3 x4 s
  | .storePortOpen x1 => Sys2Proof.Machine.execStorePortOpen x1 s
  | .storePortClose x1 => Sys2Proof.Machine.execStorePortClose x1 s
  | .ticketOverdue x1 => Sys2Proof.Machine.execTicketOverdue x1 s
  | .farAccessError x1 x2 => Sys2Proof.Machine.execFarAccessError x1 x2 s
  | .temperatureReadout x1 => Sys2Proof.Machine.execTemperatureReadout x1 s
  | .scrubPass => Sys2Proof.Machine.execScrubPass s
  | .packRead x1 x2 x3 => Sys2Proof.Machine.execPackRead x1 x2 x3 s
  | .packWrite x1 x2 x3 => Sys2Proof.Machine.execPackWrite x1 x2 x3 s
  | .entropyWait x1 x2 x3 => Sys2Proof.Machine.execEntropyWait x1 x2 x3 s
  | .saltRefill x1 => Sys2Proof.Machine.execSaltRefill x1 s
  | .up x1 x2 x3 => Sys2Proof.Machine.execUp x1 x2 x3 s
  | .down x1 x2 x3 => Sys2Proof.Machine.execDown x1 x2 x3 s
  | .voteTimeout x1 => Sys2Proof.Machine.execVoteTimeout x1 s
  | .sweepBegin x1 => Sys2Proof.Machine.execSweepBegin x1 s
  | .sweepPack x1 x2 => Sys2Proof.Machine.execSweepPack x1 x2 s
  | .sweepEnd x1 => Sys2Proof.Machine.execSweepEnd x1 s
  | .stepComplete x1 => Sys2Proof.Machine.execStepComplete x1 s
  | .deltaRecord x1 => Sys2Proof.Machine.execDeltaRecord x1 s
  | .deltaWait x1 => Sys2Proof.Machine.execDeltaWait x1 s
  | .ack x1 x2 x3 x4 => Sys2Proof.Machine.execAck x1 x2 x3 x4 s
  | .ackTimeout x1 => Sys2Proof.Machine.execAckTimeout x1 s
  | .tsPacket x1 => Sys2Proof.Machine.execTsPacket x1 s
  | .decodePicture x1 x2 => Sys2Proof.Machine.execDecodePicture x1 x2 s
  | .pictureDecoded x1 x2 x3 x4 => Sys2Proof.Machine.execPictureDecoded x1 x2 x3 x4 s
  | .sampleWritten x1 => Sys2Proof.Machine.execSampleWritten x1 s
  | .windowBegin x1 => Sys2Proof.Machine.execWindowBegin x1 s
  | .deckCopy x1 => Sys2Proof.Machine.execDeckCopy x1 s
  | .entropyFail => Sys2Proof.Machine.execEntropyFail s
  | .entropyRestart => Sys2Proof.Machine.execEntropyRestart s
  | .entropyRestored x1 => Sys2Proof.Machine.execEntropyRestored x1 s
  | .drbgReseed => Sys2Proof.Machine.execDrbgReseed s
  | .job x1 x2 x3 => Sys2Proof.Machine.execJob x1 x2 x3 s
  | .delta x1 x2 x3 x4 => Sys2Proof.Machine.execDelta x1 x2 x3 x4 s
  | .nack x1 x2 => Sys2Proof.Machine.execNack x1 x2 s
  | .replayTimeout x1 => Sys2Proof.Machine.execReplayTimeout x1 s
  | .retryExhausted x1 => Sys2Proof.Machine.execRetryExhausted x1 s
  | .linkUp x1 x2 => Sys2Proof.Machine.execLinkUp x1 x2 s
  | .quiet x1 => Sys2Proof.Machine.execQuiet x1 s
  | .laneRetrainDone x1 x2 => Sys2Proof.Machine.execLaneRetrainDone x1 x2 s
  | .tlsHandshake x1 => Sys2Proof.Machine.execTlsHandshake x1 s
  | .sessionIdleTimeout x1 => Sys2Proof.Machine.execSessionIdleTimeout x1 s
  | .sessionClose x1 => Sys2Proof.Machine.execSessionClose x1 s
  | .rangerRestart => Sys2Proof.Machine.execRangerRestart s
  | .hello x1 x2 x3 => Sys2Proof.Machine.execHello x1 x2 x3 s
  | .read x1 x2 x3 x4 x5 => Sys2Proof.Machine.execRead x1 x2 x3 x4 x5 s
  | .write x1 x2 x3 x4 x5 => Sys2Proof.Machine.execWrite x1 x2 x3 x4 x5 s
  | .maintStartScrub x1 x2 x3 => Sys2Proof.Machine.execMaintStartScrub x1 x2 x3 s
  | .maintStartRetest x1 x2 x3 => Sys2Proof.Machine.execMaintStartRetest x1 x2 x3 s
  | .tileRetestDone x1 => Sys2Proof.Machine.execTileRetestDone x1 s
  | .maintStartRemap x1 x2 x3 => Sys2Proof.Machine.execMaintStartRemap x1 x2 x3 s
  | .spareRemapDone x1 => Sys2Proof.Machine.execSpareRemapDone x1 s
  | .maintStartLaneRetrain x1 x2 x3 => Sys2Proof.Machine.execMaintStartLaneRetrain x1 x2 x3 s
  | .maintStop x1 x2 x3 x4 => Sys2Proof.Machine.execMaintStop x1 x2 x3 x4 s
  | .maintStatus x1 x2 => Sys2Proof.Machine.execMaintStatus x1 x2 s
  | .fwBegin x1 x2 x3 => Sys2Proof.Machine.execFwBegin x1 x2 x3 s
  | .fwChunk x1 x2 x3 x4 => Sys2Proof.Machine.execFwChunk x1 x2 x3 x4 s
  | .fwCommit x1 x2 => Sys2Proof.Machine.execFwCommit x1 x2 s
  | .fwPrefer x1 x2 x3 => Sys2Proof.Machine.execFwPrefer x1 x2 x3 s
  | .fuseAdvance x1 x2 x3 x4 => Sys2Proof.Machine.execFuseAdvance x1 x2 x3 x4 s
  | .fuseRevoke x1 x2 x3 x4 => Sys2Proof.Machine.execFuseRevoke x1 x2 x3 x4 s
  | .keyLoad x1 x2 x3 x4 x5 => Sys2Proof.Machine.execKeyLoad x1 x2 x3 x4 x5 s
  | .keyClear x1 x2 x3 => Sys2Proof.Machine.execKeyClear x1 x2 x3 s
  | .pitchKeySet x1 x2 x3 x4 => Sys2Proof.Machine.execPitchKeySet x1 x2 x3 x4 s
  | .pitchKeyWithdraw x1 x2 x3 => Sys2Proof.Machine.execPitchKeyWithdraw x1 x2 x3 s
  | .anchorSet x1 x2 x3 x4 x5 => Sys2Proof.Machine.execAnchorSet x1 x2 x3 x4 x5 s
  | .anchorClear x1 x2 x3 => Sys2Proof.Machine.execAnchorClear x1 x2 x3 s
  | .denySet x1 x2 x3 x4 => Sys2Proof.Machine.execDenySet x1 x2 x3 x4 s
  | .netConfig x1 x2 x3 x4 => Sys2Proof.Machine.execNetConfig x1 x2 x3 x4 s
  | .seal x1 x2 => Sys2Proof.Machine.execSeal x1 x2 s
  | .scrubPeriod x1 x2 x3 => Sys2Proof.Machine.execScrubPeriod x1 x2 x3 s
  | .getVersion x1 x2 => Sys2Proof.Machine.execGetVersion x1 x2 s
  | .getCapabilities x1 x2 => Sys2Proof.Machine.execGetCapabilities x1 x2 s
  | .negotiateAlgorithms x1 x2 => Sys2Proof.Machine.execNegotiateAlgorithms x1 x2 s
  | .getDigests x1 x2 => Sys2Proof.Machine.execGetDigests x1 x2 s
  | .getCertificate x1 x2 x3 x4 => Sys2Proof.Machine.execGetCertificate x1 x2 x3 x4 s
  | .challenge x1 x2 x3 => Sys2Proof.Machine.execChallenge x1 x2 x3 s
  | .getMeasurements x1 x2 x3 x4 x5 => Sys2Proof.Machine.execGetMeasurements x1 x2 x3 x4 x5 s
  | .proposeFrame x1 x2 x3 => Sys2Proof.Machine.execProposeFrame x1 x2 x3 s
  | .voteFrame x1 x2 x3 x4 => Sys2Proof.Machine.execVoteFrame x1 x2 x3 x4 s
  | .voteDeadline => Sys2Proof.Machine.execVoteDeadline s
  | .commitFrame x1 x2 x3 => Sys2Proof.Machine.execCommitFrame x1 x2 x3 s
  | .commitTimeout => Sys2Proof.Machine.execCommitTimeout s
  | .lastCallEnd => Sys2Proof.Machine.execLastCallEnd s
  | .wakeFrame x1 x2 x3 => Sys2Proof.Machine.execWakeFrame x1 x2 x3 s
  | .budgetFrame x1 x2 x3 x4 => Sys2Proof.Machine.execBudgetFrame x1 x2 x3 x4 s
  | .budgetTimer => Sys2Proof.Machine.execBudgetTimer s
  | .presenceFrame x1 x2 x3 => Sys2Proof.Machine.execPresenceFrame x1 x2 x3 s
  | .presenceTimer => Sys2Proof.Machine.execPresenceTimer s
  | .memberExpiry x1 => Sys2Proof.Machine.execMemberExpiry x1 s
  | .alone => Sys2Proof.Machine.execAlone s
  | .aloneRetry x1 => Sys2Proof.Machine.execAloneRetry x1 s
  | .busOffRecovery => Sys2Proof.Machine.execBusOffRecovery s
  | .flit x1 x2 x3 x4 => Sys2Proof.Machine.execFlit x1 x2 x3 x4 s
  | .ignoredFrame x1 => Sys2Proof.Machine.execIgnoredFrame x1 s
  | .busError x1 x2 => Sys2Proof.Machine.execBusError x1 x2 s
  | .thermalWaitTimeout => Sys2Proof.Machine.execThermalWaitTimeout s
  | .powerOff => Sys2Proof.Machine.execPowerOff s

end Sys2Proof.Machine
end

