-- ==== Sys2Proof/Safety.lean ====
section
/-! DEFINITION. The terms in which the claims speak: what a completed command leaves, what it keeps, and the canonical
forms. -/

namespace Sys2Proof.Machine

/-- The state that a command leaves whose effect took `s` to `u`: the interrupt tree and the DOZE timer have followed, and the
queue is what it was. -/
def after (s u : State) : State := { settle s u with pending := s.pending }

/-- The command completes: `exec` answers the next state that follows from an effect of which `P` holds. -/
def Goes (c : Instr) (s : State) (P : State → Prop) : Prop := ∃ u, exec c s = .next (after s u) ∧ P u

/-- A host command completes with a result code, its DETAIL and its extra word, posted after an effect of which `P` holds. -/
def Ends (c : Instr) (s : State) (h : CmdHdr) (code detail extra : Nat) (P : State → Prop) : Prop :=
  ∃ u, exec c s = .next (after s (finish h code detail extra u)) ∧ P u

/-- The pieces of the state beside the registers, the time base and the queue. -/
inductive Piece where
  | freeCtr | out | cycle | latch | held | host | hostDead | pba
  | msixOff | vfEnable | linkUp | pins | power | start | faultSeq | qps
  | taken | owed | ctxFn | chanFn | sample | siteMap | diesOn | ports | bar2q
  | ctxs | sites | mesh | loads | loading | tileStore | errs | near
  | poison | farPoison | farUnits | softRows | granOwner | objs | ptab | places | farPool | uns | nextUns
  | dmas | runs | salts | keys | drbg | drbgReqs | drbgAt | pitchKeys
  | fab | train | endings | lastUnit | serves | chans | engines | decks | instCmd
  | spills | frozen | sessions | store | fw | tray | waiting
  deriving DecidableEq, Repr

/-- One piece of the state is as before; of a memory, every byte reads as before. -/
def Piece.kept (s u : State) : Piece → Prop
  | .freeCtr => u.freeCtr = s.freeCtr
  | .out => u.out = s.out
  | .cycle => u.cycle = s.cycle
  | .latch => u.latch = s.latch
  | .held => u.held = s.held
  | .host => ∀ a, mget u.host a = mget s.host a
  | .hostDead => u.hostDead = s.hostDead
  | .pba => u.pba = s.pba
  | .msixOff => u.msixOff = s.msixOff
  | .vfEnable => u.vfEnable = s.vfEnable
  | .linkUp => u.linkUp = s.linkUp
  | .pins => u.pins = s.pins
  | .power => u.power = s.power
  | .start => u.start = s.start
  | .faultSeq => u.faultSeq = s.faultSeq
  | .qps => u.qps = s.qps
  | .taken => u.taken = s.taken
  | .owed => u.owed = s.owed
  | .ctxFn => u.ctxFn = s.ctxFn
  | .chanFn => u.chanFn = s.chanFn
  | .sample => u.sample = s.sample
  | .siteMap => u.siteMap = s.siteMap
  | .diesOn => u.diesOn = s.diesOn
  | .ports => u.ports = s.ports
  | .bar2q => u.bar2q = s.bar2q
  | .ctxs => u.ctxs = s.ctxs
  | .sites => u.sites = s.sites
  | .mesh => u.mesh = s.mesh
  | .loads => u.loads = s.loads
  | .loading => u.loading = s.loading
  | .tileStore => ∀ a, mget u.tileStore a = mget s.tileStore a
  | .errs => u.errs = s.errs
  | .near => ∀ a, mget u.near a = mget s.near a
  | .poison => u.poison = s.poison
  | .farPoison => u.farPoison = s.farPoison
  | .farUnits => u.farUnits = s.farUnits
  | .softRows => u.softRows = s.softRows
  | .granOwner => u.granOwner = s.granOwner
  | .objs => u.objs = s.objs
  | .ptab => ∀ a, mget u.ptab a = mget s.ptab a
  | .places => u.places = s.places
  | .farPool => u.farPool = s.farPool
  | .uns => u.uns = s.uns
  | .nextUns => u.nextUns = s.nextUns
  | .dmas => u.dmas = s.dmas
  | .runs => u.runs = s.runs
  | .lastUnit => u.lastUnit = s.lastUnit
  | .salts => u.salts = s.salts
  | .keys => u.keys = s.keys
  | .drbg => u.drbg = s.drbg
  | .drbgReqs => u.drbgReqs = s.drbgReqs
  | .drbgAt => u.drbgAt = s.drbgAt
  | .pitchKeys => u.pitchKeys = s.pitchKeys
  | .fab => u.fab = s.fab
  | .train => u.train = s.train
  | .endings => u.endings = s.endings
  | .serves => u.serves = s.serves
  | .chans => u.chans = s.chans
  | .engines => u.engines = s.engines
  | .decks => u.decks = s.decks
  | .instCmd => u.instCmd = s.instCmd
  | .spills => u.spills = s.spills
  | .frozen => u.frozen = s.frozen
  | .sessions => u.sessions = s.sessions
  | .store => u.store = s.store
  | .fw => u.fw = s.fw
  | .tray => u.tray = s.tray
  | .waiting => u.waiting = s.waiting

/-- The frame of an effect: every register but those of `ks` reads as before, every piece but those of `ps` is as before, and
so is the time base. -/
def Only (s u : State) (ks : List Nat) (ps : List Piece) : Prop :=
  (∀ k, k ∉ ks → getR u k = getR s k) ∧ (∀ p, p ∉ ps → p.kept s u) ∧ u.timeBase = s.timeBase

/-- Every byte of memory reads as before: near store, tile stores, host memory, placement tables. -/
def SameMemory (s u : State) : Prop := Piece.near.kept s u ∧ Piece.tileStore.kept s u ∧ Piece.host.kept s u ∧ Piece.ptab.kept s u

/-- A host command that was fetched may run: no fault sequence, the part awake, not QUIESCED (R376, R467, R481). -/
def Ready (c : Instr) (s : State) : Prop :=
  c ∈ s.taken ∧ s.faultSeq.phase ≠ .sequence ∧ awake s = true ∧ quiescedNow s = false

/-- The state in which a host command has its effect: it is no longer among those that wait, and the part leaves NAP where the
command ends NAP (R483). -/
def took (c : Instr) (s : State) : State :=
  let s := { s with taken := s.taken.erase c }
  if napEnds s c then endNap s else s

/-- A write of this register in this view stores its RW bits and has no other effect: no other access code, no effect of its own. -/
def plainWrite (v : View) (r : RegRow) (k : Nat) : Bool :=
  r.wo == 0 && r.w1c == 0 && r.rwl == 0 && !excluded v k
    && !([Reg.HOST_PROTOCOL (viewFn v), Reg.FAULT_STATUS, Reg.RECOVERY_REPORT, Reg.FAULT_CONTROL, Reg.POWER_CONTROL, Reg.TRAY_CONTROL,
         Reg.TRAY_CONFIG, Reg.POWER_LIMIT].contains k)
    && !(0x700100 ≤ k && k < 0x700500 && k % 0x80 == 4)
    && !(Reg.msixBlock (viewFn v) ≤ k && k < Reg.msixBlock (viewFn v) + 0x800)
    && (match qpPart (viewFn v) k with | some (_, o) => o != 0x10 | none => true)
    && (viewFn v == 0 || !(0x40 ≤ k % 0x1000 && k % 0x1000 < 0x50))

/-- A function has no work: no command, load, context, channel, deck, coding run or placement request. -/
def fnIdle (s : State) (f : Nat) : Prop :=
  (∀ i ∈ s.taken, takenOf f i = false) ∧ (∀ r ∈ s.loads, r.hdr.fn.val ≠ f)
    ∧ (∀ g, s.loading = some g → g.req.hdr.fn.val ≠ f) ∧ ctxsOf s f = [] ∧ (∀ e ∈ s.chans, e.2.fn ≠ f) ∧ (∀ e ∈ s.decks, e.2.fn ≠ f)
    ∧ (∀ r ∈ s.runs, r.fn ≠ f) ∧ (∀ r ∈ s.places, r.fn ≠ f)

/-- The registers that a reset of a function's instance writes (R508). -/
def fnResetRegs (f : Nat) : List Nat :=
  [Reg.INST_STATE f, Reg.HOST_PROTOCOL f, Reg.ACCESS_LOG f]
    ++ (List.range 64).flatMap (fun q => [Reg.SQ_BASE f q, Reg.CQ_BASE f q, Reg.QP_CONFIG f q, Reg.QP_STATUS f q])

/-- Every resident context has a number below 64 and slots 0-3 on its tiles (R110, R144). -/
def ContextsWf (s : State) : Prop :=
  ∀ c x, ctxGet s c = some x → c < 64 ∧ ∀ site t, tget x.tiles site = some t → t.slot < 4

/-- The caller of a site issues its next figure, of which `e` holds what it works on, with fewer than 16 in flight, and meets no soft
error. -/
def Issues (s : State) (site : SiteId) (e : Env) : Prop :=
  nextIssue s site.val = some e ∧ e.c < 64 ∧ e.t.slot < 4 ∧ inFlight s e.site < 16 ∧ s.errs = []

/-- The registers that every issue may write: counts, the index of the next figure, and the status words (R34, R66, R144). -/
def issueRegs (e : Env) : List Nat :=
  [Reg.FIGURES_ISSUED e.site, Reg.HOLD_CYCLES e.site, Reg.CTX_ID e.site e.t.slot, Reg.CALLER_STATUS e.site,
   Reg.ARR_STATUS e.site 0, Reg.ARR_STATUS e.site 1, Reg.ARR_STATUS e.site 2, Reg.ARR_STATUS e.site 3]

/-- The figure counts as issued, and the next one is the one that follows it. -/
def Issued (s u : State) (e : Env) : Prop :=
  getR u (Reg.FIGURES_ISSUED e.site) = (getR s (Reg.FIGURES_ISSUED e.site) + 1) % 2 ^ 64
    ∧ nextFig u e.c e.site = (advanceLoops e.t.loops (e.index + 1)).2 % 2 ^ 14

/-- A figure of these ranges may fly: no mark conflicts, and every range lies in a region and off the sources of latched blocks (R117,
R125, R136). -/
def MayFly (s : State) (e : Env) (reads writes : List (Nat × Nat)) : Prop :=
  marksClash (siteGet s e.site).flights reads writes = false
    ∧ rangeCodes e { reads := reads, writes := writes } = []

/-- The figure is in flight with this work. -/
def Flies (s u : State) (e : Env) (w : Work) (dur : Nat) (reads writes : List (Nat × Nat)) (post : Option Nat) : Prop :=
  (siteGet u e.site).flights = (siteGet s e.site).flights
    ++ [{ id := (siteGet s e.site).nextId, ctx := e.c, work := w, due := s.cycle + dur, reads := reads, writes := writes, post := post }]

/-- The caller stands in a hold of a kind that begins now (R141). -/
def Holds (s u : State) (e : Env) (kind : Nat) : Prop :=
  (siteGet u e.site).hold = some { kind := kind, since := s.cycle, raised := false } ∧ fld u (Reg.CALLER_STATUS e.site) 15 12 = kind

/-- A flight of a site is due and its context's work goes on. -/
def Due (s : State) (site : SiteId) (id : Nat) (f : Flight) : Prop :=
  flightOf s site.val id = some f ∧ healthy s = true ∧ f.due ≤ s.cycle

/-- The registers that a completion may write beside its own: the status words. -/
def statusRegs (site : Nat) : List Nat :=
  [Reg.CALLER_STATUS site, Reg.ARR_STATUS site 0, Reg.ARR_STATUS site 1, Reg.ARR_STATUS site 2, Reg.ARR_STATUS site 3]

/-- The rows of the VECTOR operations, each with its OP (R82, R120). -/
def vectorRows : List ((SiteId → Instr) × Nat) :=
  [(.convert, 0), (.add, 1), (.subtract, 2), (.multiply, 3), (.fusedMultiplyAdd, 4), (.minimum, 5), (.maximum, 6),
   (.equal, 8), (.notEqual, 9), (.less, 10), (.lessOrEqual, 11), (.greater, 12), (.greaterOrEqual, 13), (.laneSum, 16),
   (.laneMaximum, 17), (.exp2, 32), (.log2, 33), (.reciprocal, 34), (.reciprocalSquareRoot, 35), (.tanh, 36),
   (.sigmoid, 37), (.gelu, 38), (.silu, 39), (.pitchTable, 40), (.gradientQuantiser, 48)]

/-- A session whose request the opcode admits: it is open and past HELLO, of the role or a higher one, the network served (R416-R421). -/
def Asks (s : State) (i : Fin 4) (x : Session) (role : Nat) (camp inst : Bool) : Prop :=
  tget s.sessions i.val = some x ∧ netUp s = true ∧ (baseCamp s = true → camp = true) ∧ x.hello = true ∧ role ≤ x.role
    ∧ (x.install = true → inst = true)

/-- The state in which a request is answered: its session's idle time begins anew. -/
def asked (s : State) (i : Fin 4) (x : Session) : State := { s with sessions := tput s.sessions i.val { x with last := s.timeBase } }

/-- A request is answered with a STATUS and data, in a state that meets `P`. -/
def Answers (c : Instr) (s : State) (i : Fin 4) (id status : Nat) (data : Bytes) (P : State → Prop) : Prop :=
  ∃ v, exec c s = .next (after s (respond i id status data v)) ∧ P v

/-- A health test has failed: the DRBG stops with its state gone, the failure is counted, and in a restart of the source the next attempt
begins, or after the third the source is out (R356, R357). -/
def HealthFailed (s u : State) : Prop :=
  u.drbg = none ∧ drbgOn u = false ∧ getR u Reg.ENTROPY_FAILS = min (getR s Reg.ENTROPY_FAILS + 1) 0xFFFFFFFF
    ∧ bitR u Reg.RANDOM_CAUSE 0 = true
    ∧ (bitR s Reg.MAINT_HOLDERS 5 = true →
        (fld s Reg.RANDOM_STATUS 28 27 < 3 → fld u Reg.RANDOM_STATUS 28 27 = fld s Reg.RANDOM_STATUS 28 27 + 1)
        ∧ (fld s Reg.RANDOM_STATUS 28 27 = 3 → bitR u Reg.RANDOM_STATUS 29 = true ∧ bitR u Reg.RANDOM_STATUS 30 = false
            ∧ bitR u Reg.MAINT_HOLDERS 5 = false ∧ bitR u Reg.RANDOM_CAUSE 2 = true))
    ∧ Only s u [Reg.MAINT_HOLDERS, Reg.RANDOM_STATUS, Reg.ENTROPY_FAILS, Reg.RANDOM_CAUSE] [.drbg, .drbgReqs, .freeCtr]
    ∧ (bitR s Reg.MAINT_HOLDERS 5 = false → getR u Reg.MAINT_HOLDERS = getR s Reg.MAINT_HOLDERS)

/-- The ranger registers that show the store, the sessions and the pitch keys. -/
def rangerRegs : List Nat := [Reg.BANK_A_STATUS, Reg.BANK_B_STATUS, Reg.RANGER_STATUS, Reg.PITCH_KEYS, Reg.FW_KEYS]

/-- The lowest session number that is free (R416). -/
def freeSession (s : State) : Option Nat := (List.range 4).find? (fun k => (tget s.sessions k).isNone)

/-- An SPDM request is answered in this state: the session has come as far in the exchange as it needs (R423). -/
def spdmAsked (s : State) (i : Fin 4) (x : Session) (step : Nat) : State :=
  let y : Session := { x with last := s.timeBase, spdm := if step = 0 then 1 else max x.spdm (min (step + 1) 3) }
  { s with sessions := tput (asked s i x).sessions i.val y }

/-- The registers that a frame on the tray bus may write (R456-R459). -/
def trayRegs : List Nat :=
  [Reg.TRAY_STATUS, Reg.TRAY_CAUSE, Reg.TRAY_ERRORS, Reg.TRAY_CONTROL, Reg.TRAY_POWER, Reg.POWER_LIMIT, Reg.FRAMES_RX, Reg.FRAMES_TX,
   Reg.FRAMES_IGNORED, Reg.ROUNDS, Reg.ROUND_ABORTS]

/-- What a frame may change: the tray registers, the tray state, the allowance, and a free value of REC. -/
def TrayOnly (s u : State) : Prop := Only s u trayRegs [.tray, .power, .freeCtr, .out]

/-- A replayed flit: it goes out now, once more (R390). -/
def replayed (s : State) (t : TxFlit) : TxFlit := { t with sentAt := s.timeBase, replays := t.replays + 1 }

/-- Flits that a replay sends again: all of them at version 1.0, the oldest alone above it (R390). -/
def replayCount (s : State) (p : Nat) (l : List TxFlit) : Nat := if fld s (Reg.PORT_STATUS p) 28 27 = 0 then l.length else 1

/-- The sparse memories are in canonical form. -/
def MemoriesWf (s : State) : Prop :=
  Memory.wf s.near = true ∧ Memory.wf s.tileStore = true ∧ Memory.wf s.host = true ∧ Memory.wf s.ptab = true

/-- The DOZE timer does not run ahead: while a condition of R482 fails, it stands at the present time. -/
def DozeTimerRight (s : State) : Prop := dozeCond s = true ∨ s.power.quietSince = s.timeBase

end Sys2Proof.Machine
end

