-- ==== Sys2Proof/Certificates/Slice0/Obligations.lean ====
section
/-! DEFINITION. The claims about the model, for the provers. -/

open Sys2Proof Sys2Proof.Machine

/-- Resets: a part reset returns the registers to their Reset values, and the loss of the supply keeps the dip and wear records alone.
A part reset returns every register that R492 does not keep to its Reset value, records its cause, and leaves no context, key,
session, near-store byte, tile-store byte or DRBG. `keptReg` are RESET_CAUSE, FAILED_STARTS, the dip counts and log, CDC_TIMEOUTS,
CDC_LAST and the tray block. A supply reset during a start is also a failed start.
Loss of the always-on supply resets everything but DIP_WEAR, and so does its rise, after which TRAY_STATUS shows the sampled slot.
What a function's host memory holds is not the part's and stays.
Points that the spec leaves open are the model's choice: log entries 5 and 25. -/
def Obligations.ResetsLeaveResetValues : Prop :=
  ((∀ (c : Instr) (s : State) (cause : Nat),
      ((c = .perstNAssert ∧ cause = 1 ∧ s.pins.perstN = true)
        ∨ (c = .supplyOkFall ∧ cause = 2 ∧ s.pins.supplyOk = true ∧ s.start.running = false)
        ∨ (∃ core, c = .supplyReset core ∧ cause = 2 ∧ (core && sleeping s) = false ∧ s.start.running = false)
        ∨ (c = .thermalTrip ∧ cause = 3 ∧ s.start.inReset = false)) →
      s.pins.aon = true →
      Goes c s (fun u =>
        u.start.inReset = true ∧ u.start.thermalWait = (cause == 3) ∧ (∀ k, keptReg k = false → getR u k = resetOf k)
          ∧ bitR u Reg.RESET_CAUSE cause = true
          ∧ (∀ k, keptReg k = true → k ≠ Reg.RESET_CAUSE → (sleeping s = false ∨ k < Reg.TRAY_STATUS) → getR u k = getR s k)
          ∧ u.ctxs = [] ∧ u.keys = [] ∧ u.sessions = [] ∧ u.drbg = none ∧ u.taken = [] ∧ u.owed = []
          ∧ (∀ a, mget u.near a = 0#8 ∧ mget u.tileStore a = 0#8 ∧ mget u.host a = mget s.host a)
          ∧ u.timeBase = s.timeBase ∧ u.pitchKeys = s.pitchKeys))
    ∧ (∀ (c : Instr) (s : State),
      ((c = .supplyOkFall ∧ s.pins.supplyOk = true) ∨ (∃ core, c = .supplyReset core ∧ (core && sleeping s) = false)) →
      s.pins.aon = true → s.start.running = true →
      Goes c s (fun u =>
        u.start.inReset = true ∧ getR u Reg.FAILED_STARTS = min (getR s Reg.FAILED_STARTS + 1) 0xFFFFFFFF
          ∧ fld u Reg.BASECAMP_REASON 23 16 = 8 ∧ bitR u Reg.POWER_CAUSE 8 = true ∧ bitR u Reg.RESET_CAUSE 2 = true)))
  ∧ ((∀ (s : State) (slot : Fin 16), Goes (.powerOn slot) s (fun u =>
        (∀ k, k ≠ Reg.DIP_WEAR → k ≠ Reg.TRAY_STATUS → getR u k = resetOf k) ∧ getR u Reg.DIP_WEAR = getR s Reg.DIP_WEAR
          ∧ fld u Reg.TRAY_STATUS 27 24 = slot.val ∧ bitR u Reg.TRAY_STATUS 31 = true ∧ u.pins.slotId = slot.val ∧ u.pins.aon = true
          ∧ u.start.inReset = true ∧ u.timeBase = 0 ∧ u.ctxs = [] ∧ u.host = s.host ∧ u.store.anchors = s.store.anchors))
    ∧ (∀ s : State, Goes .powerOff s (fun u =>
        (∀ k, k ≠ Reg.DIP_WEAR → getR u k = resetOf k) ∧ getR u Reg.DIP_WEAR = getR s Reg.DIP_WEAR ∧ u.pins.aon = false
          ∧ u.start.inReset = true ∧ u.ctxs = [] ∧ u.host = s.host ∧ u.store.anchors = s.store.anchors)))

/-- The start: at the end of part reset the ranger boots a bank, and the dies that pass bring early and then full service.
The end of a part reset boots the preferred bank, or else the other with FW_FALLBACK; it goes on to step 5 with the PCIe link
up, the DRBG serving where the source's samples pass the health tests, and stopped otherwise; with no bank that boots, the part is
in base camp.
Early and full service, each once its tests pass: the service bit and the step of POWER_STATE, the tile frequency and its target,
the cause bit, the time since part reset in milliseconds; at full service FAILED_STARTS returns to 0 and SEAL_AT_START is applied.
A start that ran out of time is a failed start: its code, the count, the cause bit; the start runs again from step 5, or, from
base camp or as the third, the part is in base camp.
Points that the spec leaves open are the model's choice: log entry 74. -/
def Obligations.StartsSucceedOrFail : Prop :=
  ((∀ (s : State) (mode : Fin 256), s.pins.aon = true → s.start.inReset = true → s.start.toCamp = none →
      (∀ n, (n = s.store.prefer ∧ bankBoots s n = true)
          ∨ (n = 1 - s.store.prefer ∧ bankBoots s n = true ∧ bankBoots s s.store.prefer = false) →
        Goes (.partResetEnd mode) s (fun u =>
          u.start.inReset = false ∧ u.start.running = true ∧ u.start.t0 = s.timeBase ∧ u.linkUp = true ∧ u.pins.portMode = mode.val
            ∧ fld u Reg.POWER_STATE 28 26 = 5 ∧ bitR u Reg.RANGER_STATUS 31 = true ∧ bitR u Reg.RANGER_STATUS 30 = (n == 1)
            ∧ bitR u Reg.RANGER_STATUS 29 = (n != s.store.prefer) ∧ fld u Reg.RANGER_STATUS 23 16 = (bankOf s n).svn % 256
            ∧ (let pass := samplesOk (samples s).1 && samplesOk (samples (samples s).2).1
               bitR u Reg.RANDOM_STATUS 31 = pass ∧ u.drbg.isSome = pass ∧ bitR u Reg.RANDOM_STATUS 30 = true)
            ∧ SameMemory s u))
      ∧ (bankBoots s s.store.prefer = false → bankBoots s (1 - s.store.prefer) = false →
        Goes (.partResetEnd mode) s (fun u =>
          u.start.inReset = false ∧ u.start.running = false ∧ bitR u Reg.POWER_STATE 23 = true
            ∧ bitR u Reg.BASECAMP_REASON 31 = true)))
  ∧ ((∀ (s : State) (t : SelfTest), atStep s 5 = true → s.start.thermalWait = false → startCheck t [0] [0, 1] false = none →
      Goes (.earlyService t) s (fun u =>
        bitR u Reg.POWER_STATE 25 = true ∧ fld u Reg.POWER_STATE 28 26 = 7 ∧ fld u Reg.CLOCK_STATUS 31 24 = 0x30
          ∧ fld u Reg.CLOCK_STATUS 23 16 = 0x30 ∧ bitR u Reg.POWER_CAUSE 6 = true ∧ getR u Reg.EARLY_MS = startMs s % 2 ^ 32
          ∧ u.start = s.start ∧ SameMemory s u ∧ u.ctxs = s.ctxs ∧ u.objs = s.objs))
    ∧ (∀ (s : State) (t : SelfTest), atStep s 7 = true → early s = true → full s = false →
        startCheck t [1, 2, 3] (upFrom 2 6) true = none →
      Goes (.fullService t) s (fun u =>
        bitR u Reg.POWER_STATE 24 = true ∧ fld u Reg.POWER_STATE 28 26 = 0 ∧ fld u Reg.CLOCK_STATUS 31 24 = 0x50
          ∧ fld u Reg.CLOCK_STATUS 23 16 = 0x50 ∧ bitR u Reg.POWER_CAUSE 7 = true ∧ getR u Reg.FULL_MS = startMs s % 2 ^ 32
          ∧ getR u Reg.FAILED_STARTS = 0 ∧ (s.store.sealAtStart = true → isSealed u = true) ∧ u.start.running = false
          ∧ SameMemory s u ∧ u.ctxs = s.ctxs ∧ u.objs = s.objs))))
  ∧ (∀ (c : Instr) (s : State) (code ms : Nat) (hot : Bool),
    ((c = .startTimeout ∧ code = 5 ∧ ms = 30000 ∧ hot = false) ∨ (c = .thermalWaitTimeout ∧ code = 6 ∧ ms = 60000 ∧ hot = true)) →
    s.start.running = true → s.start.inReset = false → s.start.thermalWait = hot → s.start.began + ms * msAon ≤ s.timeBase →
    (early s = false → s.start.fromCamp = false → getR s Reg.FAILED_STARTS < 2 →
      Goes c s (fun u =>
        fld u Reg.BASECAMP_REASON 23 16 = code ∧ getR u Reg.FAILED_STARTS = getR s Reg.FAILED_STARTS + 1
          ∧ bitR u Reg.POWER_CAUSE 8 = true ∧ fld u Reg.POWER_STATE 28 26 = 5 ∧ u.start.running = true ∧ u.start.began = s.timeBase
          ∧ u.siteMap = [] ∧ SameMemory s u))
    ∧ (early s = false → (s.start.fromCamp = true ∨ 2 ≤ getR s Reg.FAILED_STARTS) →
      Goes c s (fun u => bitR u Reg.POWER_STATE 23 = true ∧ bitR u Reg.POWER_STATE 24 = false ∧ bitR u Reg.POWER_STATE 25 = false
        ∧ bitR u Reg.BASECAMP_REASON 31 = true ∧ u.start.running = false ∧ u.start.toCamp = none ∧ u.faultSeq.phase = .none)))

/-- A supply dip halves the clocks and is logged; the loss of a reference clock and a stuck crossing act as the spec says.
A dip halves the clocks and opens a dip event; once the supply has stayed above VWARN for 5 ms (125,000 AON cycles) the clocks
are restored, the event is counted and the oldest entry of the log is overwritten.
Crossings and reference clocks: a transfer that saw no far clock is logged and counted, and is a chip fault where it served a
context; a register read ends with Completer Abort, a BAR2 read with ones, a DMA with a data error, and a register write is dropped.
Loss of the fabric clock takes every port down with DOWN_REASON 1, of the PCIe clock the host link.
The power controller: at a tick over the limit the frequency steps down unless it stands at the floor, and the time over the
limit there counts towards POWER_OVER; a step is 100 MHz.
Points that the spec leaves open are the model's choice: log entries 75 and 76. -/
def Obligations.ClocksFollowTheSupply : Prop :=
  (((∀ (s : State) (die : Fin 5), s.pins.aon = true → s.start.inReset = false → sleeping s = false → s.power.dip = none →
      Goes (.supplyDip die) s (fun u =>
        fld u Reg.CLOCK_STATUS 15 14 = 2 ∧ bitR u Reg.POWER_CAUSE 0 = true ∧ u.power.slew = none
          ∧ u.power.dip = some { began := s.timeBase, lastFall := s.timeBase, again := false }
          ∧ (∀ b, 1 ≤ b → bitR u Reg.POWER_CAUSE b = (decide (b < 32) && bitR s Reg.POWER_CAUSE b))
          ∧ Only s u [Reg.CLOCK_STATUS, Reg.POWER_CAUSE] [.power]))
    ∧ (∀ (s : State) (die : Fin 5) (low : Nat) (d : Dip), s.power.dip = some d → d.lastFall + 5 * msAon ≤ s.timeBase → d.again = false →
      Goes (.clocksRestored die low) s (fun u =>
        let k := Reg.DIP_LOG (getR s Reg.DIP_COUNT % 16)
        bitR u Reg.CLOCK_STATUS 15 = false ∧ bitR u Reg.POWER_CAUSE 1 = true ∧ u.power.dip = none
          ∧ getR u Reg.DIP_COUNT = min (getR s Reg.DIP_COUNT + 1) 0xFFFFFFFF ∧ getR u Reg.DIP_WEAR = min (getR s Reg.DIP_WEAR + 1) 0xFFFFFFFF
          ∧ getR u k = d.began % 2 ^ widthOf k ∧ getR u (k + 8) = (s.timeBase - 5 * msAon - d.began) % 2 ^ 32
          ∧ fld u (k + 0xC) 31 29 = die.val ∧ fld u (k + 0xC) 15 0 = low % 2 ^ 16
          ∧ Only s u [Reg.CLOCK_STATUS, Reg.POWER_CAUSE, Reg.DIP_COUNT, Reg.DIP_WEAR, k, k + 8, k + 0xC] [.power])))
  ∧ ((∀ (s : State) (n : Nat) (t : CdcTransfer) (path : Bool), crossingKind n = some path → s.start.inReset = false → s.pins.aon = true →
      ((t == .context && path) = false → Goes (.cdcTimeout n t) s (fun u => ∃ w, u = cdcRequester t w
        ∧ getR w Reg.CDC_LAST = n ∧ getR w Reg.CDC_TIMEOUTS = min (getR s Reg.CDC_TIMEOUTS + 1) 0xFFFFFFFF ∧ bitR w Reg.POWER_CAUSE 5 = true
        ∧ (t = .registerRead → u.out = w.out ++ [.completerAbort])
        ∧ (∀ k, t = .bar2Read k → u.out = w.out ++ [.readData (List.replicate k 0xFF#8)])
        ∧ (∀ f q cid d, t = .dma f q cid → w.dmas.find? (fun d => d.hdr.fn.val == f.val && d.hdr.qp == q && d.hdr.cid == cid) = some d →
            u = reject d.hdr 5 (leave d.req { w with dmas := w.dmas.erase d }))
        ∧ (t = .registerWrite → u = w) ∧ Only s w [Reg.CDC_LAST, Reg.CDC_TIMEOUTS, Reg.POWER_CAUSE] []))
      ∧ ((t == .context && path) = true → s.faultSeq.phase = .none → s.power.rest = .awake → Goes (.cdcTimeout n t) s (fun u =>
        getR u Reg.CDC_LAST = 2 ^ 31 + n ∧ getR u Reg.FAULT_CODE = 0x11000000 + n ∧ bitR u Reg.FAULT_STATUS 0 = true
          ∧ u.faultSeq = { phase := .sequence, since := s.timeBase }
          ∧ Only s u [Reg.CDC_LAST, Reg.CDC_TIMEOUTS, Reg.POWER_CAUSE, Reg.FAULT_CODE, Reg.FAULT_TIME, Reg.FAULT_STATUS, Reg.FAULT_COUNT]
              [.faultSeq])))
    ∧ (∀ s : State, s.pins.aon = true → s.pins.fabClk = true → Goes .fabRefclkLoss s (fun u =>
        u.pins.fabClk = false ∧ (∀ p, p < 8 → portState u p = 0) ∧ (∀ p, p < 8 → portState s p ≠ 0 → fld u (Reg.PORT_STATUS p) 25 23 = 1)
          ∧ SameMemory s u ∧ u.ctxs = s.ctxs))
    ∧ (∀ s : State, s.pins.aon = true → s.pins.pcieClk = true → Goes .pcieRefclkLoss s (fun u =>
        u.linkUp = false ∧ u.pins.pcieClk = false ∧ Only s u [] [.linkUp, .pins]))))
  ∧ ((∀ (s : State) (mean : Nat) (temps : List Nat), s.pins.aon = true → s.start.inReset = false → sleeping s = false →
      s.power.nextTick ≤ s.timeBase → inService s = true → bitR s Reg.CLOCK_STATUS 15 = false → limitOf s * 80 < mean →
    Goes (.powerControllerTick mean temps) s (fun u =>
      u.power.msMean = mean ∧ u.power.nextTick = (s.timeBase / msAon + 1) * msAon ∧ getR u Reg.HUB_TEMP = min 255 (nth temps 4)
        ∧ (freqFloor s < fld s Reg.CLOCK_STATUS 31 24 → u.power.slew = some false ∧ bitR u Reg.CLOCK_STATUS 14 = true)
        ∧ (fld s Reg.CLOCK_STATUS 31 24 ≤ freqFloor s → u.power.overMs = s.power.overMs + 1 ∧ u.power.slew = s.power.slew)
        ∧ Only s u [Reg.DIE_TEMP, Reg.HUB_TEMP, Reg.CLOCK_STATUS, Reg.POWER_CAUSE] [.power, .start]))
  ∧ (∀ s : State, 100 ≤ s.power.overMs → Goes .powerOver s (fun u =>
      bitR u Reg.POWER_CAUSE 3 = true ∧ u.power.overMs = 0 ∧ Only s u [Reg.POWER_CAUSE] [.power]))
  ∧ (∀ (s : State) (up acked : Bool), s.power.slew = some up → (acked = true ∨ up = false) →
    Goes (.slewStep acked) s (fun u =>
      fld u Reg.CLOCK_STATUS 31 24 = (if up then min (fld s Reg.CLOCK_STATUS 31 24 + 4) (fld s Reg.CLOCK_STATUS 23 16)
          else max (fld s Reg.CLOCK_STATUS 31 24 - 4) (freqFloor s))
        ∧ bitR u Reg.CLOCK_STATUS 14 = false ∧ u.power.slew = none
        ∧ bitR u Reg.CLOCK_STATUS 13 = (decide (fld u Reg.CLOCK_STATUS 31 24 < fld s Reg.CLOCK_STATUS 23 16) || !acked)
        ∧ Only s u [Reg.CLOCK_STATUS, Reg.POWER_CAUSE] [.power, .out])))

/-- DOZE, NAP and SLEEP: how each is entered and left, and what the power state reads as.
DOZE and NAP: DOZE is entered once its conditions have held for 1 us, and left by DOZE_WAKE, which counts; a write of NAP; the
entry into NAP, with every tile outside the resident reserved sets GATED; and its end, after which they run again.
SLEEP: a wake cause begins the wake, or, within 5 ms of the entry, undoes the entry. WOKE ends the wake, with tile stores and
accumulators empty; the registers saved at the entry are back but for those of the stacks, the DRBG and the ports, which the wake
writes; of an undone entry nothing is lost. A read of POWER_STATE returns it in an awake part, wakes a part in DOZE first, and waits
in SLEEP, whose wake it begins.
Points that the spec leaves open are the model's choice: log entries 24, 79 and 80. -/
def Obligations.RestStates : Prop :=
  ((∀ s : State, s.power.rest = .awake → inService s = true → healthy s = true → bitR s Reg.POWER_CONTROL 30 = true → dozeCond s = true →
        s.power.quietSince + usAon ≤ s.timeBase →
      Goes .partDozeEntry s (fun u => u.power.rest = .doze ∧ u.power.restAt = s.timeBase ∧ Only s u [] [.power]))
    ∧ (∀ s : State, s.power.rest = .doze → Goes .dozeWake s (fun u => u.power.rest = .awake
        ∧ getR u Reg.DOZE_EXITS = min (getR s Reg.DOZE_EXITS + 1) 0xFFFFFFFF ∧ Only s u [Reg.DOZE_EXITS] [.power]))
    ∧ (∀ (s : State) (v : View) (on : Bool), (v = .mgmt ∨ v = .fn 0) → s.start.inReset = false → s.power.rest = .awake →
      Goes (.napWrite v on) s (fun u => bitR u Reg.POWER_CONTROL 31 = on ∧ fld u Reg.POWER_STATE 31 29 = (if on then 1 else 0)
        ∧ Only s u [Reg.POWER_CONTROL, Reg.POWER_STATE] []))
    ∧ (∀ s : State, s.power.rest = .awake → bitR s Reg.POWER_CONTROL 31 = true → healthy s = true → idleCond s = true →
        s.ctxs.all (fun e => reservedOnly e.2.pitch || e.2.tiles.all (standsStill s e.1)) = true →
      Goes .napEntry s (fun u => u.power.rest = .nap ∧ fld u Reg.POWER_STATE 31 29 = 2
        ∧ (∀ e ∈ s.siteMap, tileKept s e.1 = false → fld u (Reg.TILE_POWER e.2) 2 0 = 2)
        ∧ Only s u (Reg.POWER_STATE :: s.siteMap.map (fun e => Reg.TILE_POWER e.2)) [.power]))
    ∧ (∀ s : State, s.power.rest = .nap → (bitR s Reg.POWER_CONTROL 31 = false ∨ wakeDue s = true) →
      Goes .napExit s (fun u => u.power.rest = .leavingNap ∧ bitR u Reg.POWER_CONTROL 31 = false ∧ fld u Reg.POWER_STATE 31 29 = 0
        ∧ (s.sites = [] → Only s u [Reg.POWER_CONTROL, Reg.POWER_STATE] [.power]))))
  ∧ ((∀ (s : State) (peers : Bool), s.power.rest = .sleep →
      Goes (.sleepWake peers) s (fun u => u.power.rest = .waking (s.timeBase < s.power.restAt + 5 * msAon) ∧ u.power.restAt = s.timeBase
        ∧ Only s u [] [.power, .tray] ∧ ((peers && bitR s Reg.TRAY_CONFIG 1) = false → Only s u [] [.power])))
    ∧ (∀ s : State, s.power.rest = .leavingNap → s.waiting = [] → Goes .woke s (fun u =>
        let sites := s.ctxs.flatMap (fun e => e.2.tiles.map (·.1))
        u.power.rest = .awake ∧ bitR u Reg.POWER_CAUSE 9 = true
          ∧ (∀ site ∈ sites, fld s (Reg.TILE_POWER site) 2 0 = 2 → fld u (Reg.TILE_POWER site) 2 0 = 0)
          ∧ Only s u (Reg.POWER_CAUSE :: sites.map Reg.TILE_POWER) [.power]))
    ∧ (∀ (s : State) (undone : Bool) (t : Tbl W64), s.power.rest = .waking undone → s.waiting = [] → s.power.saved = some t →
        tsorted t = true → (∀ e ∈ t, aonReg e.1 = false) → Goes .woke s (fun u =>
        u.power.rest = .awake ∧ u.power.saved = none ∧ fld u Reg.POWER_STATE 31 29 = 0
          ∧ (∀ k, aonReg k = false → ¬ (0x200020 ≤ k ∧ k < 0x200040) → ¬ (0x600000 ≤ k ∧ k < 0x700500) →
              getR u k = ((tget t k).map (·.toNat)).getD (resetOf k))
          ∧ (undone = false → u.tileStore = [] ∧ u.sites = [] ∧ bitR u Reg.POWER_CAUSE 9 = true)
          ∧ (undone = true → u.tileStore = s.tileStore ∧ u.sites = s.sites ∧ u.errs = s.errs ∧ u.drbg = s.drbg
              ∧ getR u Reg.POWER_CAUSE = getR s Reg.POWER_CAUSE)
          ∧ u.near = s.near ∧ u.objs = s.objs ∧ u.ctxs = s.ctxs))
    ∧ (∀ (s : State) (v : View), s.pins.aon = true → s.start.inReset = false → s.linkUp = true →
      (s.power.rest = .awake ∨ s.power.rest = .doze →
        Goes (.powerStateRead v) s (fun u => u.power.rest = .awake
          ∧ u.out = s.out ++ [.readData (natLe 4 (if v = .mgmt ∨ v = .fn 0 then getR s Reg.POWER_STATE else 0))]
          ∧ Only s u [Reg.DOZE_EXITS] [.out, .power]
          ∧ getR u Reg.DOZE_EXITS = (if s.power.rest = .doze then min (getR s Reg.DOZE_EXITS + 1) 0xFFFFFFFF else getR s Reg.DOZE_EXITS)))
      ∧ (s.power.rest = .sleep → Goes (.powerStateRead v) s (fun u =>
          u.power.rest = .waking (s.timeBase < s.power.restAt + 5 * msAon) ∧ u.waiting = s.waiting ++ [.powerStateRead v]
            ∧ Only s u [] [.power, .tray, .waiting]))))

/-- Register accesses: a write takes the RW bits of the enabled bytes, a read of a low half latches the high half, and an unaligned access is an access error.
A write to an aligned 32-bit register without side effects: every RW bit of an enabled byte takes its value, every other bit stays,
and nothing else changes. An unaligned write is dropped with ACCESS_ERROR of kind 2.
A 4-byte read of a register returns its value; of a 64-bit register the low half loads the reader's latch, and the high half
comes from it. An unaligned read ends with Completer Abort and ACCESS_ERROR of kind 1.
Points that the spec leaves open are the model's choice: log entries 20, 21 and 22. -/
def Obligations.RegisterAccesses : Prop :=
  ((∀ (s : State) (v : View) (off be x : Nat) (r : RegRow) (k : Nat), reached s v = true → s.power.rest = .awake → off % 4 = 0 →
        keyOf s v off = some k → wordAt k = some (r, k, false) → r.width = 32 → plainWrite v r k = true →
      Goes (.registerWrite v off 4 be x) s (fun u =>
        (∀ b, b < 32 → bitR u k b = if r.rw.testBit b && be.testBit (b / 8) then x.testBit b else bitR s k b) ∧ Only s u [k] []))
    ∧ (∀ (s : State) (f : FnId) (off size be x : Nat), reached s (.fn f) = true → s.power.rest = .awake → unaligned off size = true →
        bitR s (Reg.ACCESS_LOG f) 31 = false →
      Goes (.registerWrite (.fn f) off size be x) s (fun u =>
        bitR u (Reg.FN_CAUSE f) 0 = true ∧ bitR u (Reg.ACCESS_LOG f) 31 = true ∧ fld u (Reg.ACCESS_LOG f) 30 28 = 2
          ∧ fld u (Reg.ACCESS_LOG f) 25 0 = off % 2 ^ 26 ∧ Only s u [Reg.FN_CAUSE f, Reg.ACCESS_LOG f] [])))
  ∧ ((∀ (s : State) (v : View) (off k key : Nat) (r : RegRow) (high : Bool), reached s v = true → s.power.rest = .awake → off % 4 = 0 →
        ¬((pbaPlace (viewFn v)).1 ≤ off ∧ off < (pbaPlace (viewFn v)).1 + (pbaPlace (viewFn v)).2) →
        keyOf s v off = some k → wordAt k = some (r, key, high) →
      (r.width = 32 → Goes (.lowHalfRead v off 4) s (fun u =>
        u.out = s.out ++ [.readData (natLe 4 (regValue s v key % 2 ^ 32))] ∧ Only s u [] [.out]))
      ∧ (r.width = 64 → high = false → Goes (.lowHalfRead v off 4) s (fun u =>
        u.out = s.out ++ [.readData (natLe 4 (regValue s v key % 2 ^ 32))]
          ∧ tget u.latch (readerOf v) = some (key, regValue s v key / 2 ^ 32)
          ∧ (∀ w, w ≠ readerOf v → tget u.latch w = tget s.latch w) ∧ Only s u [] [.out, .latch]))
      ∧ (∀ h, r.width = 64 → high = true → tget s.latch (readerOf v) = some (key, h) → Goes (.lowHalfRead v off 4) s (fun u =>
        u.out = s.out ++ [.readData (natLe 4 h)] ∧ Only s u [] [.out])))
    ∧ (∀ (s : State) (f : FnId) (off size : Nat), reached s (.fn f) = true → s.power.rest = .awake → unaligned off size = true →
      Goes (.lowHalfRead (.fn f) off size) s (fun u =>
        u.out = s.out ++ [.completerAbort] ∧ bitR u (Reg.FN_CAUSE f) 0 = true ∧ Only s u [Reg.FN_CAUSE f, Reg.ACCESS_LOG f] [.out])))

/-- BAR2: bytes written to a page of the near store or of a tile store stand there afterwards and no other byte changes; bytes read
from the near store are those that stand there; a write of an unmapped address is dropped with its cause bit. No earlier access waits,
and the tile-store port of the page is open or needs no opening. The access is unscheduled traffic of group 1, whose wait may raise
the longest wait of the group.
Points that the spec leaves open are the model's choice: log entry 37. -/
def Obligations.Bar2MovesBytes : Prop :=
  (∀ (s : State) (off : Nat) (data : Bytes), bar2On s = true → off + data.length ≤ 2 ^ 36 → 0 < data.length →
      (getR s Reg.BAR2_BASE + off) % pageSize + data.length ≤ pageSize → frozenIn s 0 (getR s Reg.BAR2_BASE + off) data.length = none →
      stagedIn s 0 (getR s Reg.BAR2_BASE + off) data.length = none → s.power.rest = .awake → s.bar2q = [] →
      (∀ k ∈ sitesOf s (spansOf s 0 (getR s Reg.BAR2_BASE + off) data.length), portFree s k = true) →
    (∀ x, devAt s 0 (getR s Reg.BAR2_BASE + off) = .near x → Goes (.bar2Write off data) s (fun u =>
      mread u.near x data.length = data ∧ (∀ a, a < x ∨ x + data.length ≤ a → mget u.near a = mget s.near a)
        ∧ Only s u [Reg.MEM_WAIT_MAX 1] [.near, .poison, .errs, .chans, .freeCtr]))
    ∧ (∀ l o, devAt s 0 (getR s Reg.BAR2_BASE + off) = .tile l o → Goes (.bar2Write off data) s (fun u =>
      mread u.tileStore (l * 0x400000 + o) data.length = data
        ∧ (∀ a, a < l * 0x400000 + o ∨ l * 0x400000 + o + data.length ≤ a → mget u.tileStore a = mget s.tileStore a)
        ∧ Piece.near.kept s u ∧ Piece.host.kept s u ∧ Piece.ptab.kept s u ∧ u.objs = s.objs))
    ∧ (devAt s 0 (getR s Reg.BAR2_BASE + off) = .unmapped → Goes (.bar2Write off data) s (fun u =>
      bitR u Reg.MEM_CAUSE 6 = true ∧ Only s u [Reg.MEM_CAUSE, Reg.MEM_WAIT_MAX 1] [.freeCtr])))
  ∧ (∀ (s : State) (off len x : Nat), bar2On s = true → off + len ≤ 2 ^ 36 → (getR s Reg.BAR2_BASE + off) % 4 = 0 →
      (getR s Reg.BAR2_BASE + off) % pageSize + len ≤ pageSize → s.errs = [] → s.poison = [] → s.power.rest = .awake →
      bar2Held s = false → s.bar2q = [] → devAt s 0 (getR s Reg.BAR2_BASE + off) = .near x →
    Goes (.bar2Read off len) s (fun u => u.out = s.out ++ [.readData (mread s.near x len)]
      ∧ Only s u [Reg.MEM_WAIT_MAX 1] [.out, .freeCtr]))
  ∧ (∀ (s : State) (off len : Nat), inService s = false → s.power.rest = .awake → off + len ≤ 2 ^ 36 →
    Goes (.bar2Read off len) s (fun u => u.out = s.out ++ [.readData (List.replicate len 0xFF#8)] ∧ Only s u [] [.out]))

/-- Queue pairs: a protocol selection, a valid and an invalid enabling, a disabling with nothing owed, and the two doorbells within
and out of range.
Points that the spec leaves open are the model's choice: log entry 28. -/
def Obligations.QueuePairRegisters : Prop :=
  (∀ (s : State) (f : FnId) (major minor : Nat), hostUp s = true → baseCamp s = false → fnExists s f = true → anyQp s f = false →
    Goes (.hostProtocol f major minor) s (fun u =>
      fld u (Reg.HOST_PROTOCOL f) 15 12 = major % 16 ∧ fld u (Reg.HOST_PROTOCOL f) 11 8 = minor % 16
        ∧ bitR u (Reg.HOST_PROTOCOL f) 0 = (major % 16 == 1 && minor % 16 ≤ 2) ∧ Only s u [Reg.HOST_PROTOCOL f] []))
  ∧ (∀ (s : State) (f : FnId) (q : Nat), q < 1024 → qpServed s f q = true →
    (bitR s (Reg.QP_CONFIG f q) 31 = false → (bitR s (Reg.HOST_PROTOCOL f) 0 && fnActive s f && qpConfigOk s f q) = true →
      Goes (.qpEnable f q) s (fun u =>
        bitR u (Reg.QP_CONFIG f q) 31 = true ∧ getR u (Reg.QP_STATUS f q) = 2 ^ 31
          ∧ qpGet u f q = { sqTail := 0, cqTail := 0, cqHead := 0, phase := true }
          ∧ Only s u [Reg.QP_CONFIG f q, Reg.QP_STATUS f q] [.qps]))
    ∧ (bitR s (Reg.QP_CONFIG f q) 31 = false → (bitR s (Reg.HOST_PROTOCOL f) 0 && fnActive s f && qpConfigOk s f q) = false →
      Goes (.qpEnable f q) s (fun u =>
        bitR u (Reg.QP_STATUS f q) 31 = false ∧ bitR u (Reg.QP_STATUS f q) 30 = true ∧ fld u (Reg.QP_STATUS f q) 29 24 = 4
          ∧ bitR u (Reg.FN_CAUSE f) 3 = true ∧ Only s u [Reg.QP_CONFIG f q, Reg.QP_STATUS f q, Reg.FN_CAUSE f] []))
    ∧ (bitR s (Reg.QP_CONFIG f q) 31 = true → (∀ o ∈ s.owed, o.hdr.fn = f → o.hdr.qp = q → o.left = 0) →
      Goes (.qpDisable f q) s (fun u =>
        bitR u (Reg.QP_CONFIG f q) 31 = false ∧ bitR u (Reg.QP_STATUS f q) 31 = false
          ∧ Only s u [Reg.QP_CONFIG f q, Reg.QP_STATUS f q, Reg.LATE_DISCARDS f] [.owed]))
    ∧ (∀ n, qpEnabled s f q = true → n < sqSize s f q → Goes (.sqTail f q n) s (fun u =>
        qpGet u f q = { qpGet s f q with sqTail := n } ∧ Only s u [] [.qps]))
    ∧ (∀ n, qpEnabled s f q = true → sqSize s f q ≤ n → Goes (.sqTail f q n) s (fun u =>
        bitR u (Reg.QP_STATUS f q) 31 = false ∧ fld u (Reg.QP_STATUS f q) 29 24 = 1 ∧ bitR u (Reg.FN_CAUSE f) 3 = true
          ∧ Only s u [Reg.QP_STATUS f q, Reg.FN_CAUSE f] []))
    ∧ (∀ n, qpEnabled s f q = true → n < cqSize s f q → Goes (.cqHead f q n) s (fun u =>
        qpGet u f q = { qpGet s f q with cqHead := n } ∧ Only s u [] [.qps])))

/-- The queue pairs at work: a fetch takes the command at the head, and a completion stands in the completion queue.
A fetch: a command that its envelope accepts is taken and owed its completions, and the SQ head moves past it; a stale one is
counted.
The last completion of a command of a running pair and of the present generation: its 32 bytes stand at the CQ tail, the tail
moves on and PHASE flips on a wrap, the command is owed nothing more, and no other byte of host memory changes.
Points that the spec leaves open are the model's choice: log entries 25, 26, 27 and 28. -/
def Obligations.CommandsAreFetchedAndCompleted : Prop :=
  (∀ (s : State) (f : FnId) (q : Nat), mayFetch s f q = true →
      let head := fld s (Reg.QP_STATUS f q) 15 0
      let a := getR s (Reg.SQ_BASE f q) + head * 128
      let b := hostRead s f a 128
      let next := (head + 1) % sqSize s f q
      let op := fieldAt b 0 1
      hostOk s f a 128 = true → fenced s (readCmdHdr f q b) = false →
      cqRoom s f q (opCompletions op + (if opLoads op then 1 else 0)) = true →
      (∀ i, readCmd s f q b = .ok i → Goes (.commandFetch f q) s (fun u =>
        u.taken = s.taken ++ [i]
          ∧ u.owed = s.owed ++ [{ hdr := readCmdHdr f q b, sqHead := next, left := opCompletions op, first := false, event := opLoads op }]
          ∧ fld u (Reg.QP_STATUS f q) 15 0 = next % 2 ^ 16 ∧ Only s u [Reg.QP_STATUS f q] [.taken, .owed, .tray]))
      ∧ (readCmd s f q b = .error 3 → Goes (.commandFetch f q) s (fun u =>
        getR u (Reg.STALE_COMMANDS f) = min (getR s (Reg.STALE_COMMANDS f) + 1) 0xFFFFFFFF ∧ bitR u (Reg.FN_CAUSE f) 2 = true
          ∧ u.taken = s.taken ∧ u.owed = s.owed)))
  ∧ (∀ (s : State) (h : CmdHdr) (code detail extra : Nat) (o : Owed), s.owed.find? (fun o => sameCmd o.hdr h) = some o → o.event = false →
      h.gen = genOf s h.fn.val → qpEnabled s h.fn.val h.qp = true →
      let f := h.fn.val
      let q := h.qp
      let p := qpGet s f q
      let a := getR s (Reg.CQ_BASE f q) + p.cqTail * 32
      let t := (p.cqTail + 1) % cqSize s f q
      hostOk s f a 32 = true →
      let u := finish h code detail extra s
      hostRead u f a 32 = cqeBytes h o.sqHead (if p.phase then 1 else 0) 0 (code * 0x1000000 + detail % 0x1000000) extra
        ∧ qpGet u f q = { p with cqTail := t, phase := if t = 0 then !p.phase else p.phase }
        ∧ (∀ x, x < hostKey f a ∨ hostKey f a + 32 ≤ x → mget u.host x = mget s.host x)
        ∧ (bitR s (Reg.QP_CONFIG f q) 31 = true → u.owed = s.owed.erase o
            ∧ Only s u [] [.host, .qps, .owed, .out, .pba]))

/-- Control writes: recovery and the clearing of a chip fault, port enables, and the tray requests of host software.
Fault registers, port enables: RECOVER begins recovery from QUIESCED; a clear of CHIP_FAULT takes SECONDARY and RECOVERED with it,
but is an access error while QUIESCED or recovering; a port enable starts training, and its clearing takes the port down.
The tray registers: PROPOSE queues a proposal, or opens a round at once for a node alone; WAKE queues a WAKE of REASON 1; SLEEP_READY
takes its value.
Points that the spec leaves open are the model's choice: log entries 23, 55 and 72. -/
def Obligations.FaultPortAndTrayControls : Prop :=
  ((∀ (s : State) (v : View), isPf v = true → s.power.rest = .awake →
      (s.faultSeq.phase = .quiesced → Goes (.recover v) s (fun u =>
        bitR u Reg.FAULT_STATUS 30 = true ∧ fld u Reg.RECOVERY_REPORT 31 30 = 3 ∧ bitR u Reg.FAULT_CONTROL 31 = false
          ∧ u.faultSeq = { phase := .recovering, since := s.timeBase }
          ∧ Only s u [Reg.FAULT_STATUS, Reg.RECOVERY_REPORT, Reg.FAULT_CONTROL] [.faultSeq]))
      ∧ (s.start.inReset = false → quiescedNow s = false → bitR s Reg.FAULT_STATUS 30 = false → Goes (.chipFaultClear v) s (fun u =>
        bitR u Reg.FAULT_STATUS 0 = false ∧ bitR u Reg.FAULT_STATUS 29 = false ∧ bitR u Reg.RECOVERY_REPORT 29 = false
          ∧ Only s u [Reg.FAULT_STATUS, Reg.RECOVERY_REPORT] []))
      ∧ (s.start.inReset = false → quiescedNow s = true → Goes (.chipFaultClear (.fn 0)) s (fun u =>
        bitR u (Reg.FN_CAUSE 0) 0 = true ∧ Only s u [Reg.FN_CAUSE 0, Reg.ACCESS_LOG 0] [])))
    ∧ (∀ (s : State) (p : PortId), s.start.inReset = false → s.power.rest = .awake → portState s p ≠ 5 →
      (bitR s (Reg.PORT_CONTROL p) 31 = false → (early s || full s) = true → fabricOn s = true → Goes (.portEnable p true) s (fun u =>
        bitR u (Reg.PORT_CONTROL p) 31 = true ∧ bitR u Reg.FAB_STATUS (8 + p) = true ∧ portState u p = 1
          ∧ Only s u [Reg.PORT_CONTROL p, Reg.FAB_STATUS, Reg.PORT_STATUS p] [.fab]))
      ∧ (bitR s (Reg.PORT_CONTROL p) 31 = true → Goes (.portEnable p false) s (fun u =>
        bitR u (Reg.PORT_CONTROL p) 31 = false ∧ bitR u Reg.FAB_STATUS (8 + p) = false ∧ portState u p = 0
          ∧ fld u (Reg.PORT_STATUS p) 25 23 = 4 ∧ bitR u Reg.FAB_STATUS p = false
          ∧ (portUp s p = true → bitR u (Reg.PORT_CAUSE p) 1 = true) ∧ SameMemory s u ∧ u.ctxs = s.ctxs))))
  ∧ ((∀ s : State, s.pins.aon = true → s.start.inReset = false → s.power.rest = .awake → bitR s Reg.TRAY_CONTROL 31 = false →
        s.tray.round = none → baseCamp s = false → mayTransmit s = true → voteReason (memberMask s) s = 0 →
      (bitR s Reg.TRAY_STATUS 30 = false → Goes .propose s (fun u =>
        bitR u Reg.TRAY_CONTROL 31 = true ∧ fld u Reg.TRAY_STATUS 23 21 = 1 ∧ u.tray.round = none
          ∧ u.tray.txq = s.tray.txq ++ [(4, slice (([(s.tray.lastRound + 1) % 256, 0] ++ two (memberMask s)).map (BitVec.ofNat 8)) 0 8)]
          ∧ Only s u [Reg.TRAY_CONTROL, Reg.TRAY_STATUS] [.tray]))
      ∧ (bitR s Reg.TRAY_STATUS 30 = true → Goes .propose s (fun u =>
        bitR u Reg.TRAY_CONTROL 31 = true ∧ fld u Reg.TRAY_STATUS 23 21 = 3 ∧ fld u Reg.TRAY_STATUS 15 8 = (s.tray.lastRound + 1) % 256
          ∧ u.tray.round.bind (·.window) = some s.timeBase ∧ Only s u [Reg.TRAY_CONTROL, Reg.TRAY_STATUS] [.tray])))
    ∧ (∀ s : State, s.pins.aon = true → s.start.inReset = false → s.power.rest = .awake → bitR s Reg.TRAY_CONTROL 30 = false →
        mayTransmit s = true →
      Goes .wake s (fun u => bitR u Reg.TRAY_CONTROL 30 = true ∧ u.tray.txq = s.tray.txq ++ [(1, slice [1#8, 0#8] 0 8)]
        ∧ Only s u [Reg.TRAY_CONTROL] [.tray]))
    ∧ (∀ (s : State) (on : Bool), s.pins.aon = true → s.start.inReset = false → s.power.rest = .awake →
      Goes (.sleepReady on) s (fun u => bitR u Reg.TRAY_CONTROL 29 = on
        ∧ ((on = true ∨ bitR s Reg.TRAY_CONTROL 29 = false ∨ votedYes s = false) → Only s u [Reg.TRAY_CONTROL] []))))

/-- INSTANCE_CREATE on free resources of the pools: the instance is active with its shape in its record, its generation rises by one, and
the pools lose what it takes.
Points that the spec leaves open are the model's choice: log entry 29. -/
def Obligations.InstanceCreateTakesItsShape : Prop :=
  ∀ (s : State) (h : CmdHdr) (a : ShapeArgs), Ready (.instanceCreate h a) s → 1 ≤ a.inst → a.inst < 32 → s.vfEnable = true →
    full s = true → instState s a.inst = 0 → shapeOk a = true → inPools s a = true → freeOfPf s a = true →
    Ends (.instanceCreate h a) s h 0 0 0 (fun u =>
      instState u a.inst = 1 ∧ fld u (Reg.INST_STATE a.inst) 31 16 = (fld s (Reg.INST_STATE a.inst) 31 16 + 1) % 65536
        ∧ getR u (Reg.INST_TILES a.inst) = a.tileGroups ∧ getR u (Reg.INST_DECODE_LO a.inst) = a.decode % 2 ^ 32
        ∧ getR u (Reg.INST_DECODE_HI a.inst) = a.decode / 2 ^ 32 ∧ fld u (Reg.INST_QP_PEG a.inst) 6 0 = a.queuePairs
        ∧ fld u (Reg.INST_QP_PEG a.inst) 24 8 = a.pegSlots ∧ getR u Reg.POOL_TILES = (shapeTiles s 0 - a.tileGroups) % 2 ^ 32
        ∧ (∀ st g, st < 8 → g < 64 → tget u.granOwner (st * 64 + g) =
            if g ∈ ((fnGranules s 0 st).filter (fun g => !granuleUsed s st g)).take (nth a.granules st) then some a.inst
            else tget s.granOwner (st * 64 + g))
        ∧ Only (took (.instanceCreate h a) s) u
            [Reg.INST_STATE a.inst, Reg.INST_TILES a.inst, Reg.INST_DECODE_LO a.inst, Reg.INST_DECODE_HI a.inst,
             Reg.INST_GRANULES_LO a.inst, Reg.INST_GRANULES_HI a.inst, Reg.INST_QP_PEG a.inst, Reg.POOL_TILES, Reg.POOL_DECODE_LO,
             Reg.POOL_DECODE_HI, Reg.POOL_QP_PEG] [.granOwner])

/-- Instance resets, from the command or the function-level reset to the end, and the destruction of every instance by a reset of the physical function.
A reset of an instance that has no work, by INSTANCE_RESET, INSTANCE_DESTROY or FUNCTION_LEVEL_RESET: it enters its state, its
generation rises by one, its pairs, protocol selection and ACCESS_LOG take their Reset values, and nothing of another function changes.
The two commands then wait for the end of the reset.
The end of a reset: the instance is active again without objects, placement-table bytes and far pages; a destroyed one is absent,
its granules zeroed and back in the pool with its tile groups.
A reset of the physical function, and the clearing of VF Enable, begin the destruction of every instance.
Points that the spec leaves open are the model's choice: log entry 29. -/
def Obligations.InstanceResets : Prop :=
  (∀ (s : State) (i : FnId), i ≠ 0 → fnIdle s i → (instState s i = 1 ∨ instState s i = 4) →
      let begun := fun (st : Nat) (u : State) =>
        instState u i = st ∧ fld u (Reg.INST_STATE i) 31 16 = (fld s (Reg.INST_STATE i) 31 16 + 1) % 65536
          ∧ (∀ k ∈ fnResetRegs i, k ≠ Reg.INST_STATE i → getR u k = resetOf k)
          ∧ tget u.frozen i = none ∧ (∀ k, k / 1024 = i.val → tget u.qps k = none) ∧ (∀ k, k / 1024 ≠ i.val → tget u.qps k = tget s.qps k)
          ∧ Only s u (fnResetRegs i) [.frozen, .qps, .instCmd, .taken]
      (resetOk s = true → Goes (.functionLevelReset i) s (fun u => begun 2 u ∧ u.instCmd = s.instCmd ∧ u.taken = s.taken))
      ∧ (∀ h, Ready (.instanceReset h i) s → Goes (.instanceReset h i) s (fun u =>
        begun 2 u ∧ instWaiters u i = instWaiters s i ++ [h] ∧ u.taken = s.taken.erase (.instanceReset h i)))
      ∧ (∀ h, Ready (.instanceDestroy h i) s → Goes (.instanceDestroy h i) s (fun u =>
        begun 5 u ∧ instWaiters u i = instWaiters s i ++ [h] ∧ u.taken = s.taken.erase (.instanceDestroy h i))))
  ∧ (∀ (s : State) (f : FnId), f ≠ 0 → s.faultSeq.phase ≠ .sequence → fnQuiet s f = true →
      (instState s f = 2 → Goes (.instanceResetDone f) s (fun u =>
        instState u f = 1 ∧ (∀ e ∈ u.objs, e.2.fn ≠ f.val) ∧ tget u.farPool f = none
          ∧ (∀ a, f.val * pageSize ≤ a → a < (f.val + 1) * pageSize → mget u.ptab a = 0#8) ∧ tget u.instCmd f = none
          ∧ Piece.near.kept s u ∧ Piece.tileStore.kept s u))
      ∧ (instState s f = 5 → Goes (.instanceResetDone f) s (fun u =>
        instState u f = 0 ∧ (∀ e ∈ u.objs, e.2.fn ≠ f.val) ∧ (∀ e ∈ u.granOwner, e.2 ≠ f.val)
          ∧ (∀ st g a, g < 64 → tget s.granOwner (st * 64 + g) = some f.val → frameAddr st (g * 512) ≤ a →
              a < frameAddr st (g * 512) + 512 * pageSize → mget u.near a = 0#8)
          ∧ getR u Reg.POOL_TILES = (shapeTiles s 0 ||| shapeTiles s f) % 2 ^ 32 ∧ getR u (Reg.INST_TILES f) = 0)))
  ∧ (∀ (s : State), resetOk s = true → (∀ i : FnId, i ≠ 0 → instState s i ≠ 0 → fnIdle s i) →
      let gone := fun (u : State) => ∀ i : FnId, i ≠ 0 → instState u i = if instState s i = 0 then 0 else 5
      Goes .pfFunctionLevelReset s (fun u => gone u ∧ u.vfEnable = s.vfEnable ∧ u.ctxs = s.ctxs ∧ u.taken = s.taken)
      ∧ Goes .vfEnableClear s (fun u => gone u ∧ u.vfEnable = noInstance s ∧ u.ctxs = s.ctxs ∧ u.taken = s.taken))

/-- Freezing: the instance is freezing and its contexts run to their freeze points; once there, its spill object is written and it is
frozen, or, with no handle for that object, it is active again.
Points that the spec leaves open are the model's choice: log entry 30. -/
def Obligations.InstancesFreeze : Prop :=
  (∀ (s : State) (h : CmdHdr) (i : FnId), Ready (.instanceFreeze h i) s → i ≠ 0 → instState s i = 1 →
    Goes (.instanceFreeze h i) s (fun u =>
      instState u i = 3 ∧ (∀ c x, ctxGet u c = some x → x.fn = i.val → x.freezing = true) ∧ instWaiters u i = instWaiters s i ++ [h]
        ∧ Only s u [Reg.INST_STATE i] [.instCmd, .ctxs, .taken]))
  ∧ (∀ (s : State) (f : FnId) (hd : Nat) (t : State), instState s f = 3 → healthy s = true → freezeReady s f = true →
      freeHandle s f = some hd → fnStacks s f ≠ 0 →
      createObj s { fn := f, handle := hd, id := 0, owner := 0xFE, oflags := 0, keySlot := 0, format := 8, size := spillSize (takeSpill s f),
                    first := 0, pages := [], state := 1, doneSeq := 0, result := 0, users := [], freed := false, record := none }
        0 (fnStacks s f) = some t →
    Goes (.instanceFrozen f) s (fun u =>
      instState u f = 4 ∧ tget u.spills (nextSpill s) = some (takeSpill s f)
        ∧ tget u.frozen f = some { spill := hd, gen := genOf s f, restored := none, qps := [] } ∧ tget u.instCmd f = none ∧ u.ctxs = s.ctxs))
  ∧ (∀ (s : State) (f : FnId), instState s f = 3 → healthy s = true → freezeReady s f = true → freeHandle s f = none →
    Goes (.instanceFrozen f) s (fun u => instState u f = 1 ∧ (∀ c x, ctxGet u c = some x → x.fn = f.val → x.freezing = false)))

/-- A frozen instance's image is written where the command says, an image that keeps its checks is restored, and a thaw makes the
instance active with a new generation.
Points that the spec leaves open are the model's choice: log entries 31 and 32. -/
def Obligations.ImagesAndThaw : Prop :=
  (∀ (s t : State) (h : CmdHdr) (i addr len : Nat) (z : Frozen), Ready (.instanceSave h i addr len) s → len ≠ 0 → 1 ≤ i → i < 32 →
      instState s i = 4 → tget s.frozen i = some z →
    (len < (imageOf s i z).length → Ends (.instanceSave h i addr len) s h 8 0 (imageOf s i z).length (fun u =>
      u = took (.instanceSave h i addr len) s))
    ∧ ((imageOf s i z).length ≤ len → devWrite h.fn.val addr (imageOf s i z) (took (.instanceSave h i addr len) s) = (t, 0) →
      Ends (.instanceSave h i addr len) s h 0 0 (imageOf s i z).length (fun u => u = t)))
  ∧ (∀ (s s1 t : State) (h : CmdHdr) (i addr len : Nat) (z : Frozen) (img : Bytes), Ready (.instanceRestore h i addr len) s → len ≠ 0 → 1 ≤ i →
      i < 32 → tget s.frozen i = some z → frozenEmpty s i z = true →
      devRead h.fn.val addr (min len 0x40000) (took (.instanceRestore h i addr len) s) = (s1, 0, img) →
      fieldAt img 0 4 = 0x4953584A → 64 ≤ fieldAt img 8 4 → fieldAt img 8 4 ≤ img.length → fieldAt img 5 1 = 1 → fieldAt img 4 1 = 0 →
      fieldAt img 12 4 = crc32c (slice img 0 12 ++ slice img 16 (fieldAt img 8 4 - 16)) → shapeHolds s1 i (slice img 16 32) = true →
      fieldAt img 0x38 4 ≤ (tgetD s1.farPool i []).length → restoreImage i z (img.take (fieldAt img 8 4)) s1 = .ok t →
    Ends (.instanceRestore h i addr len) s h 0 0 0 (fun u => u = syncMedia (syncRecords t)))
  ∧ (∀ (s : State) (h : CmdHdr) (i : Nat) (z : Frozen), Ready (.instanceThaw h i) s → 1 ≤ i → i < 32 → instState s i = 4 →
      tget s.frozen i = some z →
    Ends (.instanceThaw h i) s h 0 0 0 (fun u =>
      instState u i = 1 ∧ fld u (Reg.INST_STATE i) 31 16 = (z.gen + 1) % 65536 ∧ tget u.frozen i = none
        ∧ (∀ c x, ctxGet u c = some x → x.fn = i → x.freezing = false)))

/-- Objects: OBJECT_CREATE places one, OBJECT_FREE frees one that nothing holds, and FAR_POOL adds far pages.
OBJECT_CREATE with well-formed arguments and room: the object has the lowest free handle, stands at the lowest free run of its
function space, lies in the stacks of its mask round robin, reads as zeros, and the completion names the handle.
OBJECT_FREE: an object of host software that nothing holds is gone; one that a context owns or uses is IN_USE, and nothing
changes.
FAR_POOL: the pages listed in host memory join the function's far store, in their order.
Points that the spec leaves open are the model's choice: log entries 13, 33 and 34. -/
def Obligations.ObjectsAndFarPages : Prop :=
  (∀ (s : State) (h : CmdHdr) (a : ObjectArgs) (hd first : Nat) (ps : List PageLoc), Ready (.objectCreate h a) s → 0 < a.size →
      fmtOk a.format = true → a.oflags.testBit 0 = false → a.oflags < 32 → a.tier ≤ 1 → (a.tier = 1 ∨ a.stackMask ≠ 0) → a.objectId ≠ 0 →
      freeHandle s h.fn.val = some hd → (a.tier = 1 ∨ ∀ st ∈ bitPositions 8 a.stackMask, fnGranules s h.fn.val st ≠ []) →
      freeRun s h.fn.val (ceilDiv a.size pageSize) = some first →
      placePages s h.fn.val (wants a.tier a.stackMask (ceilDiv a.size pageSize)) = some ps →
      Ends (.objectCreate h a) s h 0 hd 0 (fun u =>
        objGet u h.fn.val hd = some { fn := h.fn.val, handle := hd, id := a.objectId, owner := 0xFF, oflags := a.oflags,
                                      keySlot := a.keySlot, format := a.format, size := a.size, first := first, pages := ps, state := 1,
                                      doneSeq := 0, result := 0, users := [], freed := false, record := none }
          ∧ (∀ st n x, PageLoc.near st n ∈ ps → frameAddr st n ≤ x → x < frameAddr st n + pageSize → mget u.near x = 0#8)
          ∧ (∀ x, (∀ st n, PageLoc.near st n ∈ ps → x < frameAddr st n ∨ frameAddr st n + pageSize ≤ x) → mget u.near x = mget s.near x)
          ∧ (∀ g k, objKey h.fn.val hd ≠ objKey g k → k < 32768 → objGet u g k = objGet s g k)
          ∧ Only (took (.objectCreate h a) s) u [] [.objs, .near, .poison, .errs]))
  ∧ (∀ (s : State) (h : CmdHdr) (hd : Nat) (o : Obj), Ready (.objectFree h hd) s → objGet s h.fn.val hd = some o → o.freed = false →
      o.owner ≠ 0xFE →
      (o.owner = 0xFF → o.users = [] → frozenObj s h.fn.val hd = false → (∀ r ∈ s.places, ¬(r.fn = h.fn.val ∧ r.handle = hd)) →
        (∀ r ∈ s.runs, ¬(r.fn = h.fn.val ∧ r.handle = hd)) →
        Ends (.objectFree h hd) s h 0 0 0 (fun u =>
          objGet u h.fn.val hd = none ∧ SameMemory s u ∧ u.places = s.places ∧ u.runs = s.runs ∧ u.owed = s.owed))
      ∧ ((o.owner ≠ 0xFF ∨ o.users ≠ []) → Ends (.objectFree h hd) s h 4 0 0 (fun u => u = took (.objectFree h hd) s)))
  ∧ (∀ (s : State) (h : CmdHdr) (n addr : Nat), Ready (.farPool h n addr) s → 0 < n →
      (tgetD s.farPool h.fn.val []).length + n ≤ 4194304 → hostOk s h.fn.val addr (8 * n) = true →
      (∀ i, i < n → leNat (hostRead s h.fn.val (addr + 8 * i) 8) % pageSize = 0) →
      Ends (.farPool h n addr) s h 0 0 0 (fun u =>
        tget u.farPool h.fn.val
            = some (tgetD s.farPool h.fn.val [] ++ (List.range n).map (fun i => leNat (hostRead s h.fn.val (addr + 8 * i) 8)))
          ∧ (∀ f, f ≠ h.fn.val → tget u.farPool f = tget s.farPool f) ∧ Only (took (.farPool h n addr) s) u [] [.farPool]))

/-- A DMA enters with a ticket of its group, and its completion moves the bytes: from host memory to a page of the near store, or
from the device range to host memory, and changes no other byte. It is served once no request that the arbiters take before it meets
its banks, and once the tile-store ports that it needs are open.
Points that the spec leaves open are the model's choice: log entry 25. -/
def Obligations.DmaMovesBytes : Prop :=
  (∀ (s : State) (h : CmdHdr) (dir len src dst : Nat), Ready (.dma h dir len src dst) s → 0 < len → dir ≤ 2 →
      (∀ r ∈ dmaRanges dir len src dst, mapped s h.fn.val r.1 r.2 = true) →
    Goes (.dma h dir len src dst) s (fun u =>
      u.dmas = s.dmas ++ [{ hdr := h, dir := dir, len := len, src := src, dst := dst, req := s.nextUns }]
        ∧ u.uns.map (·.id) = s.uns.map (·.id) ++ [s.nextUns] ∧ u.nextUns = s.nextUns + 1
        ∧ Only (took (.dma h dir len src dst) s) u [] [.dmas, .uns, .nextUns]))
  ∧ (∀ (s : State) (f : FnId) (q cid : Nat) (d : Dma), s.dmas.find? (fun d => d.hdr.fn.val == f.val && d.hdr.qp == q && d.hdr.cid == cid) = some d →
      awake s = true → s.faultSeq.phase ≠ .sequence → d.hdr.gen = genOf s f → 0 < d.len → mayServe s d.req = true →
      (∀ k ∈ sitesOf s (dmaSpans s d), portFree s k = true) →
    (∀ x, d.dir = 0 → hostOk s f d.src d.len = true → devAt s f d.dst = .near x → d.dst % pageSize + d.len ≤ pageSize →
        frozenIn s f d.dst d.len = none → stagedIn s f d.dst d.len = none →
      Ends (.dmaComplete f q cid) s d.hdr 0 0 0 (fun u =>
        mread u.near x d.len = hostRead s f d.src d.len ∧ (∀ a, a < x ∨ x + d.len ≤ a → mget u.near a = mget s.near a)
          ∧ Piece.host.kept s u ∧ Piece.tileStore.kept s u ∧ Piece.ptab.kept s u ∧ u.dmas = s.dmas.erase d ∧ u.objs = s.objs))
    ∧ (∀ (v : State) (b : Bytes), d.dir = 1 → hostOk s f d.dst d.len = true →
        devRead f d.src d.len (leave d.req { s with dmas := s.dmas.erase d }) = (v, 0, b) → hostOk v f d.dst d.len = true →
      Ends (.dmaComplete f q cid) s d.hdr 0 0 0 (fun u =>
        u.host = mwrite v.host (hostKey f d.dst) b ∧ Piece.near.kept v u ∧ Piece.tileStore.kept v u ∧ Piece.ptab.kept v u)))

/-- Placement: PLACE begins a request, its pages copy and commit, and the entry shows it.
PLACE of an object that is not yet where its entry asks, with no earlier request unchecked or on its entry: a request stands with the
moves that it needs, and the entry shows MOVING;
of one that already is, the request ends at once with its code, and the entry records it.
Migration: the oldest request's next page begins its copy while fewer than 64 are in copy, and a page in copy commits to its
target in its turn, counted.
Points that the spec leaves open are the model's choice: log entry 35. -/
def Obligations.PlacementMovesPages : Prop :=
  (∀ (s : State) (h : CmdHdr) (hd : Nat) (o : Obj) (mask seq : Nat), Ready (.place h hd) s →
      (∀ r ∈ s.places, r.checked = true ∧ ¬(r.fn = h.fn.val ∧ r.handle = hd)) → objGet s h.fn.val hd = some o → o.fn = h.fn.val →
      o.handle = hd → reqFields s h.fn.val hd = (0, mask, seq) → mask ≠ 0 →
      (∀ st ∈ bitPositions 8 mask, stackOn s st = true ∧ fnGranules s h.fn.val st ≠ []) →
      let idx := (List.range o.pages.length).filter (fun (k : Nat) => match (o.pages[k]? : Option PageLoc) with
        | some (.near st _) => st != stackFor mask k
        | some (.far _) => true
        | none => false)
      (idx = [] → Ends (.place h hd) s h 1 0 0 (fun u =>
        objGet u h.fn.val hd = some { o with result := 1, doneSeq := seq, state := 1 } ∧ Only (took (.place h hd) s) u [] [.objs]))
      ∧ (∀ ps, idx ≠ [] → placePages s h.fn.val (idx.map (fun k => some (stackFor mask k))) = some ps →
        Goes (.place h hd) s (fun u =>
          objGet u h.fn.val hd = some { o with state := 2 }
            ∧ u.places = s.places ++ [{ hdr := h, fn := h.fn.val, handle := hd, tier := 0, mask := mask, seq := seq, checked := true,
                                        moves := List.zip idx ps, copying := [], superseded := false }]
            ∧ Only (took (.place h hd) s) u [] [.objs, .places])))
  ∧ ((∀ (s : State) (r : PlaceReq) (m : Nat × PageLoc) (ms : List (Nat × PageLoc)), getR s Reg.MIGRATING < 64 → awake s = true → healthy s = true →
        s.places.find? (fun r => !r.moves.isEmpty && fnActive s r.fn) = some r → r.moves = m :: ms →
      Goes .pageCopy s (fun u =>
        u.places = s.places.map (fun x => if x = r then { r with moves := ms, copying := r.copying ++ [(m.1, m.2, s.nextUns)] } else x)
          ∧ u.nextUns = s.nextUns + 1 ∧ Only s u [Reg.MIGRATING] [.places, .uns, .nextUns]))
    ∧ (∀ (s : State) (f : FnId) (hd page : Nat) (r : PlaceReq) (o : Obj) (m : Nat × PageLoc × Nat) (old : PageLoc),
        s.places.find? (fun r => r.fn == f.val && r.handle == hd) = some r → objGet s f hd = some o → o.fn = f.val → o.handle = hd →
        r.copying.find? (fun m => m.1 == page) = some m → o.pages[page]? = some old → s.faultSeq.phase = .none →
        (∀ g x, pageDev s f old 0 = .far g x → hostOk s g x pageSize = true) → (2 ≤ r.copying.length ∨ r.moves ≠ []) →
        MemoriesWf s → mayServe s m.2.2 = true →
      Goes (.migrationCommit f hd page) s (fun u =>
        objGet u f hd = some { o with pages := o.pages.set page m.2.1 }
          ∧ (∀ p x, pageDev s f old 0 = .near p → pageDev s f m.2.1 0 = .near x → p ≠ x → ∀ i, i < pageSize → mget u.near (x + i) = mget s.near (p + i))
          ∧ getR u Reg.PAGES_MIGRATED = (getR s Reg.PAGES_MIGRATED + 1) % 2 ^ widthOf Reg.PAGES_MIGRATED
          ∧ u.ctxs = s.ctxs ∧ u.owed = s.owed ∧ Piece.tileStore.kept s u ∧ Piece.ptab.kept s u)))

/-- Memory events: an unscheduled request of age 2^14 is overdue; a failed far-store read raises its cause, and for a context a chip
fault of code 0x0A; otherwise the oldest DMA of the function that reads the far store fails. A temperature readout sets TEMP and the
refresh rate. A scrub pass is counted, and the rows with two or more corrected errors are logged as candidates.
Points that the spec leaves open are the model's choice: log entries 14 and 36. -/
def Obligations.MemoryEvents : Prop :=
  (∀ (s : State) (id : Nat) (x : Unsched), s.uns.find? (fun u => u.id == id && !u.overdue && 16384 ≤ ageOf s u) = some x →
    Goes (.ticketOverdue id) s (fun u =>
      bitR u Reg.MEM_CAUSE 7 = true ∧ getR u (Reg.MEM_OVERDUE x.group.val) = min (getR s (Reg.MEM_OVERDUE x.group.val) + 1) 0xFFFFFFFF
        ∧ u.uns = s.uns.map (fun y => if y.id = id then { y with overdue := true } else y)
        ∧ Only s u [Reg.MEM_CAUSE, Reg.MEM_OVERDUE x.group.val] [.uns]))
  ∧ (∀ (s : State) (f : FnId), inService s = true →
    Goes (.farAccessError f false) s (fun u => ∃ w, bitR w Reg.MEM_CAUSE 5 = true ∧ Only s w [Reg.MEM_CAUSE] []
        ∧ u = (match s.dmas.find? (fun d => d.hdr.fn.val == f.val && readsFar w d) with
          | some d => failDma f.val d.hdr.qp d.hdr.cid w
          | none => w))
    ∧ (healthy s = true → s.power.rest = .awake → Goes (.farAccessError f true) s (fun u =>
        bitR u Reg.MEM_CAUSE 5 = true ∧ getR u Reg.FAULT_CODE = 0x0A000000 + f.val ∧ getR u Reg.FAULT_TIME = s.timeBase % 2 ^ widthOf Reg.FAULT_TIME
          ∧ bitR u Reg.FAULT_STATUS 0 = true ∧ u.faultSeq = { phase := .sequence, since := s.timeBase }
          ∧ Only s u [Reg.MEM_CAUSE, Reg.FAULT_CODE, Reg.FAULT_TIME, Reg.FAULT_STATUS, Reg.FAULT_COUNT] [.faultSeq])))
  ∧ (∀ (s : State) (ts : List Nat), s.start.inReset = false → s.power.rest ≠ .sleep → ts.length = 8 →
    Goes (.temperatureReadout ts) s (fun u =>
      (∀ st, st < 8 → stackOn s st = true →
        fld u (Reg.STACK_STATUS st) 23 16 = min (nth ts st) 255 ∧ bitR u (Reg.STACK_STATUS st) 14 = decide (85 ≤ nth ts st)
          ∧ (decide (85 ≤ nth ts st) ≠ bitR s (Reg.STACK_STATUS st) 14 → bitR u Reg.MEM_CAUSE 8 = true))
        ∧ Only s u (Reg.MEM_CAUSE :: (List.range 8).map Reg.STACK_STATUS) []))
  ∧ (∀ s : State, bitR s Reg.SCRUB_CONTROL 31 = true → s.power.rest ≠ .sleep →
    Goes .scrubPass s (fun u =>
      bitR u Reg.MEM_CAUSE 10 = true ∧ getR u Reg.SCRUB_PASSES = min (getR s Reg.SCRUB_PASSES + 1) 0xFFFFFFFF
        ∧ getR u Reg.SPARE_CANDIDATES = min (getR s Reg.SPARE_CANDIDATES + (candidates s).length) 0xFFFFFFFF
        ∧ (∀ r, r ∈ u.store.spareLog ↔ r ∈ s.store.spareLog ∨ r ∈ candidates s)
        ∧ (s.errs = [] → Only s u [Reg.MEM_CAUSE, Reg.SCRUB_PASSES, Reg.SPARE_CANDIDATES, Reg.MEM_WAIT_MAX 7] [.freeCtr])))

/-- Loading: LOAD_PITCH and REPLACE queue their image, the loader reads it, and a pitch that passes every check becomes resident.
LOAD_PITCH and REPLACE queue their image for the loader in the order in which the part took them; the loader takes the oldest load once the one before it has ended, reads the
image and keeps the verdict of the checks that the image alone decides.
A load that passes every check makes its pitch resident under the lowest free context number, which the completion names; a pitch
that fails is refused with its code and location, or, where it lost the last context number to a load of its own cycle, with RETRY,
and nothing is placed.
Points that the spec leaves open are the model's choice: log entries 33, 41, 43 and 44. -/
def Obligations.LoadsBecomeResident : Prop :=
  ((∀ (s : State) (h : CmdHdr) (len addr : Nat), Ready (.loadPitch h len addr) s → len ≠ 0 →
      Goes (.loadPitch h len addr) s (fun u => let before := fun (q : LoadReq) => decide (takenAt s q.hdr ≤ takenAt s h)
        u.loads = s.loads.filter before
            ++ [{ hdr := h, at_ := s.timeBase, addr := addr, len := len, replaces := none, takesOver := false }]
            ++ s.loads.filter (fun q => !before q)
        ∧ Only (took (.loadPitch h len addr) s) u [] [.loads]))
    ∧ (∀ (s : State) (h : CmdHdr) (c len addr : Nat) (x : Ctx), Ready (.replace h c len addr) s → len ≠ 0 →
        ctxOf s h.fn.val c = some x →
      Goes (.replace h c len addr) s (fun u => let before := fun (q : LoadReq) => decide (takenAt s q.hdr ≤ takenAt s h)
        u.loads = s.loads.filter before
            ++ [{ hdr := h, at_ := s.timeBase, addr := addr, len := len, replaces := some c, takesOver := true }]
            ++ s.loads.filter (fun q => !before q)
        ∧ Only (took (.replace h c len addr) s) u [] [.loads]))
    ∧ (∀ (s t : State) (r : LoadReq) (rest : List LoadReq) (img : Bytes), s.loads = r :: rest → s.loading = none → healthy s = true →
        awake s = true → loadBefore s r.hdr = false → bitR s Reg.MAINT_HOLDERS 1 = false → readPitch r.hdr.fn.val r.addr r.len { s with loads := rest } = (t, 0, img) →
      Goes .loadBegin s (fun u => u.loads = rest ∧ u = { t with loading := u.loading } ∧ (∃ g, u.loading = some g ∧ g.req = r
        ∧ g.began = s.timeBase ∧ (match parsePitch s.pitchKeys img r.len with
          | .ok p => g.pitch = some p ∧ g.code = 0 ∧ g.digest = sha384 (img.take (fieldAt img 0x0C 4))
          | .error e => g.pitch = none ∧ g.code = e.code ∧ g.sect = e.sect ∧ g.detail = e.detail)))))
  ∧ (∀ (s : State) (g : Loading) (p : Pitch), s.loading = some g → g.pitch = some p → healthy s = true → s.power.rest = .awake →
      bitR s Reg.MAINT_HOLDERS 1 = false →
      (∀ c t hs, freeCtx s = some c → checkPlace { s with loading := none } g.req.hdr.fn.val c p = .ok (t, hs) → g.req.replaces = none →
        g.req.takesOver = false → p.flags.testBit 3 = false →
        Goes .pitchLoadComplete s (fun u =>
          u = complete 1 0 c 0 g.req.hdr (reside c g.req p g.digest hs (tookUnit .contexts g.req.at_ g.req.hdr t))
          ∧ (∃ x, ctxGet u c = some x ∧ x.fn = g.req.hdr.fn.val ∧ x.pitch = p ∧ x.started = false ∧ x.handles = hs ∧ x.unload = none
              ∧ ∀ l site, l ∈ usedTiles p.tileMap → siteOfTile s l = some site → (tget x.tiles site).isSome = true)
          ∧ tget u.ctxFn c = some g.req.hdr.fn.val ∧ u.loading = none))
      ∧ (∀ e, checkPlace { s with loading := none } g.req.hdr.fn.val ((freeCtx s).getD 0) p = .error e → Goes .pitchLoadComplete s (fun u =>
          u = (if e.code = 0x15 ∧ lostTie { s with loading := none } .contexts g.req.at_ g.req.hdr
              then reject g.req.hdr 7 { s with loading := none }
              else complete 0 0 (loadResult e) 0 g.req.hdr { s with loading := none })
            ∧ u.ctxs = s.ctxs ∧ u.objs = s.objs)))

/-- START sets a context off on each of its tiles, running or READY, and sets the step of a training context; POST adds its count to a
token of a tile.
UNLOAD waits for its boundary, DISCARD taking over from DRAIN; at the boundary the context is gone with its tiles' share of it, and a
successor starts.
Points that the spec leaves open are the model's choice: log entry 45. -/
def Obligations.ContextsRunAndLeave : Prop :=
  ((∀ (s : State) (h : CmdHdr) (a : StartArgs) (x : Ctx), Ready (.start h a) s → ContextsWf s → ctxOf s h.fn.val a.ctx = some x → a.use ≤ 3 →
      x.started = false → x.replaces = none → (a.use.testBit 1 = true → lossScaleOk a.lossScale = true) →
    Ends (.start h a) s h 0 0 0 (fun u =>
      (∃ y, ctxGet u a.ctx = some y ∧ y.started = true ∧ y.pitch = x.pitch)
        ∧ (∀ site t, tget x.tiles site = some t → site < 576 → (ctxStateAt u a.ctx site = 1 ∨ ctxStateAt u a.ctx site = 2)
            ∧ nextFig u a.ctx site = 0)
        ∧ (x.pitch.flags.testBit 0 = true → getR u (Reg.STEP a.ctx) = (if a.use.testBit 0 then a.step else 0) % 2 ^ 64)
        ∧ Piece.near.kept s u ∧ Piece.ptab.kept s u))
  ∧ (∀ (s : State) (h : CmdHdr) (c k l n site : Nat) (x : Ctx) (t : TileCtx), Ready (.post h c k l n) s → ctxOf s h.fn.val c = some x →
      siteOfTile s l = some site → tget x.tiles site = some t → k < 30 → tokGet t k + n ≤ 255 →
    Ends (.post h c k l n) s h 0 0 0 (fun u =>
      (∃ t', tcGet u c site = some t' ∧ t'.g = t.g ∧ ∀ j, tokGet t' j = if j = k then tokGet t k + n else tokGet t j)
        ∧ Only (took (.post h c k l n) s) u [Reg.POWER_CONTROL, Reg.TILE_POWER site] [.ctxs, .sites]))
  ∧ (∀ (s : State) (h : CmdHdr) (c k l n site : Nat) (x : Ctx) (t : TileCtx), Ready (.post h c k l n) s → ctxOf s h.fn.val c = some x →
      siteOfTile s l = some site → tget x.tiles site = some t → k < 30 → 255 < tokGet t k + n →
    Ends (.post h c k l n) s h 0x10 0 0 (fun u => u = took (.post h c k l n) s)))
  ∧ ((∀ (s : State) (h : CmdHdr) (c mode : Nat) (x : Ctx), Ready (.unload h c mode) s → ctxOf s h.fn.val c = some x → mode ≤ 1 →
    Goes (.unload h c mode) s (fun u =>
      (∃ y, ctxGet u c = some y ∧ y.unload = some (max (x.unload.getD (0, [])).1 mode, (x.unload.getD (0, [])).2 ++ [h]))
        ∧ (serveGet s c = none → Only (took (.unload h c mode) s) u [] [.ctxs])))
  ∧ (∀ (s : State) (c : CtxId) (x : Ctx), ctxGet s c = some x → healthy s = true → awake s = true → unloadReady s c x = true →
    let gone := fun (u : State) => ctxGet u c = none ∧ tget u.train c = none ∧ (∀ m ∈ u.mesh, m.ctx ≠ c.val)
      ∧ (∀ st site, tget u.sites site = some st → (tget x.tiles site).isSome = true → ∀ f ∈ st.flights, f.ctx ≠ c.val)
    (x.replacedBy = [] → Goes (.unloadTakesEffect c) s gone)
    ∧ (∀ n y, n ∈ x.replacedBy → n ≠ c.val → ctxGet s n = some y → Goes (.replaceHandover c) s (fun u =>
        ctxGet u c = none ∧ ∃ z, ctxGet u n = some z ∧ z.started = true ∧ z.pitch = y.pitch))))

/-- Argument, loop and token figures.
SET, ADDG and REPEAT: the argument register takes the value, or gains the step modulo 2^20; a body is opened. No memory changes.
WAIT takes its count from the token counter, or holds with code 4 while the counter is short; POST adds 1 to the tile's own counter
or flies towards another tile, where its delivery adds 1.
Points that the spec leaves open are the model's choice: log entries 46 and 84. -/
def Obligations.ArgumentAndTokenFigures : Prop :=
  (∀ (s : State) (site : SiteId) (e : Env), Issues s site e →
      (∀ i v, e.fig = .set i v → Goes (.set site) s (fun u => Issued s u e
        ∧ (∃ t, tcGet u e.c e.site = some t ∧ t.t = e.t.t ∧ ∀ j, gReg t j = if j = i then v % 2 ^ 20 else gReg e.t j)
        ∧ Only s u (issueRegs e) [.ctxs, .sites]))
      ∧ (∀ i v, e.fig = .addg i v → Goes (.addg site) s (fun u => Issued s u e
        ∧ (∃ t, tcGet u e.c e.site = some t ∧ t.t = e.t.t ∧ ∀ j, gReg t j = if j = i then (gReg e.t i + v) % 2 ^ 20 else gReg e.t j)
        ∧ Only s u (issueRegs e) [.ctxs, .sites]))
      ∧ (∀ b n, e.fig = .repeatBody b n → Goes (.repeatFig site) s (fun u => Issued s u e
        ∧ (∃ t, tcGet u e.c e.site = some t
            ∧ t.loops = (e.index + 1, e.index + 2 + b, n) :: (advanceLoops e.t.loops (e.index + 1)).1)
        ∧ Only s u (issueRegs e) [.ctxs, .sites])))
  ∧ ((∀ (s : State) (site : SiteId) (e : Env), Issues s site e →
      (∀ k n, e.fig = .wait k n → n ≤ tokGet e.t k → Goes (.wait site) s (fun u => Issued s u e
        ∧ (∃ t, tcGet u e.c e.site = some t ∧ t.g = e.t.g ∧ ∀ j, tokGet t j = if j = k then tokGet e.t k - n else tokGet e.t j)
        ∧ Only s u (issueRegs e) [.ctxs, .sites]))
      ∧ (∀ k n, e.fig = .wait k n → tokGet e.t k < n → (siteGet s e.site).hold = none → Goes (.wait site) s (fun u =>
        Holds s u e 4 ∧ u.ctxs = s.ctxs ∧ Only s u (statusRegs e.site) [.sites]))
      ∧ (∀ k r, e.fig = .post false k r → tokGet e.t k < 255 → Goes (.postToken site) s (fun u => Issued s u e
        ∧ (∃ t, tcGet u e.c e.site = some t ∧ t.g = e.t.g ∧ ∀ j, tokGet t j = if j = k then tokGet e.t k + 1 else tokGet e.t j)
        ∧ Only s u (Reg.POWER_CONTROL :: issueRegs e) [.ctxs, .sites]))
      ∧ (∀ k id r, e.fig = .post true k id → routeOf e.x.pitch id = some r → endsAt r.src e.l = true → r.dst.testBit 15 = false →
          Goes (.postToken site) s (fun u => Issued s u e
        ∧ Flies s u e (.remotePost id k) 0 [] [] none ∧ Only s u (issueRegs e) [.ctxs, .sites])))
    ∧ (∀ (s : State) (site : SiteId) (id : Nat) (f : Flight) (rt k : Nat) (x : Ctx) (r : Route) (dst : Nat) (t : TileCtx),
        Due s site id f → f.work = .remotePost rt k → f.post = none → ctxGet s f.ctx = some x → routeOf x.pitch rt = some r →
        tget s.siteMap (r.dst % 512) = some dst → tget x.tiles dst = some t → tokGet t k < 255 →
      Goes (.remotePostDelivery site id) s (fun u => flightOf u site id = none
        ∧ (∃ t', tcGet u f.ctx dst = some t' ∧ t'.g = t.g ∧ ∀ j, tokGet t' j = if j = k then tokGet t k + 1 else tokGet t j)
        ∧ Only s u (Reg.POWER_CONTROL :: Reg.TILE_POWER dst :: statusRegs site) [.ctxs, .sites])))

/-- Step and vote figures, and the tiles that doze and wake.
SLEEP waits until its cycle, is over at once, or is late; a sleeping tile without array or vector work dozes, and its timed wake ends
the sleep.
A VOTE holds its tile with the flag that it contributes, and begins the vote phase; END_STEP waits for the context's figures in
flight, then counts the step, clears the local flag and the saturation counts, and goes to its NEXT figure, or is DONE.
Points that the spec leaves open are the model's choice: log entries 46, 48 and 84. -/
def Obligations.StepFiguresAndSleepingTiles : Prop :=
  ((∀ (s : State) (site : SiteId) (e : Env) (fromIssue : Bool) (n : Nat), Issues s site e → e.fig = .sleep fromIssue n →
      let wake := (if fromIssue then s.cycle else e.t.stepStart) + n
      (s.cycle < wake → Goes (.sleep site) s (fun u => Issued s u e ∧ Holds s u e 5
        ∧ (∃ t, tcGet u e.c e.site = some t ∧ t.sleep = some wake) ∧ Only s u (issueRegs e) [.ctxs, .sites]))
      ∧ (wake = s.cycle → Goes (.sleep site) s (fun u => Issued s u e ∧ (siteGet u e.site).hold = none
        ∧ (∃ t, tcGet u e.c e.site = some t ∧ t.sleep = none) ∧ Only s u (issueRegs e) [.ctxs, .sites]))
      ∧ (wake < s.cycle → Goes (.sleep site) s (fun u => Issued s u e
        ∧ getR u (Reg.LATE_WAKES e.site) = min (getR s (Reg.LATE_WAKES e.site) + 1) 0xFFFFFFFF
        ∧ Only s u (Reg.LATE_WAKES e.site :: issueRegs e) [.ctxs, .sites])))
    ∧ (∀ (s : State) (site : SiteId) (c w : Nat), sleepOf s site = some (c, w) →
      (s.cycle < w → tileState s site = 0 → (siteGet s site).upUntil ≤ s.cycle → computing (siteGet s site) = false → Goes (.tileDoze site) s (fun u =>
        tileState u site = 1 ∧ Only s u [Reg.TILE_POWER site] []))
      ∧ (w ≤ s.cycle → healthy s = true → Goes (.timedWake site) s (fun u =>
        (∃ t, tcGet u c site = some t ∧ t.sleep = none) ∧ (siteGet u site).hold = none ∧ tileState u site ≠ 1
          ∧ Only s u (Reg.TILE_POWER site :: Reg.HOLD_CYCLES site :: statusRegs site) [.ctxs, .sites]))))
  ∧ (∀ (s : State) (site : SiteId) (e : Env), Issues s site e →
      (∀ pf k v, e.fig = .vote pf k v → Goes (.vote site) s (fun u => Issued s u e ∧ Holds s u e 6
        ∧ (∃ t, tcGet u e.c e.site = some t
            ∧ t.vote = some (v, if pf then some k else none, bitR s (Reg.CTX_FLAGS e.site e.t.slot) 0))
        ∧ fld u (Reg.STEP_STATE e.c) 15 0 = v % 2 ^ 16
        ∧ fld u (Reg.STEP_STATE e.c) 30 28 = (if fld s (Reg.STEP_STATE e.c) 30 28 = 1 then 2 else fld s (Reg.STEP_STATE e.c) 30 28)
        ∧ Only s u (Reg.STEP_STATE e.c :: issueRegs e) [.ctxs, .sites]))
      ∧ (∀ fin next, e.fig = .endStep fin next → (∃ f ∈ (siteGet s e.site).flights, f.ctx = e.c) → (siteGet s e.site).hold = none →
        Goes (.endStep site) s (fun u => Holds s u e 9 ∧ Only s u (statusRegs e.site) [.sites]))
      ∧ (∀ next, e.fig = .endStep false next → (∀ f ∈ (siteGet s e.site).flights, f.ctx ≠ e.c) → Goes (.endStep site) s (fun u =>
        nextFig u e.c e.site = next % 2 ^ 14
          ∧ getR u (Reg.CTX_STEPS e.site e.t.slot) = (getR s (Reg.CTX_STEPS e.site e.t.slot) + 1) % 2 ^ 32
          ∧ bitR u (Reg.CTX_FLAGS e.site e.t.slot) 0 = false ∧ (∀ a, a < 4 → (arrGet u e.site a).stepSat = 0)
          ∧ (∃ t, tcGet u e.c e.site = some t ∧ t.stepStart = s.cycle ∧ t.steps = e.t.steps + 1 ∧ t.atEnd = true ∧ t.opIndex = 0
              ∧ t.bodyAt = next)
          ∧ Only s u (Reg.CTX_STEPS e.site e.t.slot :: Reg.CTX_FLAGS e.site e.t.slot :: issueRegs e) [.ctxs, .sites]))
      ∧ (∀ next, e.fig = .endStep true next → (∀ f ∈ (siteGet s e.site).flights, f.ctx ≠ e.c) → Goes (.endStep site) s (fun u =>
        ctxStateAt u e.c e.site = 4 ∧ (siteGet u e.site).active = none ∧ SameMemory { s with host := u.host } u)))

/-- YIELD parks the context with its condition and frees the tile; the first context in order whose condition holds takes the tile, the
yielded one without a switch. A hold longer than STALL_LIMIT raises STALL_LONG once.
Points that the spec leaves open are the model's choice: log entry 46. -/
def Obligations.YieldAndSwitch : Prop :=
  (∀ (s : State) (site : SiteId) (e : Env), Issues s site e → feedersLeft s e.site e.c = true →
    (∀ k n, e.fig = .yieldToken k n → Goes (.yieldFig site) s (fun u => Issued s u e ∧ Holds s u e 7 ∧ (siteGet u e.site).active = none
      ∧ ctxStateAt u e.c e.site = 3 ∧ fld u (Reg.CTX_STATE e.site e.t.slot) 20 16 = k % 32
      ∧ (∃ t, tcGet u e.c e.site = some t ∧ t.park = some (.token k n))
      ∧ Only s u (Reg.CTX_STATE e.site e.t.slot :: issueRegs e) [.ctxs, .sites]))
    ∧ (∀ n, e.fig = .yieldTime n → Goes (.yieldFig site) s (fun u => Issued s u e ∧ Holds s u e 7 ∧ (siteGet u e.site).active = none
      ∧ ctxStateAt u e.c e.site = 3 ∧ (∃ t, tcGet u e.c e.site = some t ∧ t.park = some (.time (e.t.stepStart + n)))
      ∧ Only s u (Reg.CTX_STATE e.site e.t.slot :: issueRegs e) [.ctxs, .sites])))
  ∧ (∀ (s : State) (site : SiteId) (l c : Nat) (x : Ctx) (t : TileCtx) (k n : Nat), ContextsWf s → tileOfSite s site = some l →
      (siteGet s site).active = none → (yieldOrder s site).find? (qualifies s site) = some c → ctxGet s c = some x →
      tget x.tiles site = some t → healthy s = true → tilePowered s x.pitch l = true → t.park = some (.token k n) →
      ctxStateAt s c site = 3 →
    (c = (siteGet s site).lastYield → Goes (.contextResume site) s (fun u => (siteGet u site).active = some c
      ∧ ctxStateAt u c site = 2 ∧ (siteGet u site).hold = none ∧ (siteGet u site).busyUntil = (siteGet s site).busyUntil
      ∧ (∃ t', tcGet u c site = some t' ∧ t'.park = none ∧ tokGet t' k = tokGet t k - n)))
    ∧ (c ≠ (siteGet s site).lastYield → Goes (.contextResume site) s (fun u => (siteGet u site).active = some c
      ∧ ctxStateAt u c site = 2
      ∧ (siteGet u site).busyUntil = s.cycle + (20 * tileRate s + 8 * (siteGet s site).yieldF
          + 32 * (restores s site c).length + 64)
      ∧ getR u (Reg.SWITCHES site) = min (getR s (Reg.SWITCHES site) + 1) 0xFFFFFFFF)))
  ∧ (∀ (s : State) (site : SiteId) (h : Hold), (siteGet s site).hold = some h → (h.kind = 4 ∨ h.kind = 6 ∨ h.kind = 7) →
      h.raised = false → getR s (Reg.STALL_LIMIT site) ≠ 0 → getR s (Reg.STALL_LIMIT site) < s.cycle - h.since →
    Goes (.stallLong site) s (fun u => bitR u (Reg.CALLER_CAUSE site) 3 = true
      ∧ (siteGet u site).hold = some { h with raised := true } ∧ Only s u [Reg.CALLER_CAUSE site] [.sites]))

/-- LOAD and TABLE fly with what they read, a LOAD also recorded for restores; their completions latch the block in the array and
write the rescale entries.
Points that the spec leaves open are the model's choice: log entries 46 and 85. -/
def Obligations.LoadAndTableFigures : Prop :=
  (∀ (s : State) (site : SiteId) (e : Env), Issues s site e →
    (∀ a m wv sc b, e.fig = .load a m wv sc b →
      let fr := frame e.t e.fig
      let r : LoadRec := { mode := m, wvar := wv, scales := sc, pack1 := nth fr 0, pack2 := nth fr 1, scaleAddr := nth fr 2 }
      (∃ q, arrRec e.x.pitch e.l a = some q ∧ q.modes.testBit m = true) → a < 4 → feederFree s e.site a = true →
      loaderBusy (siteGet s e.site) a = false → MayFly s e (loadReads r) [] →
      Goes (.load site) s (fun u => Issued s u e ∧ Flies s u e (.load a (loadLatch s e.c e.l r)) 32 (loadReads r) [] none
        ∧ (∃ t, tcGet u e.c e.site = some t ∧ tget t.loads a = some r)
        ∧ Only s u (Reg.ARR_BUSY e.site a :: issueRegs e) [.ctxs, .sites]))
    ∧ (∀ a b, e.fig = .table a b →
      let fr := frame e.t e.fig
      let rd := [(nth fr 0, ceilDiv (nth fr 2) 4)]
      (∃ q, arrRec e.x.pitch e.l a = some q ∧ q.chBase ≤ nth fr 1 ∧ nth fr 1 + nth fr 2 ≤ q.chBase + q.chCount) → nth fr 2 ≠ 0 →
      nth fr 1 + nth fr 2 ≤ 4096 → loaderBusy (siteGet s e.site) a = false → MayFly s e rd [] →
      streamHazard (siteGet s e.site) a (nth fr 1) (nth fr 2) s.cycle (s.cycle + ceilDiv (nth fr 2) 4) = false →
      Goes (.table site) s (fun u => Issued s u e
        ∧ Flies s u e (.table a (nth fr 1) (entriesOf (tsRead s e.l (nth fr 0) (ceilDiv (nth fr 2) 4)) (nth fr 2)))
            (ceilDiv (nth fr 2) 4) rd [] none
        ∧ Only s u (issueRegs e) [.ctxs, .sites])))
  ∧ (∀ (s : State) (site : SiteId) (id : Nat) (f : Flight), Due s site id f → f.post = none →
    (∀ a b, f.work = .load a b → a < 4 → Goes (.blockLoadComplete site id) s (fun u => flightOf u site id = none
      ∧ (arrGet u site a).latch = some b ∧ (∀ x, x ≠ a → arrGet u site x = arrGet s site x)
      ∧ getR u (Reg.ARR_LOADS site a) = (getR s (Reg.ARR_LOADS site a) + 1) % 2 ^ widthOf (Reg.ARR_LOADS site a)
      ∧ u.errs = s.errs.filter (fun e => e.1 != .weight site a)
      ∧ Only s u (Reg.ARR_LOADS site a :: statusRegs site) [.sites, .errs]))
    ∧ (∀ a first vals, f.work = .table a first vals → Goes (.tableLoadComplete site id) s (fun u => flightOf u site id = none
      ∧ (∀ k, k < vals.length → tgetD (arrGet u site a).entries (first + k) (0, 0) = vals.getD k (0, 0))
      ∧ (∀ k, (k < first ∨ first + vals.length ≤ k) → tgetD (arrGet u site a).entries k (0, 0) = tgetD (arrGet s site a).entries k (0, 0))
      ∧ (∀ k bad, first ≤ k → k < first + vals.length → (ErrPlace.entry site a k, bad) ∉ u.errs)
      ∧ Only s u (statusRegs site) [.sites, .errs])))

/-- STREAM: its beats run through the arrays that it names with the rescale entries of its issue, their rows and counters are set at once,
and its writes wait for the completion, which puts them into the tile store; one that takes its data from the LOCAL port is in flight
without a beat while no flit waits for it, and completes once every flit has come and the last beat has passed.
Points that the spec leaves open are the model's choice: log entries 46, 49, 85 and 92. -/
def Obligations.StreamFigures : Prop :=
  (∀ (s : State) (site : SiteId) (e : Env) (m : Nat) (xv st em rs : Bool) (o b : Nat), Issues s site e →
      e.fig = .stream m false xv st em rs o b →
    let fr := frame e.t e.fig
    let as := arraysOf m
    let n := streamBeats fr
    let mode0 := (as.filterMap (fun a => (blockFor s e a).map (·.mode))).head?
    let md := mode0.getD 0
    let data := beatsOf md (tsRead s e.l (nth fr 0) n) (tsRead s e.l (nth fr 3) (scaleWords md n)) n
    (∀ ka ∈ List.zip (List.range as.length) as, streamCode s e mode0 (streamArgs e.fig fr ka.1) n ka.2 = none) →
    nth fr 1 < 2 ^ 18 → nth fr 2 < 2 ^ 12 → (∀ a ∈ as, feederFree s e.site a = true ∧ blockLoading (siteGet s e.site) a = false) →
    MayFly s e (streamReads e.fig fr md) (streamDests e.fig fr md) →
    ∀ t ws, streamAll e.c e.site e.fig fr { first := 0, at_ := s.cycle, ents := entsNow s e.site as, data := data } (advance e s) = (t, ws) →
    Goes (.stream site) s (fun u =>
      u = syncSite e.site (fly e (.stream as n ws (streamUses e.fig fr md)) (n - 1 + streamTail e.fig) (streamReads e.fig fr md) (streamDests e.fig fr md) none t)
        ∧ u.tileStore = s.tileStore ∧ Flies t u e (.stream as n ws (streamUses e.fig fr md)) (n - 1 + streamTail e.fig) (streamReads e.fig fr md)
            (streamDests e.fig fr md) none))
  ∧ (∀ (s : State) (site : SiteId) (e : Env) (m : Nat) (xv st em rs : Bool) (o b : Nat) (r : Route), Issues s site e →
      e.fig = .stream m true xv st em rs o b →
    let fr := frame e.t e.fig
    let as := arraysOf m
    let n := streamBeats fr
    let mode0 := (as.filterMap (fun a => (blockFor s e a).map (·.mode))).head?
    let md := mode0.getD 0
    (∀ ka ∈ List.zip (List.range as.length) as, streamCode s e mode0 (streamArgs e.fig fr ka.1) n ka.2 = none) →
    routeOf e.x.pitch (nth fr 0) = some r → endsAt r.dst e.l = true →
    nth fr 1 < 2 ^ 18 → nth fr 2 < 2 ^ 12 → (∀ a ∈ as, feederFree s e.site a = true ∧ blockLoading (siteGet s e.site) a = false) →
    (∀ f ∈ (siteGet s e.site).flights, portMask f.work = 0) → bufferedFlits (siteGet s e.site) e.c (nth fr 0) = [] →
    MayFly s e (streamReads e.fig fr md) (streamDests e.fig fr md) →
    Goes (.stream site) s (fun u => Issued s u e
      ∧ Flies s u e (.portStream (portStreamOf s e fr (nth fr 0) n md as)) (n - 1 + streamTail e.fig) (streamReads e.fig fr md)
          (streamDests e.fig fr md) none
      ∧ Only s u (issueRegs e) [.ctxs, .sites]))
  ∧ (∀ (s : State) (site : SiteId) (id l : Nat) (f : Flight), Due s site id f → f.post = none → tileOfSite s site = some l →
    (∀ as n ws us, f.work = .stream as n ws us → Goes (.streamComplete site id) s (fun u => flightOf u site id = none
      ∧ u.tileStore = (tsWrites l ws s).tileStore ∧ Only s u (statusRegs site) [.sites, .tileStore]))
    ∧ (∀ p, f.work = .portStream p → p.got = p.need → (p.fed.getLast?.getD 0) + streamTail p.fig ≤ s.cycle →
      Goes (.streamComplete site id) s (fun u => flightOf u site id = none ∧ u.tileStore = (tsWrites l p.writes s).tileStore
        ∧ Only s u (statusRegs site) [.sites, .tileStore])))

/-- Every VECTOR operation flies with the results of its operation, for its vectors, formats and rounding, and counts saturated lanes and
non-finite results; its completion puts the results into the tile store.
Points that the spec leaves open are the model's choice: log entries 8, 46 and 84. -/
def Obligations.VectorFigures : Prop :=
  (∀ (c : SiteId → Instr) (op : Nat), (c, op) ∈ vectorRows → ∀ (s : State) (site : SiteId) (e : Env), Issues s site e →
      (∃ r fin i o b mi mo, e.fig = .vector op r fin i o b mi mo) →
    let p := vecArgs e
    let r := runVector s e.l p (laneRnd s e p.round)
    p.n ≤ 65536 → (siteGet s e.site).vecUntil ≤ s.cycle → MayFly s e (vecReads p) (vecDests p) →
    Goes (c site) s (fun u => Issued s u e ∧ Flies s u e (.vector r.writes) (vecDue p) (vecReads p) (vecDests p) none
      ∧ (siteGet u e.site).vecUntil = s.cycle + vecBusy p
      ∧ getR u (Reg.VEC_SAT e.site) = min (getR s (Reg.VEC_SAT e.site) + r.sat) 0xFFFFFFFF
      ∧ getR u (Reg.VEC_NONFINITE e.site) = min (getR s (Reg.VEC_NONFINITE e.site) + r.bad) 0xFFFFFFFF
      ∧ (r.bad ≠ 0 → bitR u (Reg.CTX_FLAGS e.site e.t.slot) 0 = true)
      ∧ Only s u (Reg.VEC_SAT e.site :: Reg.VEC_NONFINITE e.site :: Reg.CTX_FLAGS e.site e.t.slot :: issueRegs e) [.ctxs, .sites]))
  ∧ (∀ (s : State) (site : SiteId) (id l : Nat) (f : Flight) (ws : List (Nat × Bytes)), Due s site id f → f.post = none →
      tileOfSite s site = some l → f.work = .vector ws →
    Goes (.vectorComplete site id) s (fun u => flightOf u site id = none ∧ u.tileStore = (tsWrites l ws s).tileStore
      ∧ Only s u (statusRegs site) [.sites, .tileStore]))

/-- SEND and RECEIVE: the flits of a SEND to a tile stand on the mesh at once, and its last leaves the tile behind those of earlier SENDs on
the route; a RECEIVE for which no flit waits is in flight without one; a flit that arrives at the route's destination goes to the open
RECEIVE or stream of its route, or, where none is open, into the buffer.
Points that the spec leaves open are the model's choice: log entries 46 and 84. -/
def Obligations.SendAndReceiveFigures : Prop :=
  (∀ (s : State) (site : SiteId) (e : Env) (r : Route) (b rt : Nat), Issues s site e → routeOf e.x.pitch rt = some r →
    (e.fig = .send b rt → let fr := frame e.t e.fig
      endsAt r.src e.l = true → 1 ≤ nth fr 1 → nth fr 1 ≤ r.flits → MayFly s e [(nth fr 0, nth fr 1)] [] →
      Goes (.send site) s (fun u => Issued s u e
        ∧ u.mesh = (if r.dst.testBit 15 then s.mesh else s.mesh
            ++ (flitsOf (tsRead s e.l (nth fr 0) (nth fr 1))).map (fun p => { ctx := e.c, route := rt, payload := p }))
        ∧ Flies s u e (.send rt (flitsOf (tsRead s e.l (nth fr 0) (nth fr 1)))) (sendDue s e rt (popcount r.slotMask) (nth fr 1) - s.cycle)
            [(nth fr 0, nth fr 1)] [] none
        ∧ Only s u (issueRegs e) [.ctxs, .sites, .mesh]))
    ∧ (∀ pf k, e.fig = .receive b pf k rt → let fr := frame e.t e.fig
      endsAt r.dst e.l = true → 1 ≤ nth fr 1 → nth fr 1 ≤ r.flits → MayFly s e [] [(nth fr 0, nth fr 1)] →
      bufferedFlits (siteGet s e.site) e.c rt = [] →
      Goes (.receive site) s (fun u => Issued s u e
        ∧ Flies s u e (.receive rt (nth fr 0) (nth fr 1) 0) 0 [] [(nth fr 0, nth fr 1)] (if pf then some k else none)
        ∧ Only s u (issueRegs e) [.ctxs, .sites])))
  ∧ (∀ (s : State) (site : SiteId) (id : Nat) (f : Flight), Due s site id f → f.post = none →
    (∀ rt fl x r, f.work = .send rt fl → ctxGet s f.ctx = some x → routeOf x.pitch rt = some r → r.dst.testBit 15 = false →
      Goes (.sendComplete site id) s (fun u => flightOf u site id = none ∧ Only s u (statusRegs site) [.sites]))
    ∧ (∀ rt d n, f.work = .receive rt d n n → Goes (.receiveComplete site id) s (fun u => flightOf u site id = none
      ∧ Only s u (statusRegs site) [.sites])))
  ∧ (∀ (s : State) (site : SiteId) (c : CtxId) (rt l : Nat) (payload : Bytes) (m : MeshFlit),
      s.mesh.find? (fun m => m.ctx == c.val && m.route == rt) = some m → m.payload = payload → tileOfSite s site = some l →
      routeEndsAt s c rt l = true → healthy s = true →
    (∀ f d need got, (siteGet s site).flights.find? (openFor c rt) = some f → f.work = .receive rt d need got →
      Goes (.localArrival site c rt payload) s (fun u => u.mesh = s.mesh.erase m
        ∧ u.tileStore = (tsWrite s l (d + got) payload).tileStore ∧ (∃ g, flightOf u site f.id = some g ∧ g.work = .receive rt d need (got + 1))
        ∧ Only s u [] [.mesh, .sites, .tileStore]))
    ∧ (∀ f p, (siteGet s site).flights.find? (openFor c rt) = some f → f.work = .portStream p →
      ∀ q t, feedBeat l f.ctx site payload s.cycle p { s with mesh := s.mesh.erase m } = (q, t) →
      Goes (.localArrival site c rt payload) s (fun u => u = setWork site f.id (.portStream q) t ∧ q.got = p.got + 1 ∧ u.mesh = t.mesh))
    ∧ ((siteGet s site).flights.find? (openFor c rt) = none → bufferLoad s site < 64 →
      Goes (.localArrival site c rt payload) s (fun u => u.mesh = s.mesh.erase m
        ∧ (siteGet u site).buffer = (siteGet s site).buffer ++ [(c.val, rt, payload)] ∧ Only s u [] [.mesh, .sites])))

/-- FETCH and STORE fly with their move; the completion of one of an object without codec moves its bytes between the object and the
tile store.
Points that the spec leaves open are the model's choice: log entries 46 and 85. -/
def Obligations.FetchAndStoreFigures : Prop :=
  (∀ (s : State) (site : SiteId) (e : Env) (obj b k : Nat) (pf : Bool) (o : ObjRec), Issues s site e → e.x.pitch.objs[obj]? = some o →
      o.kind = 1 →
    let fr := frame e.t e.fig
    let first := nth fr 1 + nth fr 2 * 2 ^ 20
    let n := nth fr 3
    let words := packWords o.format n
    let m : Move := { handle := nth e.x.handles obj, first := first, packs := n, word := nth fr 0,
                      left := if flagged o.oflags then upFrom first n else [], sum := 0, excess := 0, variant := false, extra := 0, waits := none }
    let codec := if flagged o.oflags then 24 else 0
    1 ≤ n → n ≤ 4096 → first + n ≤ packsIn o.format o.oflags o.size → tapRoom s e.site = true →
    (e.fig = .fetch b pf k obj → MayFly s e [] [(nth fr 0, words)] → Goes (.fetch site) s (fun u => Issued s u e
      ∧ Flies s u e (.fetch obj m) (80 + ns110 s + words - 1 + codec) [] [(nth fr 0, words)] (if pf then some k else none)
      ∧ Only s u (issueRegs e) [.ctxs, .sites]))
    ∧ (e.fig = .store b pf k obj → MayFly s e [(nth fr 0, words)] [] → Goes (.store site) s (fun u => Issued s u e
      ∧ Flies s u e (.store obj m) (words + 80 + codec) [(nth fr 0, words)] [] (if pf then some k else none)
      ∧ Only s u (issueRegs e) [.ctxs, .sites])))
  ∧ (∀ (s : State) (site : SiteId) (id l rec' : Nat) (f : Flight) (m : Move) (o : Obj), Due s site id f → f.post = none →
      tileOfSite s site = some l → moveObj s f m = some o →
    (f.work = .fetch rec' m → flagged o.oflags = false → Goes (.fetchComplete site id) s (fun u =>
      flightOf u site id = none ∧ u.tileStore = (fetchPlain o l m s).tileStore ∧ Piece.ptab.kept s u))
    ∧ (f.work = .store rec' m → flagged o.oflags = false → Goes (.storeComplete site id) s (fun u =>
      flightOf u site id = none ∧ u.near = (storePlain o l m s).near ∧ u.host = (storePlain o l m s).host
        ∧ Piece.tileStore.kept s u))
    ∧ (f.work = .fetch rec' m → flagged o.oflags = true → m.left = [] → Goes (.fetchComplete site id) s (fun u =>
      flightOf u site id = none ∧ Only s u (statusRegs site) [.sites]))
    ∧ (f.work = .store rec' m → flagged o.oflags = true → m.left = [] → Goes (.storeComplete site id) s (fun u =>
      flightOf u site id = none ∧ Only s u (statusRegs site) [.sites])))

/-- The codec's delivery of a pack: a descriptor of zeros gives zeros; a pack of an unflagged object is delivered as it lies; the pack of a
FETCH lands in the tile store with its scale block, and a STORE's pack is written from it. A STORE whose salt does not come waits, and is
abandoned after 10 ms.
Points that the spec leaves open are the model's choice: log entries 40 and 53. -/
def Obligations.PacksPassTheCodec : Prop :=
  (∀ (s v : State) (o : Obj) (p : Nat) (d : Bytes), flagged o.oflags = true → boundVariant o = false → scaleLen o = 0 →
      objRead true o (descOff o p) 32 s = (v, some d) → (∀ b ∈ d, b = 0#8) →
    readPack true o p s = (v, { err := 0, raw := List.replicate (packBytes o.format) 0#8, scale := [], kind := 0, charge := 32, extra := 0 }))
  ∧ (∀ (s v : State) (o : Obj) (p : Nat) (b : Bytes), flagged o.oflags = false → boundVariant o = false → scaleLen o = 0 →
      packBytes o.format ≠ 0 → objRead true o (slotOff o p) (packBytes o.format) s = (v, some b) →
    expandPack true o p s = (v, { err := 0, raw := b, scale := [], kind := 2, charge := packBytes o.format, extra := 0 }))
  ∧ (∀ (s v : State) (u : StackId) (site : SiteId) (id l k p : Nat) (ps : List Nat) (f : Flight) (m : Move) (o : Obj) (r : PackOut),
      flightOf s site id = some f → tileOfSite s site = some l → f.work = .fetch k m → moveObj s f m = some o → m.left = p :: ps →
      unitWorks s u = true → unitOf s o p = u → packHeld s o p = false → expandPack true o p s = (v, r) → r.err = 0 →
    Goes (.packRead u site id) s (fun x =>
      (let t := mwrite v.tileStore (wordKey l (movePlace o m p).1) r.raw
       x.tileStore = if scaleLen o = 0 then t else mwrite t (wordKey l (movePlace o m p).2) r.scale)
        ∧ Piece.near.kept v x ∧ x.objs = v.objs
        ∧ ∃ m', m'.left = ps ∧ m'.sum = m.sum + r.charge ∧ (siteGet x site).flights = (siteGet v site).flights.map (fun g =>
            if g.id = f.id then { g with due := if ps.isEmpty then f.due + moveExtra true m' else f.due, work := .fetch k m' } else g)))
  ∧ (∀ (s v : State) (u : StackId) (site : SiteId) (id l k p : Nat) (ps : List Nat) (f : Flight) (m : Move) (o : Obj) (r : PackOut),
      flightOf s site id = some f → tileOfSite s site = some l → f.work = .store k m → moveObj s f m = some o → m.left = p :: ps →
      unitWorks s u = true → unitOf s o p = u → (m.waits.isSome = true ∨ packHeld s o p = false) →
      writePack true o p (tsRead s l (movePlace o m p).1 (rawWords o)) (if scaleLen o = 0 then [] else tsRead s l (movePlace o m p).2 1) s
        = (v, r) →
    (r.err = 0 → Goes (.packWrite u site id) s (fun x => Piece.near.kept v x ∧ Piece.tileStore.kept v x ∧ x.objs = v.objs
        ∧ ∃ m', m'.left = ps ∧ m'.sum = m.sum + r.charge ∧ (siteGet x site).flights = (siteGet v site).flights.map (fun g =>
            if g.id = f.id then { g with due := if ps.isEmpty then f.due + moveExtra false m' else f.due, work := .store k m' } else g)))
    ∧ (r.err = 8 → Goes (.packWrite u site id) s (fun x => Only s x [] [.sites]
        ∧ (siteGet x site).flights = (siteGet s site).flights.map (fun g =>
            if g.id = f.id then { g with due := f.due, work := .store k { m with waits := some (m.waits.getD s.timeBase) } } else g))))
  ∧ (∀ (s : State) (u : StackId) (site : SiteId) (id k p t : Nat) (ps : List Nat) (f : Flight) (m : Move) (o : Obj),
      flightOf s site id = some f → f.work = .store k m → moveObj s f m = some o → m.left = p :: ps → m.waits = some t →
      healthy s = true → unitOf s o p = u → saltsOf s u = [] → t + 250000 ≤ s.timeBase → s.faultSeq.phase = .none →
    Goes (.entropyWait u site id) s (fun x => (siteGet x site).flights = (siteGet s site).flights.filter (fun g => g.id != id)
      ∧ bitR x (Reg.CODEC_CAUSE u) 8 = true ∧ x.faultSeq.phase = .sequence
      ∧ getR x Reg.FAULT_CODE = 0x0B * 0x1000000 + (u.val * 2 ^ 21 + 8 * 2 ^ 16) ∧ SameMemory s x ∧ x.objs = s.objs))

/-- CODEC_CODE builds a new table, codes the object anew, and leaves a run with the packs that still wait; a unit that serves a run's target
shows RUN; CODING_RUN_DONE ends a run whose passes have ended, with the measured inputs in the record; a codec record is read and set
through device memory.
Points that the spec leaves open are the model's choice: log entries 39 and 98. -/
def Obligations.CodecRecords : Prop :=
  (∀ (s v w : State) (h : CmdHdr) (a : CodeArgs) (o so o1 so1 : Obj) (bd : Option Binding) (counts : List Nat) (end_ : Coded) (left : List Nat),
      Ready (.codecCode h a) s → objGet s h.fn.val a.target = some o → objGet s h.fn.val a.source = some so → o.oflags.testBit 2 = true →
      (∀ r ∈ s.runs, ¬(r.fn = h.fn.val ∧ r.handle = a.target)) → (o.record = none → fld s Reg.CODEC_RECORDS 12 0 < 4096) →
      so.format = o.format → packCount so = packCount o →
      bd = (if a.base = 0xFFFFFFFF then none
        else some { base := a.base, factors := a.factors, rank := a.rank, orient := a.orient, packCols := a.packCols }) →
      let s0 := took (.codecCode h a) s
      (∀ b, bd = some b → bindingOk s0 o b = true) → oldPacks s0 o = [] →
      let old := o.record.getD { slot0 := none, slot1 := none, cur := 1, bind := none, mean := 0, max := 0 }
      let run : CodingRun := { hdr := h, fn := h.fn.val, handle := a.target, source := a.source, built := false, pre := [], left := [],
                               waits := none, code := 0, pack := 0 }
      let s1 := if o.record.isNone then tookUnit .records s0.timeBase h s0 else s0
      let s2 := runPut run (objPut { s1 with runs := s1.runs ++ [run] } { o with record := some { old with bind := bd } })
      let new : CodecRec → CodecRec := fun c =>
        if c.cur = 1 then { c with slot0 := some { lens := buildTable counts, bind := c.bind }, cur := 0 }
        else { c with slot1 := some { lens := buildTable counts, bind := c.bind }, cur := 1 }
      objGet s2 h.fn.val a.target = some o1 → objGet s2 h.fn.val a.source = some so1 →
      firstPass so1 o1 (bindingOf o1) (List.range (packCount o1)) (List.replicate 272 0) s2 = (v, none, counts) →
      codingPass a.source a.target h.fn.val (List.range (packCount o1))
          (objMod h.fn.val a.target (fun o => { o with record := o.record.map new }) v) = (w, end_, left) →
    Goes (.codecCode h a) s (fun u =>
      u.runs = (runPut { run with built := true, left := left, waits := if end_ = .salt then some w.timeBase else none,
                                  code := if end_ = .failed then 8 else 0, pack := if end_ = .failed then left.headD 0 else 0 } w).runs
        ∧ SameMemory w u))
  ∧ (∀ (s : State) (r : CodingRun) (o : Obj) (st : Nat), r ∈ s.runs → objGet s r.fn r.handle = some o → st ∈ objUnits s o →
      (codecStatus s st).testBit 28 = true)
  ∧ (∀ (s : State) (f : FnId) (hd : Nat) (r : CodingRun) (o : Obj) (c : CodecRec),
      runOf s f hd = some r → objGet s f hd = some o → o.fn = f.val → o.handle = hd → o.freed = false → runOver r = true →
      o.record = some c → s.faultSeq.phase = .none → fnActive s f = true →
    (r.code ≠ 0 → Ends (.codingRunDone f hd) s r.hdr r.code r.pack 0 (fun u => u.runs = (runPut r s).runs.erase r ∧ u.objs = s.objs
        ∧ SameMemory s u))
    ∧ (r.code = 0 → ∃ mean mx, Ends (.codingRunDone f hd) s r.hdr 0 mean 0 (fun u => u.runs = (runPut r s).runs.erase r
        ∧ objGet u f hd = some { o with record := some { c with mean := mean, max := mx, slot0 := if c.cur = 0 then c.slot0 else none,
                                                                slot1 := if c.cur = 1 then c.slot1 else none } }
        ∧ (∀ st ∈ objUnits s o, st < 8 → bitR u (Reg.CODEC_CAUSE st) 9 = true) ∧ SameMemory s u)))
  ∧ (∀ (s v : State) (h : CmdHdr) (hd addr : Nat) (o : Obj) (c : CodecRec), Ready (.codecTableGet h hd addr) s →
      objGet s h.fn.val hd = some o → o.record = some c →
      devWrite h.fn.val addr (recordBytes c) (took (.codecTableGet h hd addr) s) = (v, 0) →
    Ends (.codecTableGet h hd addr) s h 0 c.mean 0 (fun u => u = v))
  ∧ (∀ (s v : State) (h : CmdHdr) (hd addr : Nat) (o : Obj) (b : Bytes) (bd : Option Binding), Ready (.codecTableSet h hd addr) s →
      objGet s h.fn.val hd = some o → o.fn = h.fn.val → o.handle = hd → o.oflags.testBit 2 = true → o.record = none →
      (∀ r ∈ s.runs, ¬(r.fn = h.fn.val ∧ r.handle = hd)) → fld s Reg.CODEC_RECORDS 12 0 < 4096 →
      devRead h.fn.val addr 256 (took (.codecTableSet h hd addr) s) = (v, 0, b) → tableOk (tableLens (slice b 0 136)) = true →
      bd = (if fieldAt b 0x90 4 = 0xFFFFFFFF then none
        else some { base := fieldAt b 0x90 4, factors := fieldAt b 0x94 4, rank := fieldAt b 0x98 1, orient := fieldAt b 0x99 1,
                    packCols := fieldAt b 0x9C 4 }) → (∀ x, bd = some x → bindingOk v o x = true) → hd ≠ 0 → hd < 32768 →
    Ends (.codecTableSet h hd addr) s h 0 (fieldAt b 0x88 4) 0 (fun u =>
      objGet u h.fn.val hd = some { o with record := some { slot0 := some { lens := tableLens (slice b 0 136), bind := bd }, slot1 := none, cur := 0,
                                                            bind := bd, mean := fieldAt b 0x88 4, max := fieldAt b 0x8C 4 } }
        ∧ Only v u [Reg.CODEC_RECORDS] [.objs, .lastUnit]))

/-- The DRBG: a request draws from its state, after a reseed where one is asked or due, if the samples of the reseed pass the health tests;
the salts of a unit come from it. A failed health test stops it; the restart of the source instantiates it anew where the samples pass, and
after three attempts leaves it out.
Points that the spec leaves open are the model's choice: log entries 12 and 71. -/
def Obligations.RandomBytes : Prop :=
  (∀ (s : State) (d : Drbg) (n : Nat), drbgOn s = true → s.drbg = some d →
    let e := (samples s).1
    (reseedDue s = false → ∃ t, draw false n s = (t, some (drbgGenerate d n).1) ∧ t.drbg = some (drbgGenerate d n).2
      ∧ t.drbgReqs = s.drbgReqs + 1 ∧ Only s t [Reg.DRBG_BYTES] [.drbg, .drbgReqs])
    ∧ (∀ fresh, fresh = true ∨ reseedDue s = true → e.length = 128
      ∧ (samplesOk e = true → ∃ t, draw fresh n s = (t, some (drbgGenerate (drbgReseed d e) n).1) ∧ t.drbgReqs = 1 ∧ t.drbgAt = s.timeBase
          ∧ getR t Reg.DRBG_RESEEDS = min (getR s Reg.DRBG_RESEEDS + 1) 0xFFFFFFFF)
      ∧ (samplesOk e = false → ∃ t, draw fresh n s = (t, none) ∧ HealthFailed s t))
    ∧ (reseedDue s = true → Goes .drbgReseed s (fun u =>
        (samplesOk e = true → u.drbg = some (drbgReseed d e) ∧ u.drbgReqs = 0 ∧ u.drbgAt = s.timeBase
          ∧ Only s u [Reg.DRBG_RESEEDS] [.drbg, .drbgReqs, .drbgAt, .freeCtr])
        ∧ (samplesOk e = false → HealthFailed s u))))
  ∧ (∀ (s v : State) (u : StackId) (b : Bytes), bitR s (Reg.CODEC_STATUS u) 31 = true → (saltsOf s u).length < 1024 →
      draw false (4 * (1024 - (saltsOf s u).length)) s = (v, some b) →
    Goes (.saltRefill u) s (fun x => (saltsOf x u).length = 1024 ∧ (saltsOf x u).take (saltsOf s u).length = saltsOf s u
      ∧ fld x (Reg.CODEC_STATUS u) 10 0 = 1024 ∧ Only v x [Reg.CODEC_STATUS u] [.salts]))
  ∧ (∀ s, bitR s Reg.RANDOM_STATUS 30 = true → Goes .entropyFail s (fun u => HealthFailed s u))
  ∧ (∀ s, netUp s = true → bitR s Reg.RANDOM_STATUS 30 = true → drbgOn s = false → bitR s Reg.RANDOM_STATUS 29 = false →
      conflictOf s 7 0 = none → s.tray.round = none → Goes .entropyRestart s (fun u => bitR u Reg.MAINT_HOLDERS 5 = true
        ∧ fld u Reg.RANDOM_STATUS 28 27 = 1 ∧ Only s u [Reg.MAINT_HOLDERS, Reg.RANDOM_STATUS] []))
  ∧ (∀ (s : State) (n : Nat), bitR s Reg.MAINT_HOLDERS 5 = true → Goes (.entropyRestored n) s (fun u =>
      (samplesOk (natBe 128 n) = false → HealthFailed s u)
      ∧ (samplesOk (natBe 128 n) = true → samplesOk (samples s).1 = false → HealthFailed s u)
      ∧ (samplesOk (natBe 128 n) = true → samplesOk (samples s).1 = true →
          u.drbg = some (drbgInstantiate (samples s).1 serialBytes) ∧ drbgOn u = true ∧ u.drbgReqs = 0 ∧ u.drbgAt = s.timeBase
          ∧ bitR u Reg.MAINT_HOLDERS 5 = false ∧ bitR u Reg.RANDOM_CAUSE 1 = true
          ∧ Only s u [Reg.MAINT_HOLDERS, Reg.RANDOM_STATUS, Reg.DRBG_RESEEDS, Reg.RANDOM_CAUSE] [.drbg, .drbgReqs, .drbgAt, .freeCtr])))

/-- TLS sessions: an admitted client whose handshake draws its random bytes takes the lowest free session number with its anchor's role; a
handshake that is refused, or whose draw fails, counts in AUTH_FAILURES; a session ends on close and on 600 s without a request; HELLO
agrees on version 1.0, and closes the session of a client that does not offer it; a SCRUB_PERIOD of too low a role is answered 1 and has no effect.
Points that the spec leaves open are the model's choice: log entry 66. -/
def Obligations.ManagementSessions : Prop :=
  (∀ (s : State) (o : TlsOffer) (k role : Nat) (install : Bool), netUp s = true → s.sessions.length < 4 → freeSession s = some k →
      drbgOn s = true → o.good = true →
      ((∃ c, tget s.store.anchors o.anchor = some (role, c) ∧ (∀ e ∈ s.store.deny, e.2 ≠ o.digest) ∧ install = false)
        ∨ (s.store.anchors = [] ∧ o.linkLocal = true ∧ s.sessions = [] ∧ role = 3 ∧ install = true)) →
      let key := draw true 48 s
      let nonce := draw false 32 key.1
    Goes (.tlsHandshake o) s (fun u =>
      (key.2 ≠ none → nonce.2 ≠ none →
        tget u.sessions k = some { role := role, install := install, hello := false, last := s.timeBase, spdm := 0 }
        ∧ (∀ j, j ≠ k → tget u.sessions j = tget s.sessions j)
        ∧ Only s u (Reg.DRBG_RESEEDS :: Reg.DRBG_BYTES :: rangerRegs) [.sessions, .drbg, .drbgReqs, .drbgAt, .freeCtr])
      ∧ (key.2 = none ∨ nonce.2 = none → getR u Reg.AUTH_FAILURES = min (getR s Reg.AUTH_FAILURES + 1) 0xFFFFFFFF
        ∧ bitR u Reg.MGMT_CAUSE 4 = true ∧ u.sessions = s.sessions)))
  ∧ (∀ (s : State) (o : TlsOffer), netUp s = true → s.sessions.length < 4 →
      (drbgOn s = false ∨ o.good = false ∨ (s.store.anchors = [] ∧ (o.linkLocal = false ∨ s.sessions ≠ []))
        ∨ (s.store.anchors ≠ [] ∧ ((∃ e ∈ s.store.deny, e.2 = o.digest) ∨ tget s.store.anchors o.anchor = none))) →
    Goes (.tlsHandshake o) s (fun u => getR u Reg.AUTH_FAILURES = min (getR s Reg.AUTH_FAILURES + 1) 0xFFFFFFFF
      ∧ bitR u Reg.MGMT_CAUSE 4 = true ∧ u.sessions = s.sessions ∧ u.store = s.store ∧ SameMemory s u
      ∧ (drbgOn s = false → Only s u [Reg.AUTH_FAILURES, Reg.MGMT_CAUSE] [])))
  ∧ (∀ (s : State) (i : Fin 4) (x : Session), tget s.sessions i.val = some x →
    let gone := fun (u : State) => tget u.sessions i.val = none ∧ (∀ j, j ≠ i.val → tget u.sessions j = tget s.sessions j)
      ∧ u.out = s.out ++ [.sessionClosed i.val]
      ∧ ((∀ w, s.fw = some w → w.session ≠ i.val) → Only s u rangerRegs [.sessions, .out])
      ∧ (∀ w, s.fw = some w → w.session = i.val → u.fw = none ∧ (bankOf u w.bank).state = 2 ∧ bitR u Reg.MAINT_HOLDERS 3 = false)
    Goes (.sessionClose i) s gone ∧ (x.last + 15000000000 ≤ s.timeBase → Goes (.sessionIdleTimeout i) s gone))
  ∧ (∀ (s : State) (i : Fin 4) (x : Session) (id mask : Nat), tget s.sessions i.val = some x → netUp s = true →
    (mask.testBit 0 = true → Answers (.hello i id mask) s i id 0 [0#8, 1#8] (fun u =>
      tget u.sessions i.val = some { x with last := s.timeBase, hello := true } ∧ (∀ j, j ≠ i.val → tget u.sessions j = tget s.sessions j)
        ∧ Only s u [] [.sessions]))
    ∧ (mask.testBit 0 = false → Goes (.hello i id mask) s (fun u => tget u.sessions i.val = none
        ∧ u.out = s.out ++ [.mgmt i.val id 0x0A [], .sessionClosed i.val])))
  ∧ (∀ (s : State) (i : Fin 4) (x : Session) (id hours : Nat), tget s.sessions i.val = some x → netUp s = true → baseCamp s = false →
      x.hello = true → x.role < 2 → Answers (.scrubPeriod i id hours) s i id 1 [] (fun u => u = asked s i x))

/-- READ and WRITE of management reach PF BAR0 as the registers' own accesses do and the ranger space word by word; SEAL, the scrub period,
the network settings and MAINT_STATUS.
Points that the spec leaves open are the model's choice: log entry 70. -/
def Obligations.ManagementRegisters : Prop :=
  (∀ (s : State) (i : Fin 4) (x : Session) (id off count : Nat), Asks s i x 1 true false →
    (spaceOk 1 off count = true → Answers (.read i id 1 off count) s i id 0 (rangerWords (asked s i x) off count) (fun u => u = asked s i x))
    ∧ (spaceOk 0 off count = true → awake s = true →
        Answers (.read i id 0 off count) s i id 0 (readWords .mgmt count off (asked s i x)).2
          (fun u => u = (readWords .mgmt count off (asked s i x)).1))
    ∧ (∀ space, spaceOk space off count = false → space ≠ 0 ∨ awake s = true →
        Answers (.read i id space off count) s i id 2 [] (fun u => u = asked s i x)))
  ∧ (∀ (s : State) (i : Fin 4) (x : Session) (id off : Nat) (ws : List Nat), Asks s i x 3 false false →
    (spaceOk 1 off ws.length = true → Answers (.write i id 1 off ws) s i id 0 [] (fun u =>
      ∀ k, k ≠ Reg.MGMT_CAUSE → k ≠ Reg.MGMT_MASK → getR u k = getR s k))
    ∧ (∀ v, awake s = true → spaceOk 0 off ws.length = true →
        writeWords .mgmt off ws.length off (2 ^ (4 * ws.length) - 1) (wordsNat ws) (asked s i x) = (v, false) →
        Answers (.write i id 0 off ws) s i id 0 [] (fun u => u = v)))
  ∧ (∀ (s : State) (i : Fin 4) (x : Session) (id : Nat), Asks s i x 3 false false →
    Answers (.seal i id) s i id 0 [] (fun u => bitR u Reg.RANGER_STATUS 28 = true ∧ Only (asked s i x) u [Reg.RANGER_STATUS] [])
    ∧ (∀ mode addr, mode < 4 → Goes (.netConfig i id mode addr) s (fun u => u.store.net = some (mode, addr)
        ∧ u.store.anchors = s.store.anchors ∧ (∀ k, k < 4 → tget u.sessions k = none) ∧ SameMemory s u)))
  ∧ (∀ (s : State) (i : Fin 4) (x : Session) (id hours : Nat), Asks s i x 2 false false → 1 ≤ hours → hours ≤ 255 →
    Answers (.scrubPeriod i id hours) s i id 0 [] (fun u => fld u Reg.SCRUB_CONTROL 7 0 = hours ∧ Only (asked s i x) u [Reg.SCRUB_CONTROL] []))
  ∧ (∀ (s : State) (i : Fin 4) (x : Session) (id : Nat), Asks s i x 1 false false →
    Answers (.maintStatus i id) s i id 0 (natLe 4 (getR s Reg.MAINT_HOLDERS)) (fun u => u = asked s i x))

/-- Maintenance tokens: a request that no holder excludes takes its token and begins its activity; a conflicting one is answered with the
holder; each activity gives its token back at its end or at MAINT_STOP; a restart of the ranger closes sessions and frees every token.
Points that the spec leaves open are the model's choice: log entry 67. -/
def Obligations.MaintenanceTokens : Prop :=
  (∀ (s : State) (i : Fin 4) (x : Session) (id : Nat), Asks s i x 2 false false → awake s = true → s.faultSeq.phase = .none →
      s.tray.round = none →
    (conflictOf s 1 0 = none → (∀ st, st < 8 → stackOn s st = true) → Answers (.maintStartScrub i id 0) s i id 0 [] (fun u =>
      bitR u Reg.MAINT_HOLDERS 0 = true ∧ bitR u Reg.SCRUB_CONTROL 31 = true
        ∧ Only (asked s i x) u [Reg.MAINT_HOLDERS, Reg.SCRUB_CONTROL] []))
    ∧ (∀ a h, conflictOf s 1 0 = some (a, h) → Answers (.maintStartScrub i id 0) s i id 3 [BitVec.ofNat 8 a, BitVec.ofNat 8 h] (fun u =>
      bitR u Reg.MGMT_CAUSE 6 = true ∧ Only (asked s i x) u [Reg.MGMT_CAUSE] []))
    ∧ (conflictOf s 2 0 = none → inService s = true → s.ctxs = [] → s.chans = [] → Answers (.maintStartRetest i id 0) s i id 0 [] (fun u =>
      bitR u Reg.MAINT_HOLDERS 1 = true ∧ Only (asked s i x) u [Reg.MAINT_HOLDERS] []))
    ∧ (∀ st, st < 8 → conflictOf s 3 st = none → inService s = true → stackClear s st = true →
      Answers (.maintStartRemap i id st) s i id 0 [] (fun u => bitR u Reg.MAINT_HOLDERS 2 = true ∧ fld u Reg.MAINT_HOLDERS 18 16 = st
        ∧ stackOn u st = false ∧ fld u (Reg.STACK_STATUS st) 30 24 = fld s (Reg.STACK_STATUS st) 30 24 ∧ SameMemory s u))
    ∧ (∀ p, p < 8 → conflictOf s 4 p = none → Answers (.maintStartLaneRetrain i id p) s i id 0 [] (fun u =>
      bitR u Reg.MAINT_HOLDERS (8 + p) = true ∧ portState u p = 5 ∧ portUp u p = false ∧ (portGet u p).txq = [] ∧ (portGet u p).replay = []
        ∧ (portUp s p = true → bitR u (Reg.PORT_CAUSE p) 1 = true))))
  ∧ (∀ (s : State) (t : SelfTest), bitR s Reg.MAINT_HOLDERS 1 = true → Goes (.tileRetestDone t) s (fun u =>
      bitR u Reg.MAINT_HOLDERS 1 = false
        ∧ getR u (Reg.MAP_EPOCH 0) = getR (writeDies t (if full s then [0, 1, 2, 3] else [0]) s) (Reg.MAP_EPOCH 0)
        ∧ (full s = true → getR u Reg.DECODE_EPOCH = min (getR s Reg.DECODE_EPOCH + 1) 0xFFFFFFFF)))
  ∧ (∀ (s : State) (r : StackTest), bitR s Reg.MAINT_HOLDERS 2 = true →
    let st := fld s Reg.MAINT_HOLDERS 18 16
    Goes (.spareRemapDone r) s (fun u => bitR u Reg.MAINT_HOLDERS 2 = false
      ∧ (r = .failed → stackOn u st = false) ∧ (r = .good → stackOn u st = true)
      ∧ (∀ pc, r = .remapped pc → bitR s (Reg.STACK_STATUS st) 30 = false → stackOn u st = true ∧ bitR u (Reg.STACK_STATUS st) 30 = true
          ∧ fld u (Reg.STACK_STATUS st) 29 24 = pc ∧ bitR u Reg.MEM_CAUSE 9 = true)
      ∧ (∀ pc, r = .remapped pc → bitR s (Reg.STACK_STATUS st) 30 = true → fld s (Reg.STACK_STATUS st) 29 24 ≠ pc.val → stackOn u st = false)
      ∧ SameMemory s u))
  ∧ (∀ (s : State) (p : PortId) (t : TrainInfo), bitR s Reg.MAINT_HOLDERS (8 + p.val) = true → portState s p = 5 →
      bitR s (Reg.PORT_CONTROL p) 31 = true → fabricOn s = true →
    Goes (.laneRetrainDone p t) s (fun u => u = trainEnd true p t (trainingStarts p (setB s Reg.MAINT_HOLDERS (8 + p.val) false))
      ∧ bitR u Reg.MAINT_HOLDERS (8 + p.val) = false))
  ∧ (∀ (s : State) (i : Fin 4) (x : Session) (id a arg : Nat), Asks s i x 2 false false → 1 ≤ a → a ≤ 4 →
    ((a, arg) ∈ holders s → Answers (.maintStop i id a arg) s i id 0 [] (fun u =>
      u = stopActivity a arg (asked s i x) ∧ (a, arg) ∉ holders u ∧ SameMemory s u))
    ∧ ((a, arg) ∉ holders s → Answers (.maintStop i id a arg) s i id 0x0B [] (fun u => u = asked s i x)))
  ∧ (∀ (s t : State), netUp s = true → s.start.running = false → baseCamp s = false → bitR s Reg.MAINT_HOLDERS 4 = false →
      bootBank (orR (satR (stopAll ((List.range 4).foldl (fun s k => closeSession k s) s)) Reg.RANGER_RESTARTS 1) Reg.MGMT_CAUSE 8) = some t →
    Goes .rangerRestart s (fun u => u = t ∧ holders u = [] ∧ (∀ k, k < 4 → tget u.sessions k = none) ∧ u.fw = none
      ∧ getR u Reg.RANGER_RESTARTS = min (getR s Reg.RANGER_RESTARTS + 1) 0xFFFFFFFF ∧ bitR u Reg.MGMT_CAUSE 3 = true))

/-- Firmware banks and fuses: a bank under write is in state 3 and takes its image in order; the image that passes its checks makes it valid
with the versions that stand in it, one that fails invalid; a preferred bank is a valid one; fuses blow only upward.
Points that the spec leaves open are the model's choice: log entry 68. -/
def Obligations.FirmwareAndFuses : Prop :=
  ∀ (s : State) (i : Fin 4) (x : Session) (id : Nat),
    (Asks s i x 3 true false →
      (∀ n, n ≤ 1 → runningBank s ≠ some n → conflictOf s 5 n = none → s.tray.round = none →
        Answers (.fwBegin i id n) s i id 0 [] (fun u => u.fw = some { session := i.val, bank := n, data := [] } ∧ (bankOf u n).state = 3
          ∧ bankOf u (1 - n) = bankOf s (1 - n) ∧ bitR u Reg.MAINT_HOLDERS 3 = true
          ∧ Only (asked s i x) u (Reg.MAINT_HOLDERS :: rangerRegs) [.fw, .store]))
      ∧ (∀ n, n ≤ 1 → runningBank s = some n → Answers (.fwBegin i id n) s i id 7 [] (fun u => u = asked s i x))
      ∧ (∀ w off data, s.fw = some w → w.session = i.val → off = w.data.length → data.length ≤ 65536 → off + data.length ≤ 2 ^ 23 →
        Answers (.fwChunk i id off data) s i id 0 [] (fun u => u.fw = some { w with data := w.data ++ data } ∧ Only (asked s i x) u [] [.fw]))
      ∧ (∀ w, s.fw = some w → w.session = i.val → w.bank ≤ 1 →
        let c := imageCheck s w.data
        Answers (.fwCommit i id) s i id c [] (fun u => u.fw = none ∧ (bankOf u w.bank).state = (if c = 0 then 1 else 2)
          ∧ (bankOf u w.bank).svn = fieldAt w.data 6 1 ∧ (bankOf u w.bank).major = fieldAt w.data 5 1
          ∧ (bankOf u w.bank).minor = fieldAt w.data 4 1 ∧ bankOf u (1 - w.bank) = bankOf s (1 - w.bank)
          ∧ bitR u Reg.MAINT_HOLDERS 3 = false ∧ (c ≠ 0 → bitR u Reg.MGMT_CAUSE 2 = true)
          ∧ Only (asked s i x) u (Reg.MAINT_HOLDERS :: Reg.MGMT_CAUSE :: rangerRegs) [.fw, .store]))
      ∧ (∀ n, n ≤ 1 → (bankOf s n).state = 1 → Answers (.fwPrefer i id n) s i id 0 [] (fun u => u.store = { s.store with prefer := n }
          ∧ Only (asked s i x) u rangerRegs [.store])))
    ∧ (Asks s i x 3 false false → conflictOf s 6 0 = none → bitR s Reg.CLOCK_STATUS 15 = false → s.tray.round = none →
      (∀ target blown, target ≤ 64 → s.store.counter < target → s.store.bankA.state = 1 → s.store.bankB.state = 1 →
          target ≤ s.store.bankA.svn → target ≤ s.store.bankB.svn →
        (target - s.store.counter ≤ blown → Answers (.fuseAdvance i id target blown) s i id 0 [BitVec.ofNat 8 target] (fun u =>
          u.store = { s.store with counter := target } ∧ Only (asked s i x) u rangerRegs [.store]))
        ∧ (blown < target - s.store.counter → Answers (.fuseAdvance i id target blown) s i id 9
            [BitVec.ofNat 8 (s.store.counter + blown)] (fun u => u.store = { s.store with counter := s.store.counter + blown }
              ∧ bitR u Reg.MGMT_CAUSE 0 = true ∧ Only (asked s i x) u (Reg.MGMT_CAUSE :: rangerRegs) [.store])))
      ∧ (∀ key, key < 4 → (∀ n, runningBank s = some n → (bankOf s n).key ≠ key) →
          (∃ k, k < 4 ∧ k ≠ key ∧ s.store.revoked.testBit k = false) →
        Answers (.fuseRevoke i id key true) s i id 0 [] (fun u => u.store.revoked = s.store.revoked ||| 2 ^ key
            ∧ u.store.bankA = revokeBank key s.store.bankA ∧ u.store.bankB = revokeBank key s.store.bankB
            ∧ u.store.counter = s.store.counter ∧ Only (asked s i x) u rangerRegs [.store])
        ∧ Answers (.fuseRevoke i id key false) s i id 9 [] (fun u => bitR u Reg.MGMT_CAUSE 0 = true
            ∧ Only (asked s i x) u [Reg.MGMT_CAUSE] [])))

/-- Keys, anchors and the deny list: each command of an ADMIN changes its own slot and no other, and shows it in the ranger space.
Points that the spec leaves open are the model's choice: log entry 69. -/
def Obligations.KeysAndAnchors : Prop :=
  ∀ (s : State) (i : Fin 4) (x : Session) (id : Nat),
    (Asks s i x 3 false false →
      (∀ slot owner key, slot < 256 → owner < 2 ^ 32 → key.length = 32 → Answers (.keyLoad i id slot owner key) s i id 0 (checkValue key) (fun u =>
        tget u.keys slot = some key ∧ (∀ k, k ≠ slot → tget u.keys k = tget s.keys k) ∧ bitR u (Reg.KEY_LOADED (slot / 32)) (slot % 32) = true
          ∧ getR u (Reg.KEY_OWNER slot) = owner ∧ getR u (Reg.KEY_KCV slot) = leNat (checkValue key) ∧ bitR u Reg.MGMT_CAUSE 5 = true
          ∧ Only (asked s i x) u [Reg.KEY_LOADED (slot / 32), Reg.KEY_OWNER slot, Reg.KEY_KCV slot, Reg.MGMT_CAUSE] [.keys]))
      ∧ (∀ slot, slot < 256 → Answers (.keyClear i id slot) s i id 0 [] (fun u =>
        tget u.keys slot = none ∧ (∀ k, k ≠ slot → tget u.keys k = tget s.keys k) ∧ bitR u (Reg.KEY_LOADED (slot / 32)) (slot % 32) = false
          ∧ bitR u Reg.MGMT_CAUSE 5 = true
          ∧ Only (asked s i x) u [Reg.KEY_LOADED (slot / 32), Reg.KEY_OWNER slot, Reg.KEY_KCV slot, Reg.MGMT_CAUSE] [.keys]))
      ∧ (∀ slot key, slot < 8 → key.length = 97 → slice key 0 1 = [4#8] → Answers (.pitchKeySet i id slot key) s i id 0 [] (fun u =>
        tget u.pitchKeys slot = some (key.drop 1) ∧ (∀ k, k ≠ slot → tget u.pitchKeys k = tget s.pitchKeys k)
          ∧ Only (asked s i x) u (Reg.MGMT_CAUSE :: rangerRegs) [.pitchKeys]))
      ∧ (∀ slot, slot < 8 → Answers (.pitchKeyWithdraw i id slot) s i id 0 [] (fun u =>
        tget u.pitchKeys slot = none ∧ (∀ k, k ≠ slot → tget u.pitchKeys k = tget s.pitchKeys k)
          ∧ Only (asked s i x) u (Reg.MGMT_CAUSE :: rangerRegs) [.pitchKeys]))
      ∧ Answers (.anchorClear i id 0xFF) s i id 0 [] (fun u => u.store = { s.store with anchors := [] }
          ∧ bitR u Reg.RANGER_STATUS 27 = true ∧ Only (asked s i x) u rangerRegs [.store])
      ∧ (∀ slot, slot < 4 → Answers (.anchorClear i id slot) s i id 0 [] (fun u =>
          u.store = { s.store with anchors := tdel s.store.anchors slot } ∧ Only (asked s i x) u rangerRegs [.store]))
      ∧ (∀ entry digest, entry < 16 → digest < 2 ^ 384 → Answers (.denySet i id entry digest) s i id 0 [] (fun u =>
          u.store = { s.store with deny := tput s.store.deny entry digest } ∧ Only (asked s i x) u rangerRegs [.store])))
    ∧ (Asks s i x 3 false true → ∀ slot role cert, slot < 4 → 1 ≤ role → role ≤ 3 → cert ≠ [] →
      Answers (.anchorSet i id slot role cert) s i id 0 [] (fun u =>
        u.store = { s.store with anchors := tput s.store.anchors slot (if s.store.anchors = [] then 3 else role, cert) }
          ∧ bitR u Reg.RANGER_STATUS 27 = false ∧ Only (asked s i x) u rangerRegs [.store]))

/-- Attestation: the SPDM exchange advances in its order, and the signed responses carry the chain's digest or the measurements, a nonce of
the DRBG, and the alias key's signature over them and the client's nonce.
Points that the spec leaves open are the model's choice: log entry 17. -/
def Obligations.Attestation : Prop :=
  ∀ (s : State) (i : Fin 4) (x : Session) (id : Nat), Asks s i x 1 true false →
    Answers (.getVersion i id) s i id 0 [0x10#8, 4#8, 0#8, 0#8, 0#8, 1#8, 0#8, 0x13#8] (fun u => u = spdmAsked s i x 0)
    ∧ (1 ≤ x.spdm → Answers (.getCapabilities i id) s i id 0 (spdmMsg 0x61 0 0 (natLe 4 0 ++ natLe 4 0x36)) (fun u => u = spdmAsked s i x 1))
    ∧ (2 ≤ x.spdm → Answers (.negotiateAlgorithms i id) s i id 0 (spdmMsg 0x63 0 0 (natLe 4 4 ++ natLe 4 0x80 ++ natLe 4 2))
        (fun u => u = spdmAsked s i x 2))
    ∧ (x.spdm < 1 → Answers (.getCapabilities i id) s i id 0 (spdmError 4) (fun u => u = asked s i x))
    ∧ (3 ≤ x.spdm →
      Answers (.getDigests i id) s i id 0 (spdmMsg 1 0 1 (sha384 (certs s))) (fun u => u = spdmAsked s i x 3)
      ∧ (∀ off len,
        let n := min len ((certs s).length - off)
        Answers (.getCertificate i id off len) s i id 0
          (if off < (certs s).length then spdmMsg 2 0 0 (natLe 2 n ++ natLe 2 ((certs s).length - off - n) ++ slice (certs s) off n)
            else spdmError 1) (fun u => u = spdmAsked s i x 3))
      ∧ (∀ nonce index m b v, measured s index = some m → draw false 32 (spdmAsked s i x 3) = (v, some b) →
        Answers (.challenge i id nonce) s i id 0
          (spdmMsg 3 0 1 (sha384 (certs s) ++ b ++ sign s (nonce ++ (sha384 (certs s) ++ b)))) (fun u => u = v)
        ∧ Answers (.getMeasurements i id index true nonce) s i id 0 (spdmMsg 0x60 0 0 (m ++ b ++ sign s (nonce ++ m ++ b))) (fun u => u = v)
        ∧ Answers (.getMeasurements i id index false nonce) s i id 0 (spdmMsg 0x60 0 0 m) (fun u => u = spdmAsked s i x 3)))

/-- Serving opens on a context that keeps every condition, with its pool's frames and with zeroed windows; it closes once its batches have
completed, and its frames are then zero.
Points that the spec leaves open are the model's choice: log entries 57 and 58. -/
def Obligations.ServingOpensAndCloses : Prop :=
  (∀ (s v : State) (h : CmdHdr) (a : ServeArgs) (x : Ctx) (list : Bytes) (fr : List PageLoc), Ready (.serveOpen h a) s →
      ctxOf s h.fn.val a.ctx = some x → x.pitch.flags.testBit 1 = true → x.pitch.flags.testBit 0 = false → serveGet s a.ctx = none →
      serveFieldsOk a = true → devRead h.fn.val a.targetAddr (8 * a.targets) (took (.serveOpen h a) s) = (v, 0, list) →
      serveCheck h.fn.val x a list v = .ok fr →
    Ends (.serveOpen h a) s h 0 0 0 (fun u =>
      (∃ w, serveGet u a.ctx = some w ∧ w.a = a ∧ w.frames = fr ∧ w.shape = crc32c list ∧ w.length = imageLength a.rank (targetsOf list)
        ∧ w.pegs = [] ∧ w.batches = [] ∧ w.nextStart = 0 ∧ w.closing = none ∧ w.base = minSteps x)
      ∧ (∀ id r o st n k, id ∈ windowIds a → ctxObj v x id = some (r, some o) → PageLoc.near st n ∈ o.pages → frameAddr st n ≤ k →
          k < frameAddr st n + pageSize → mget u.near k = 0#8)
      ∧ u.objs = v.objs ∧ u.ctxs = v.ctxs))
  ∧ (∀ (s : State) (h : CmdHdr) (c : Nat) (v : Serve), Ready (.serveClose h c) s → (ctxOf s h.fn.val c).isSome = true → serveGet s c = some v →
    Goes (.serveClose h c) s (fun u => (∃ w, serveGet u c = some w ∧ w.closing = some (v.closing.getD [] ++ [h]) ∧ w.batches = v.batches
      ∧ w.pegs = v.pegs) ∧ SameMemory s u))
  ∧ (∀ (s : State) (c : CtxId) (v : Serve), serveGet s c = some v → v.closing.isSome = true → v.batches = [] → v.turn = none →
      s.faultSeq.phase = .none →
    Goes (.closed c) s (fun u => serveGet u c = none
      ∧ (∀ st n k, PageLoc.near st n ∈ v.frames → frameAddr st n ≤ k → k < frameAddr st n + pageSize → mget u.near k = 0#8)
      ∧ u.ctxs = s.ctxs ∧ u.objs = s.objs ∧ Piece.tileStore.kept s u))

/-- Pegs: a PEG copies its image into the lowest free slot and takes effect when the image passes; RENEW gives it a new lease; an expired
lease and UNPEG end it, and its slot is zero and free once its batches have completed.
Points that the spec leaves open are the model's choice: log entry 57. -/
def Obligations.PegsAndLeases : Prop :=
  (∀ (s : State) (h : CmdHdr) (c rep ad src lease k : Nat) (v : Serve) (o : Obj), Ready (.peg h c rep ad src lease) s →
      openServe s h.fn.val c = some v → (∀ p ∈ v.pegs, ∀ e, p.expiry = some e → s.timeBase < e) → rep ≤ 1 → ad ≠ 0xFFFFFFFF →
      leaseOk lease = true → copying v ad = false →
    ((rep = 0 ∧ unpegging v ad = false ∧ pegOf v ad = none) ∨ (rep = 1 ∧ (pegOf v ad).isSome = true)) →
      freeSlot v = some k → objGet s h.fn.val src = some o →
    Goes (.peg h c rep ad src lease) s (fun u =>
      (∃ w, serveGet u c = some w ∧ w.pegs = v.pegs ∧ w.batches = v.batches
        ∧ w.copies = v.copies ++ [{ hdr := h, adapter := ad, slot := k, source := src, expiry := leaseEnd s lease, req := s.nextUns }])
      ∧ u.nextUns = s.nextUns + 1 ∧ SameMemory s u))
  ∧ (∀ (s : State) (h : CmdHdr) (c ad src lease : Nat) (v : Serve) (p : Peg), Ready (.peg h c 0 ad src lease) s →
      openServe s h.fn.val c = some v → (∀ p ∈ v.pegs, ∀ e, p.expiry = some e → s.timeBase < e) → ad ≠ 0xFFFFFFFF → leaseOk lease = true →
      copying v ad = false → unpegging v ad = false → pegOf v ad = some p →
    Ends (.peg h c 0 ad src lease) s h 4 p.slot 0 (fun u => u = took (.peg h c 0 ad src lease) s))
  ∧ (∀ (s t : State) (c : CtxId) (ad : Nat) (v w : Serve) (k : PegCopy) (o : Obj) (b : Bytes), serveGet s c = some v →
      v.copies.find? (fun k => k.adapter == ad) = some k → s.faultSeq.phase = .none → awake s = true → mayServe s k.req = true →
      objGet s ((tget s.ctxFn c).getD 0) k.source = some o →
      readImage o v.pages (leave k.req (serveMod c (fun v => { v with copies := v.copies.erase k }) s)) = (t, some b) →
      serveGet t c = some w →
    (imageCode v ad b = 0 → Ends (.pegCopyDone c ad) s k.hdr 0 k.slot (expiryCode k.expiry) (fun u =>
        u.near = (writeSlot v k.slot b t).near ∧ ∃ z, serveGet u c = some z
          ∧ z.pegs = (pegEnding ad none w).pegs ++ [{ adapter := ad, slot := k.slot, expiry := k.expiry, ending := false, hdr := none }]))
    ∧ (imageCode v ad b ≠ 0 → Ends (.pegCopyDone c ad) s k.hdr (imageCode v ad b) 0 0 (fun u => u = writeSlot v k.slot b t)))
  ∧ (∀ (s : State) (h : CmdHdr) (c ad lease : Nat) (v : Serve) (p : Peg), openServe s h.fn.val c = some v →
      (∀ p ∈ v.pegs, ∀ e, p.expiry = some e → s.timeBase < e) → ad ≠ 0xFFFFFFFF → pegOf v ad = some p →
    (Ready (.renew h c ad lease) s → leaseOk lease = true → copying v ad = false → Ends (.renew h c ad lease) s h 1 p.slot (expiryCode (leaseEnd s lease)) (fun u =>
      (∃ z, serveGet u c = some z ∧ z.pegs = v.pegs.map (fun q => if q = p then { p with expiry := leaseEnd s lease } else q)
        ∧ z.batches = v.batches) ∧ SameMemory s u))
    ∧ (Ready (.unpeg h c ad) s → copying v ad = false → Goes (.unpeg h c ad) s (fun u =>
      (∃ z, serveGet u c = some z ∧ z.pegs = (pegEnding ad (some h) v).pegs ∧ pegOf z ad = none ∧ z.batches = v.batches) ∧ SameMemory s u)))
  ∧ (∀ (s : State) (c : CtxId) (ad e : Nat) (v : Serve) (p : Peg), serveGet s c = some v → pegOf v ad = some p → p.expiry = some e →
      e ≤ s.timeBase →
    Goes (.pegExpiry c ad) s (fun u => (∃ z, serveGet u c = some z ∧ z.pegs = (pegEnding ad none v).pegs ∧ pegOf z ad = none)
      ∧ getR u (Reg.PEG_EXPIRIES c) = min (getR s (Reg.PEG_EXPIRIES c) + 1) 0xFFFFFFFF ∧ bitR u (Reg.SERVE_CAUSE c) 2 = true ∧ SameMemory s u))
  ∧ (∀ (s : State) (c : CtxId) (slot : Nat) (v : Serve) (p : Peg), serveGet s c = some v →
      v.pegs.find? (fun p => p.slot == slot && p.ending) = some p → (∀ b ∈ v.batches, some slot ∉ b.slots) →
    let freed := fun (u : State) => (∃ z, serveGet u c = some z ∧ z.pegs = v.pegs.erase p ∧ z.batches = v.batches)
      ∧ (∀ st n k, PageLoc.near st n ∈ slotFrames v slot → frameAddr st n ≤ k → k < frameAddr st n + pageSize → mget u.near k = 0#8)
    (p.hdr = none → Goes (.unpegDone c slot) s freed) ∧ (∀ h, p.hdr = some h → Ends (.unpegDone c slot) s h 2 slot 0 freed))

/-- Batches and the model cache: a batch that passes its checks takes the next BATCH_SEQ with its adapters resolved, under the TAG of its
descriptor, starts by binding its windows and posting T30 on every used tile, and completes with its step; at a commit the regions are
copied and each cached object exchanges its pages with its source, and a commit whose copy fails does not complete.
Points that the spec leaves open are the model's choice: log entries 58, 59 and 97. -/
def Obligations.BatchesAndCache : Prop :=
  (∀ (s t : State) (h : CmdHdr) (len addr c : Nat) (b : Bytes) (v : Serve), Ready (.submitBatch h len addr) s → 16 ≤ len → len ≤ 2064 →
      devRead h.fn.val addr len (took (.submitBatch h len addr) s) = (t, 0, b) → c = fieldAt b 0 1 → napKeeps t c = true ∨ t.power.rest ≠ .nap →
      openServe t h.fn.val c = some v → (∀ p ∈ v.pegs, ∀ e, p.expiry = some e → t.timeBase < e) → b.length = 16 + 8 * v.a.segments →
      zeroAt b 1 1 = true → zeroAt b 4 4 = true → (∀ i, i < v.a.segments → zeroAt b (16 + 8 * i + 6) 2 = true) →
      let segs := (List.range v.a.segments).map (segEntry b)
      badSegment v segs = none → fieldAt b 2 2 = (segs.map (·.2)).foldl (· + ·) 0 → fieldAt b 2 2 ≠ 0 → unpeggedSegment v segs = none →
      v.batches.length < 64 →
    let q := getR t (Reg.BATCHES_ACCEPTED c)
    let g : CmdHdr := { h with tag := fieldAt b 8 8 }
    let bt : Batch := { hdr := g, seq := q, requests := fieldAt b 2 2, slots := segs.map (fun e => (pegOf v e.1).map (·.slot)) }
    Goes (.submitBatch h len addr) s (fun u => ∃ w, u = complete 1 0 (q % 0x1000000) q g w
      ∧ (∃ z, serveGet w c = some z ∧ z.batches = v.batches ++ [bt])
      ∧ getR w (Reg.BATCHES_ACCEPTED c) = (q + 1) % 2 ^ 64 ∧ SameMemory t w))
  ∧ (∀ (s : State) (c : CtxId) (v : Serve) (x : Ctx) (b : Batch), serveGet s c = some v → ctxGet s c = some x →
      v.batches.find? (fun b => b.seq == v.nextStart) = some b → mayStart s c v = true → healthy s = true → awake s = true →
      (x.tiles.map (·.1)).Nodup → (∀ site t, tget x.tiles site = some t → tokGet t 30 < 255) →
    Goes (.batchStart c) s (fun u =>
      (∃ z, serveGet u c = some z ∧ z.nextStart = v.nextStart + 1 ∧ z.binds = bindWindows v b ∧ z.batches = v.batches)
      ∧ getR u (Reg.WINDOWS_BOUND c) = (getR s (Reg.WINDOWS_BOUND c) + (b.slots.filter (·.isSome)).length) % 2 ^ 64
      ∧ (∀ site t, tget x.tiles site = some t → ∃ t', tcGet u c site = some t' ∧ tokGet t' 30 = tokGet t 30 + 1) ∧ SameMemory s u))
  ∧ (∀ (s : State) (c : CtxId) (v : Serve) (x : Ctx) (b : Batch) (rest : List Batch), serveGet s c = some v → ctxGet s c = some x →
      v.batches = b :: rest → b.seq < v.nextStart → v.base + b.seq < minSteps x → s.faultSeq.phase = .none →
    Ends (.batchComplete c) s b.hdr 0 0 0 (fun u => (∃ z, serveGet u c = some z ∧ z.batches = rest)
      ∧ getR u (Reg.BATCHES_DONE c) = (getR s (Reg.BATCHES_DONE c) + 1) % 2 ^ 64
      ∧ getR u (Reg.REQUESTS_DONE c) = (getR s (Reg.REQUESTS_DONE c) + b.requests) % 2 ^ 64
      ∧ bitR u (Reg.SERVE_CAUSE c) 0 = true ∧ SameMemory s u))
  ∧ (∀ (s : State) (h : CmdHdr) (c t src : Nat) (x : Ctx) (v : Serve) (o : Obj), ctxOf s h.fn.val c = some x →
      openServe s h.fn.val c = some v → objGet s h.fn.val src = some o →
    (Ready (.cacheStage h c t src) s → targetSize v x t = some o.size → flagged o.oflags = false →
      Ends (.cacheStage h c t src) s h 0 0 0 (fun u => (∃ z, serveGet u c = some z ∧ z.staged = tput v.staged t src) ∧ SameMemory s u))
    ∧ (Ready (.cacheDrop h c t) s → (tget v.staged t).isSome = true →
      Ends (.cacheDrop h c t) s h 0 0 0 (fun u => (∃ z, serveGet u c = some z ∧ z.staged = tdel v.staged t) ∧ SameMemory s u))
    ∧ (∀ w, w = took (.cacheCommit h c) s → Ready (.cacheCommit h c) s → v.turn = none → v.staged ≠ [] →
        (∀ e ∈ v.staged, farSource w h.fn.val e = false) →
        (∀ e ∈ s.ctxs, e.1 = c ∨ e.2.pitch.flags.testBit 0 = false ∨ importsStaged w (c, v) e.2 = false) →
      Goes (.cacheCommit h c) s (fun u =>
        (∃ z, serveGet u c = some z ∧ z.turn = some { hdr := h, seq := v.nextStart, began := s.timeBase } ∧ z.staged = v.staged)
        ∧ SameMemory s u)))
  ∧ (∀ (s : State) (c : CtxId) (v : Serve) (x : Ctx) (t : CacheTurn), serveGet s c = some v → ctxGet s c = some x → v.turn = some t →
      drained v = true → (∀ e ∈ s.serves, ∀ y, ctxGet s e.1 = some y → e.1 = c.val ∨ importsStaged s (c.val, v) y = false ∨ drained e.2 = true) →
      healthy s = true → awake s = true →
    (∀ w, copyRegions x.fn v x s = (w, false) → Goes (.committed c) s (fun u => u = w))
    ∧ (∀ w, copyRegions x.fn v x s = (w, true) →
    Ends (.committed c) s t.hdr 0 0 t.seq (fun u => (∃ z, serveGet u c = some z ∧ z.staged = [] ∧ z.turn = none ∧ z.pegs = v.pegs)
      ∧ getR u (Reg.COMMIT_SEQ c) = t.seq % 2 ^ widthOf (Reg.COMMIT_SEQ c)
      ∧ getR u (Reg.COMMIT_TIME c) = min (s.timeBase - t.began) 0xFFFFFFFF ∧ bitR u (Reg.SERVE_CAUSE c) 3 = true
      ∧ (∀ id src o so r, v.staged = [(id, src)] → id ≠ 0xFFFFFFFF → objGet s x.fn src = some so → so.fn = x.fn → so.handle = src →
          ctxObj s x id = some (r, some o) → o.fn = x.fn → o.handle ≠ src → 0 < o.handle → o.handle < 32768 →
          objGet u x.fn o.handle = some { o with pages := so.pages } ∧ objGet u x.fn src = some { so with pages := o.pages }))))

/-- Channels: MEDIA_OPEN takes the lowest free number, feeds enter the input buffer in their order as far as there is room, released samples
count, and a channel closes at once in DISCARD mode or, in DRAIN mode, once nothing is left to decode.
Points that the spec leaves open are the model's choice: log entries 61 and 64. -/
def Obligations.ChannelsOpenFeedAndClose : Prop :=
  (∀ (s v : State) (h : CmdHdr) (a : MediaArgs) (b : Bytes) (n : Nat), Ready (.mediaOpen h a) s →
      devRead h.fn.val a.profile 64 (took (.mediaOpen h a) s) = (v, 0, b) → mediaCheck h.fn.val a b v = 0 → n < 4096 → chanGet v n = none →
      (∀ k, k < n → (chanGet v k).isSome = true) →
    Ends (.mediaOpen h a) s h 0 n 0 (fun u => chanGet u n = some (Channel.fresh h.fn.val a b) ∧ tget u.chanFn n = some h.fn.val
      ∧ (∀ k, k ≠ n → chanGet u k = chanGet v k) ∧ bitR u (Reg.CHANNEL_STATE n) 31 = true
      ∧ getR u (Reg.SAMPLES n) = resetOf (Reg.SAMPLES n) ∧ getR u (Reg.RELEASED n) = resetOf (Reg.RELEASED n) ∧ SameMemory v u))
  ∧ (∀ (s : State) (h : CmdHdr) (n flags len addr : Nat) (ch : Channel), Ready (.mediaFeed h n flags len addr) s → len ≠ 0 → len ≤ 0x4000000 →
      flags < 4 → chanOf s h.fn.val n = some ch → ch.closing = none → ch.endFed = false → (∀ f ∈ ch.feeds, f.flags.testBit 0 = false) →
      mapped s h.fn.val addr len = true → inTurn s (.mediaFeed h n flags len addr) = true →
    Goes (.mediaFeed h n flags len addr) s (fun u => (∃ ch', chanGet u n = some ch'
        ∧ ch' = { ch with feeds := ch.feeds ++ [{ hdr := h, addr := addr, left := len, flags := flags, begun := false }] })
      ∧ Only (took (.mediaFeed h n flags len addr) s) u [Reg.CHANNEL_STATE n] [.chans]))
  ∧ (∀ (s v : State) (n : ChanId) (ch w : Channel) (fd : Feed) (rest : List Feed) (b : Bytes) (m : Nat), chanGet s n = some ch →
      ch.feeds = fd :: rest → ch.buffered < 0x800000 → m = min (0x800000 - ch.buffered) fd.left → s.faultSeq.phase = .none → awake s = true →
      fnActive s ch.fn = true → (fd.begun = true ∨ fd.flags.testBit 1 = false) → fd.flags.testBit 0 = false →
      devRead ch.fn fd.addr m (passing (if ch.fn = 0 then 1 else 2) (spansOf s ch.fn fd.addr m) s) = (v, 0, b) → chanGet v n = some w →
    (m = fd.left → Ends (.feedCopy n) s fd.hdr 0 0 0 (fun u =>
      chanGet u n = some (takeBytes false b { w with feeds := rest }) ∧ SameMemory v u))
    ∧ (m < fd.left → Goes (.feedCopy n) s (fun u => SameMemory v u ∧ ∃ fd', fd'.addr = fd.addr + m ∧ fd'.left = fd.left - m
      ∧ fd'.hdr = fd.hdr ∧ fd'.begun = true ∧ chanGet u n = some (takeBytes false b { w with feeds := fd' :: rest }))))
  ∧ (∀ (s : State) (h : CmdHdr) (n count : Nat) (ch : Channel), chanOf s h.fn.val n = some ch → n < 4096 →
    (Ready (.mediaRelease h n count) s → getR s (Reg.RELEASED n) + count ≤ getR s (Reg.SAMPLES n) →
      Ends (.mediaRelease h n count) s h 0 0 0 (fun u => getR u (Reg.RELEASED n) = (getR s (Reg.RELEASED n) + count) % 2 ^ 64
        ∧ u = slotsFreed n (addR (took (.mediaRelease h n count) s) (Reg.RELEASED n) count)
        ∧ (ch.queue = [] → spent ch = false → Only (took (.mediaRelease h n count) s) u [Reg.RELEASED n, Reg.CHANNEL_STATE n] [])))
    ∧ (Ready (.mediaClose h n 1) s → inTurn s (.mediaClose h n 1) = true → Goes (.mediaClose h n 1) s (fun u => chanGet u n = none
        ∧ (∀ k, k ≠ n → (chanGet u k).isSome = (chanGet s k).isSome) ∧ fld u (Reg.CHANNEL_STATE n) 31 28 = 0))
    ∧ (Ready (.mediaClose h n 0) s → inTurn s (.mediaClose h n 0) = true → decoding s n = true → Goes (.mediaClose h n 0) s (fun u =>
        ∃ w, chanGet u n = some w ∧ w.closing = some (ch.closing.getD [] ++ [h]) ∧ w.feeds = [] ∧ w.endFed = true
          ∧ (ch.queue = [] → w.asm = []) ∧ (ch.queue ≠ [] → w.queue = ch.queue ++ [none] ∧ w.asm = ch.asm)
          ∧ w.ready = ch.ready ∧ w.es = ch.es ∧ w.raw = ch.raw)))

/-- Decoding: a transport packet of the video PID extends the elementary stream; a free engine takes the next channel that it can serve; a
decoded picture is held for output and a dropped one counted; a written sample is counted with its bytes in its pool slot.
Points that the spec leaves open are the model's choice: log entries 61, 62 and 63. -/
def Obligations.PicturesBecomeSamples : Prop :=
  (∀ (s : State) (n : ChanId) (ch : Channel) (b : Bytes) (t : List (Bool × Bytes)), chanGet s n = some ch → ch.raw = (false, b) :: t →
      s.faultSeq.phase = .none → awake s = true → ch.demux.synced = true → ch.packet ≤ b.length →
      byteAt b (if ch.a.input = 0 then 0 else 4) = 0x47 →
    let p := (b.drop (if ch.a.input = 0 then 0 else 4)).take 188
    Goes (.tsPacket n) s (fun u => getR u Reg.TS_PACKETS = (getR s Reg.TS_PACKETS + 1) % 2 ^ 64
      ∧ ∀ pid cc codec last dup, pid = be16 p 1 % 0x2000 → cc = byteAt p 3 % 16 → ch.demux.video = some (pid, codec) → pid ≠ 0 →
          (pmtPid ch).map (·.2) ≠ some pid → (byteAt p 1).testBit 7 = false → (byteAt p 1).testBit 6 = false → byteAt p 3 / 16 = 1 →
          tget ch.demux.cc pid = some (last, dup) → cc = (last + 1) % 16 →
        ∃ ch', chanGet u n = some ch' ∧ ch'.es = (pesMore false (p.drop 4) ch).es ∧ ch'.raw = (false, b.drop ch.packet) :: t
          ∧ tget ch'.demux.cc pid = some (cc, false)))
  ∧ (∀ (s : State) (e : EngineId) (whole : List Nat) (l : Nat) (x : Nat × Channel), logicalOf s e = some l → (engineGet s e).busy = false →
      healthy s = true → awake s = true → x.1 < 4096 →
      let t := (chansOn s l).foldl (fun s c => reachBreaks (whole.contains c.1) c.1 c.2.es.length s) s
      let cs := (chansOn t l).filter (servable t whole)
      (cs.find? (fun x => (engineGet s e).last < x.1) = some x ∨ (cs.find? (fun x => (engineGet s e).last < x.1) = none ∧ cs.head? = some x)) →
    Goes (.decodePicture e whole) s (fun u =>
      engineGet u e = { last := x.1, busy := true, whole := whole.contains x.1 && hasData x.2 }
      ∧ bitR u (Reg.ENGINE_STATUS e) 30 = true ∧ fld u (Reg.ENGINE_STATUS e) 23 12 = x.1
      ∧ (∀ j, j ≠ e.val → engineGet u j = engineGet t j) ∧ Only t u [Reg.ENGINE_STATUS e, Reg.CHANNEL_STATE x.1] [.engines, .chans]))
  ∧ (∀ (s v : State) (e : EngineId) (t : EngineTake) (n : Nat) (w : Bool) (ch : Channel),
      engineGet s e = { last := n, busy := true, whole := w } → n < 4096 → awake s = true → s.faultSeq.phase = .none → s.errs = [] →
      chanGet s n = some ch → ch.run = none → inputOver ch = false → (∀ h ∈ ch.held, h.pics ≠ []) →
      engineReads ch t.reads (engineFree e s) = (v, false) → v.faultSeq.phase = .none → chanGet v n = some ch →
    let x := takeEs t.len ch.es
    let y := x.head.getD (none, ch.codec)
    (∀ i q, dropReason ch x y.2 w i [] = none → Goes (.pictureDecoded e t (.picture i q) 0) s (fun u => ∃ z, chanGet u n = some z
      ∧ z = { ch with es := x.rest, decoded := ch.decoded + 1, codec := y.2, held := if i.shown then ch.held ++ [{
          index := ch.decoded, pts := y.1, codec := y.2, order := i.order, epoch := ch.epoch, pics := picturesOf i.form q,
          places := (picturesOf i.form q).length }] else ch.held }
      ∧ (engineGet u e).busy = false ∧ SameMemory v u))
    ∧ (∀ i q r, dropReason ch x y.2 w i [] = some r → Goes (.pictureDecoded e t (.picture i q) 0) s (fun u =>
      (engineGet u e).busy = false
      ∧ (i.shown = true → getR u Reg.PICTURES_DROPPED = (getR v Reg.PICTURES_DROPPED + 1) % 2 ^ 64
        ∧ getR u (Reg.DROPS_BY_REASON (r - 1)) = min (getR v (Reg.DROPS_BY_REASON (r - 1)) + 1) 0xFFFFFFFF
        ∧ bitR u Reg.MEDIA_CAUSE 0 = true ∧ bitR u (Reg.CHANNEL_CAUSE n) 0 = true)
      ∧ (i.shown = false → ∃ z, chanGet u n = some z
        ∧ z = { ch with es := x.rest, decoded := ch.decoded + 1, codec := y.2, lost := ch.lost ++ [ch.decoded] })))
    ∧ Goes (.pictureDecoded e t .flush 0) s (fun u => (∃ z, chanGet u n = some z ∧ z = { ch with es := x.rest })
        ∧ (engineGet u e).busy = false ∧ SameMemory v u))
  ∧ (∀ (s : State) (n : ChanId) (ch : Channel) (b : Bytes) (rest : List Bytes) (o : Obj), chanGet s n = some ch → ch.ready = b :: rest →
      s.faultSeq.phase = .none → awake s = true → ch.endFed = false →
      objGet s ch.fn ch.a.pool = some o →
    Goes (.sampleWritten n) s (fun u => getR u (Reg.SAMPLES n) = (getR s (Reg.SAMPLES n) + 1) % 2 ^ 64
      ∧ getR u Reg.SAMPLES_WRITTEN = (getR s Reg.SAMPLES_WRITTEN + 1) % 2 ^ 64
      ∧ chanGet u n = some { ch with ready := rest }
      ∧ u.near = (objWrite o ((ch.a.firstSlot + getR s (Reg.SAMPLES n) % ch.a.slotCount) * slotBytes ch.prof) b s).near
      ∧ Piece.tileStore.kept s u))

/-- Decks: a deck opens at its start position, begins a window whose samples have all been written, copies the samples in the order of the
permutation into its feed slots, halts on a sample that is not the one it delivers, and closes.
Points that the spec leaves open are the model's choice: log entry 65. -/
def Obligations.DecksDeliverSamples : Prop :=
  (∀ (s v : State) (h : CmdHdr) (a : ShuffleArgs) (x : Ctx) (b : Bytes), Ready (.shuffleOpen h a) s → ctxOf s h.fn.val a.ctx = some x →
      x.started = false → deckGet s a.ctx = none → 1 ≤ a.channels → a.channels ≤ 4096 → a.depth ≠ 0 → a.epochWindows ≠ 0 → a.batch ≠ 0 →
      a.batch ≤ 65536 → devRead h.fn.val a.listAddr (2 * a.channels) (took (.shuffleOpen h a) s) = (v, 0, b) →
      shuffleCheck h.fn.val x a ((List.range a.channels).map (fun i => fieldAt b (2 * i) 2)) v = 0 →
    Ends (.shuffleOpen h a) s h 0 0 0 (fun u => (∃ d, deckGet u a.ctx = some d ∧ d.a = a ∧ d.pos = a.startStep * a.batch
        ∧ d.window = a.firstWindow ∧ d.begun = false ∧ d.started = none ∧ d.halted = false)
      ∧ u.chans = v.chans ∧ SameMemory v u))
  ∧ (∀ (s : State) (h : CmdHdr) (c : Nat) (d : Deck), Ready (.shuffleClose h c) s → (ctxOf s h.fn.val c).isSome = true → deckGet s c = some d →
    Ends (.shuffleClose h c) s h 0 0 0 (fun u => deckGet u c = none ∧ (∀ k, k ≠ c → deckGet u k = deckGet s k)
      ∧ fld u (Reg.DECK_STATE c) 31 28 = 0 ∧ Only (took (.shuffleClose h c) s) u [Reg.DECK_STATE c] [.decks]))
  ∧ (∀ (s : State) (c : CtxId) (d : Deck), deckGet s c = some d → deckRuns s d = true → d.begun = false → deckPhase s c d = 2 →
    Goes (.windowBegin c) s (fun u => deckGet u c = some { d with begun := true }
      ∧ (d.window % d.a.epochWindows = 0 → bitR u (Reg.DECK_CAUSE c) 2 = true)
      ∧ Only s u [Reg.DECK_STATE c, Reg.WINDOW c, Reg.POSITION c, Reg.DECK_CAUSE c] [.decks]))
  ∧ (∀ (s v : State) (c : CtxId) (d w : Deck) (x : Ctx) (j : DeckChan) (k : Nat) (pool feed : Obj) (b : Bytes), deckGet s c = some d →
      ctxGet s c = some x → deckRuns s d = true → d.begun = true → deckPhase s c d = 2 → deckTarget x d = some (j, k) →
      objGet s d.fn j.pool = some pool → objGet s d.fn d.a.feed = some feed →
      let from_ := (j.first + k % j.count) * d.slotBytes
      objRead true pool from_ d.slotBytes (passing 5 (objSpans s pool (d.slotBytes / pageSize + 2) from_ d.slotBytes) s) = (v, some b) →
      deckGet v c = some w →
      let good := (slice b 0 4 = [0x4A#8, 0x58#8, 0x4D#8, 0x53#8] ∧ fieldAt b 4 2 = j.num ∧ fieldAt b 8 8 = k)
    (good → Goes (.deckCopy c) s (fun u =>
        (d.pos + 1 ≠ (d.window + 1) * d.size →
          u.near = (objWrite feed ((d.pos - d.a.startStep * d.a.batch) % d.a.feedSlots * d.slotBytes) b v).near)
        ∧ getR u Reg.SHUFFLE_BYTES = (getR v Reg.SHUFFLE_BYTES + d.slotBytes) % 2 ^ 64
        ∧ ∃ z, deckGet u c = some z ∧ z.pos = w.pos + 1
            ∧ (if d.pos + 1 = (d.window + 1) * d.size then z.window = w.window + 1 ∧ z.begun = false else z = { w with pos := w.pos + 1 })))
    ∧ (¬good → Goes (.deckCopy c) s (fun u => deckGet u c = some { w with halted := true } ∧ bitR u (Reg.DECK_CAUSE c) 1 = true
        ∧ SameMemory v u)))

/-- Flits and their retry: a good flit in order is accepted and a whole message waits for the hub, a bad one is counted and asked for again; a
NACK and a timeout send the unacknowledged flits again; when retry is exhausted the port retrains and keeps its VOTE messages.
Points that the spec leaves open are the model's choice: log entry 55. -/
def Obligations.FlitsAreRetried : Prop :=
  (∀ (s : State) (p : PortId) (w c : BitVec 64) (b : Bytes), portUp s p = true →
    let h := readHdr w.toNat
    let body := slice b 0 304
    (crc64 (natLe 8 w.toNat ++ body) ≠ c.toNat → Goes (.flit p w b c) s (fun u =>
      getR u (Reg.CRC_ERRORS p) = min (getR s (Reg.CRC_ERRORS p) + 1) 0xFFFFFFFF ∧ (portGet u p).rxNext = (portGet s p).rxNext
        ∧ (portGet u p).inbox = (portGet s p).inbox ∧ (portGet u p).replay = (portGet s p).replay
        ∧ Only s u [Reg.CRC_ERRORS p] [.fab, .out]))
    ∧ (crc64 (natLe 8 w.toNat ++ body) = c.toNat → h.type = 1 → h.fseq = (portGet s p).rxNext → (portGet s p).ahead = [] → 1 ≤ h.bytes →
        h.bytes ≤ 304 → h.first = true →
      Goes (.flit p w b c) s (fun u => (portGet u p).rxNext = ((portGet s p).rxNext + 1) % 4096
        ∧ (portGet u p).inbox = (portGet s p).inbox ++ (if h.last then [(h.cls, body.take h.bytes)] else [])
        ∧ getR u (Reg.FLITS_RX p) = (getR s (Reg.FLITS_RX p) + 1) % 2 ^ 64
        ∧ getR u (Reg.PAYLOAD_RX p) = (getR s (Reg.PAYLOAD_RX p) + h.bytes) % 2 ^ 64 ∧ SameMemory s u)))
  ∧ (∀ (s : State) (p : PortId) (lastGood : Nat), portUp s p = true →
    let l := freeAcked (lastGood % 4096) (portGet s p).replay
    let n := replayCount s p l
    Goes (.nack p lastGood) s (fun u => (∃ more, (portGet u p).replay = (l.take n).map (replayed s) ++ l.drop n ++ more)
      ∧ getR u (Reg.RETRIES p) = min (getR s (Reg.RETRIES p) + (l.take n).length) 0xFFFFFFFF ∧ SameMemory s u))
  ∧ (∀ (s : State) (p : PortId) (t : TxFlit) (rest : List TxFlit), portUp s p = true → (portGet s p).replay = t :: rest →
      t.sentAt + 125 ≤ s.timeBase →
    let n := replayCount s p (t :: rest)
    Goes (.replayTimeout p) s (fun u => (portGet u p).replay = ((t :: rest).take n).map (replayed s) ++ (t :: rest).drop n
      ∧ getR u (Reg.RETRIES p) = min (getR s (Reg.RETRIES p) + ((t :: rest).take n).length) 0xFFFFFFFF
      ∧ Only s u [Reg.RETRIES p] [.fab, .out]))
  ∧ (∀ (s : State) (p : PortId), portUp s p = true → exhausted s p = true →
    Goes (.retryExhausted p) s (fun u => portState u p = 3 ∧ portUp u p = false ∧ (portGet u p).replay = []
      ∧ (portGet u p).txq = ((portGet s p).replay ++ (portGet s p).txq).filter (fun t => t.cls == 1)
      ∧ getR u (Reg.RETRAINS p) = min (getR s (Reg.RETRAINS p) + 1) 0xFFFFFFFF ∧ bitR u (Reg.PORT_CAUSE p) 1 = true
      ∧ Only s u [Reg.PORT_STATUS p, Reg.FAB_STATUS, Reg.RETRAINS p, Reg.PORT_CAUSE p, Reg.FWD_DROPS, Reg.FAB_CAUSE] [.fab]))

/-- Ports come up: training without a signal goes on; with one the part sends its own control flit, and eight good lanes, a common version
and another part's identifier bring the port up with what the peer told; each of these three that fails takes it down with its reason; a
port that both sides let go quiet does so after 100 us, unless a resident training context votes on it.
Points that the spec leaves open are the model's choice: log entries 55 and 99. -/
def Obligations.PortsComeUp : Prop :=
  (∀ (s : State) (p : PortId) (t : TrainInfo), fabricOn s = true → bitR s (Reg.PORT_CONTROL p) 31 = true →
      (portState s p = 1 ∨ portState s p = 3) →
    (t.signal = false → Goes (.linkUp p t) s (fun u => portState u p = portState s p ∧ fld u (Reg.PORT_STATUS p) 25 23 = 1
      ∧ Only s u [Reg.PORT_STATUS p, Reg.FAB_STATUS] []))
    ∧ (t.signal = true → Goes (.linkUp p t) s (fun u =>
      .training p (portGet s p).sentMask (fabricId s) (lanesUsed t.lanesPass.val) [1024, 32, 512, 32] (portGet s p).sentQuiet ∈ u.out))
    ∧ (t.signal = true → popcount t.lanesPass.val < 8 → Goes (.linkUp p t) s (fun u => portState u p = 0
      ∧ fld u (Reg.PORT_STATUS p) 25 23 = 2 ∧ fld u (Reg.LANE_MAP p) 24 16 = 511 - t.lanesPass.val
      ∧ Only s u [Reg.PORT_STATUS p, Reg.FAB_STATUS, Reg.LANE_MAP p] [.out]))
    ∧ (t.signal = true → 8 ≤ popcount t.lanesPass.val → commonVersion (portGet s p).sentMask t.peerVersions.val = none →
      Goes (.linkUp p t) s (fun u => portState u p = 0 ∧ fld u (Reg.PORT_STATUS p) 25 23 = 3 ∧ bitR u (Reg.PORT_CAUSE p) 4 = true
        ∧ Only s u [Reg.PORT_STATUS p, Reg.FAB_STATUS, Reg.PORT_CAUSE p] [.out]))
    ∧ (∀ v, t.signal = true → 8 ≤ popcount t.lanesPass.val → commonVersion (portGet s p).sentMask t.peerVersions.val = some v →
      (t.peerId % 65536 = fabricId s → Goes (.linkUp p t) s (fun u => portState u p = 0 ∧ fld u (Reg.PORT_STATUS p) 25 23 = 5
        ∧ Only s u [Reg.PORT_STATUS p, Reg.FAB_STATUS] [.out]))
      ∧ (t.peerId % 65536 ≠ fabricId s → v ≤ 3 → Goes (.linkUp p t) s (fun u => portState u p = 2 ∧ fld u (Reg.PORT_STATUS p) 25 23 = 0
        ∧ fld u (Reg.PORT_STATUS p) 28 27 = v ∧ fld u (Reg.PEER p) 15 0 = t.peerId % 65536 ∧ fld u (Reg.LANE_MAP p) 8 0 = lanesUsed t.lanesPass.val
        ∧ bitR u Reg.FAB_STATUS p = true ∧ bitR u (Reg.PORT_CAUSE p) 0 = true ∧ (portGet u p).rxNext = 0
        ∧ (portState s p = 3 → bitR u (Reg.PORT_CAUSE p) 2 = true) ∧ SameMemory s u))))
  ∧ (∀ (s : State) (p : PortId), portState s p = 2 → (portGet s p).quietBoth = true → (portGet s p).lastData + 2500 ≤ s.timeBase →
      votesOnPort s p = false → Goes (.quiet p) s (fun u => portState u p = 4 ∧ portUp u p = true
        ∧ Only s u [Reg.PORT_STATUS p, Reg.FAB_STATUS] []))

/-- Messages and mesh flits: a JOB message's flits go onto the route of its context, a DELTA or ACK message for another part is forwarded with one
hop less, what no context takes is a stray; a scheduled flit is sent and counted, one that collides and a job flit that cannot be corrected are
chip faults, an unscheduled flit of its column is sent or waits and each is counted; an opened store port serves what it held, and it closes.
Points that the spec leaves open are the model's choice: log entries 52, 55, 56, 90 and 95. -/
def Obligations.MessagesAndMeshFlits : Prop :=
  (∀ (s : State) (p : PortId) (dest c : Nat) (body : Bytes), arrives s p body = true → s.errs = [] → dest % 65536 = fabricId s →
    (healthy s = true → body.length % 32 = 0 → jobTarget s (fieldAt body 0 8) (fieldAt body 8 2) = some c → Goes (.job p dest body) s (fun u =>
      u.mesh = s.mesh ++ (flitsOf (body.drop 32)).map (fun f => { ctx := c, route := fieldAt body 8 2, payload := f })
        ∧ SameMemory s u ∧ u.ctxs = s.ctxs))
    ∧ ((body.length % 32 ≠ 0 ∨ healthy s = false ∨ jobTarget s (fieldAt body 0 8) (fieldAt body 8 2) = none) → Goes (.job p dest body) s (fun u =>
      getR u Reg.FAB_STRAYS = min (getR s Reg.FAB_STRAYS + 1) 0xFFFFFFFF ∧ bitR u Reg.FAB_CAUSE 1 = true ∧ u.mesh = s.mesh ∧ SameMemory s u)))
  ∧ (∀ (s : State) (p : PortId) (dest hops e : Nat) (body : Bytes), arrives s p body = true → s.errs = [] → dest % 65536 ≠ fabricId s →
      e = fwdEntry s (dest % 65536) →
    (2 ≤ hops → e < 8 → portUp s e = true → Goes (.delta p dest hops body) s (fun u => .fabric e 2 (dest % 65536) (hops - 1) body ∈ u.out
        ∧ getR u Reg.TRANSIT_FLITS = (getR s Reg.TRANSIT_FLITS + ceilDiv (body.length + 16) 304) % 2 ^ 64 ∧ SameMemory s u)
      ∧ Goes (.ack p dest hops body) s (fun u => .fabric e 3 (dest % 65536) (hops - 1) body ∈ u.out ∧ SameMemory s u))
    ∧ ((hops ≤ 1 ∨ 8 ≤ e) → Goes (.delta p dest hops body) s (fun u =>
        getR u Reg.FWD_DROPS = min (getR s Reg.FWD_DROPS + 1) 0xFFFFFFFF ∧ bitR u Reg.FAB_CAUSE 0 = true ∧ SameMemory s u)))
  ∧ (∀ (s : State) (p : PortId) (dest hops : Nat) (body : Bytes), arrives s p body = true → s.errs = [] → dest % 65536 = fabricId s →
      Goes (.delta p dest hops body) s (fun u => getR u Reg.FAB_STRAYS = min (getR s Reg.FAB_STRAYS + 1) 0xFFFFFFFF ∧ SameMemory s u))
  ∧ (∀ (s : State) (site : SiteId) (i o : MeshPort) (job : Bool), routerOn s site = true → connected site i = true → connected site o = true →
    Goes (.meshFlit site i o .clean job false .scheduled) s (fun u =>
      getR u (Reg.MESH_FLITS site (portNum o)) = (getR s (Reg.MESH_FLITS site (portNum o)) + 1) % 2 ^ 64
        ∧ Only s u [Reg.MESH_FLITS site (portNum o)] [])
    ∧ (∀ (taken : Bool) (req : Nat) (rivals : List Nat),
      (columnPort i = true → columnPort o = true →
        (taken = false → outranked s req rivals = false → Goes (.meshFlit site i o .clean job taken (.unscheduled req rivals)) s (fun u =>
          getR u (Reg.MESH_FLITS site (portNum o)) = (getR s (Reg.MESH_FLITS site (portNum o)) + 1) % 2 ^ 64
            ∧ Only s u [Reg.MESH_FLITS site (portNum o)] []))
        ∧ ((taken = true ∨ outranked s req rivals = true) → Goes (.meshFlit site i o .clean job taken (.unscheduled req rivals)) s (fun u =>
          getR u (Reg.MESH_WAIT site (portNum o)) = (getR s (Reg.MESH_WAIT site (portNum o)) + 1) % 2 ^ 64
            ∧ Only s u [Reg.MESH_WAIT site (portNum o)] [])))
      ∧ ((columnPort i = false ∨ columnPort o = false) → ∀ c, Goes (.meshFlit site i o c job taken (.unscheduled req rivals)) s (fun u => u = s)))
    ∧ Goes (.meshFlit site i o .single job false .scheduled) s (fun u => bitR u (Reg.MESH_CAUSE site) 1 = true
        ∧ getR u (Reg.MESH_CORRECTED site) = min (getR s (Reg.MESH_CORRECTED site) + 1) 0xFFFFFFFF
        ∧ getR u (Reg.MESH_FLITS site (portNum o)) = (getR s (Reg.MESH_FLITS site (portNum o)) + 1) % 2 ^ 64
        ∧ Only s u [Reg.MESH_CAUSE site, Reg.MESH_CORRECTED site, Reg.MESH_FLITS site (portNum o)] [])
    ∧ (s.faultSeq.phase = .none → Goes (.meshFlit site i o .clean job true .scheduled) s (fun u => bitR u (Reg.MESH_CAUSE site) 0 = true
        ∧ u.faultSeq = { phase := .sequence, since := s.timeBase } ∧ bitR u Reg.FAULT_STATUS 0 = true
        ∧ getR u Reg.FAULT_CODE = 0x03 * 0x1000000 + (site.val * 2 ^ 14 + portNum o) ∧ getR u Reg.FAULT_TIME = s.timeBase % 2 ^ 64
        ∧ getR u Reg.FAULT_COUNT = min (getR s Reg.FAULT_COUNT + 1) 0xFFFFFFFF ∧ SameMemory s u))
    ∧ (s.faultSeq.phase = .none → Goes (.meshFlit site i o .double true false .scheduled) s (fun u => bitR u (Reg.MESH_CAUSE site) 2 = true
        ∧ getR u Reg.FAULT_CODE = 0x04 * 0x1000000 + (site.val * 2 ^ 14 + portNum i) ∧ bitR u Reg.FAULT_STATUS 0 = true ∧ SameMemory s u)))
  ∧ (∀ (s : State) (site : SiteId) (q : StorePort), tget s.ports site.val = some q →
    (q.openNow = false → Goes (.storePortOpen site) s (fun u =>
      let v := (q.held ++ q.behind).foldl (fun s i => perform i s)
        { s with ports := tput s.ports site.val { openNow := true, at_ := s.cycle, held := [], behind := [] } }
      u = v.bar2q.foldl (fun s i => perform i s) { v with bar2q := [] }
        ∧ (q.held = [] → q.behind = [] → s.bar2q = [] → Only s u [] [.ports]
          ∧ tget u.ports site.val = some { openNow := true, at_ := s.cycle, held := [], behind := [] })))
    ∧ (q.openNow = true → q.at_ + 4096 ≤ s.cycle → Goes (.storePortClose site) s (fun u => tget u.ports site.val = none
      ∧ Only s u [] [.ports])))

/-- The end of a fault sequence and recovery: QUIESCED comes 1 ms after the fault and recovery after the hold time; recovery that finds enough
dies, engines and stacks empties the tile stores and returns the part to service; one that does not fails and the part stays out of work.
Points that the spec leaves open are the model's choice: log entries 74 and 78. -/
def Obligations.FaultSequenceAndRecovery : Prop :=
  (∀ s : State, s.faultSeq.phase = .sequence → s.faultSeq.since + 25000 ≤ s.timeBase → Goes .quiesced s (fun u =>
      u.faultSeq = { phase := .quiesced, since := s.timeBase } ∧ quiescedNow u = true ∧ healthy u = false))
  ∧ (∀ s : State, s.faultSeq.phase = .quiesced → fld s Reg.FAULT_CONTROL 15 0 ≠ 0xFFFF →
      s.faultSeq.since + fld s Reg.FAULT_CONTROL 15 0 * 25000 ≤ s.timeBase → Goes .recoveryHoldExpiry s (fun u =>
        u.faultSeq = { phase := .recovering, since := s.timeBase } ∧ bitR u Reg.FAULT_STATUS 30 = true ∧ bitR u Reg.FAULT_CONTROL 31 = false
          ∧ fld u Reg.RECOVERY_REPORT 31 30 = 3 ∧ Only s u [Reg.FAULT_STATUS, Reg.FAULT_CONTROL, Reg.RECOVERY_REPORT] [.faultSeq]))
  ∧ (∀ (s : State) (t : SelfTest), s.faultSeq.phase = .recovering →
    (full s = true → (∀ d, d < 4 → 128 ≤ fitCount t d) → 48 ≤ fitEngines t →
        (∀ st, st < 8 → stackFails (writeEngines t (writeDies t [0, 1, 2, 3] (recoverStores s))) t st = false) →
      Goes (.recoveryComplete t) s (fun u => u.faultSeq = { phase := .none, since := s.timeBase } ∧ quiescedNow u = false
        ∧ bitR u Reg.FAULT_STATUS 30 = false ∧ fld u Reg.RECOVERY_REPORT 31 30 = 1 ∧ bitR u Reg.RECOVERY_REPORT 29 = true
        ∧ u.tileStore = []))
    ∧ (full s = true → (∃ d, d < 4 ∧ fitCount t d < 128) → Goes (.recoveryComplete t) s (fun u =>
        fld u Reg.RECOVERY_REPORT 31 30 = 2 ∧ bitR u Reg.FAULT_STATUS 30 = false ∧ healthy u = false
          ∧ fld u Reg.BASECAMP_REASON 23 16 = 0x0A ∧ fld u Reg.BASECAMP_REASON 15 8 = 1
          ∧ getR u Reg.FAILED_STARTS = min (getR s Reg.FAILED_STARTS + 1) 0xFFFFFFFF)))

/-- The finite vote: the chip flag enters the tree once every tile has issued the vote; the root with every child's UP, and any other device
with its DOWN, applies the result to every tile; what matches no vote is a stray; a result that does not come in time is a chip fault.
Points that the spec leaves open are the model's choice: log entry 52. -/
def Obligations.VotesResolve : Prop :=
  (∀ (s : State) (c : CtxId) (x : Ctx) (step id : Nat) (f : Bool) (v : VoteRec), training s c = some x → nextVote s c x = some (step, id) →
      tileFlags x id = some f → voteRec x.pitch id = some v → healthy s = true → awake s = true → (trainGet s c).vote.flag = none →
    ((∀ p ∈ childPorts v, (tget (trainGet s c).vote.ups p).isSome = true) → isRoot v = true → Goes (.chipFlag c) s (fun u =>
      (trainGet u c).result = some (f || (trainGet s c).vote.ups.any (·.2)) ∧ (trainGet u c).votesDone = (trainGet s c).votesDone + 1
        ∧ (trainGet u c).vote = { flag := none, ups := [] } ∧ getR u (Reg.VOTE_TIME c) = 0 ∧ SameMemory s u
        ∧ (∀ site, (tget x.tiles site).isSome = true → ((tcGet u c site).bind (·.vote)) = none)))
    ∧ ((∃ p ∈ childPorts v, tget (trainGet s c).vote.ups p = none) → Goes (.chipFlag c) s (fun u =>
      (trainGet u c).vote = { (trainGet s c).vote with flag := some (f, s.timeBase) } ∧ (trainGet u c).result = (trainGet s c).result
        ∧ Only s u [] [.train])))
  ∧ (∀ (s t : State) (p : PortId) (dest c step : Nat) (body : Bytes) (x : Ctx) (v : VoteRec), arrives s p body = true → s.errs = [] →
      t = takeMessage p 1 body s →
    (voteBody dest 0 body t = some (c, x, step, v) → p.val ∈ childPorts v → tget (trainGet s c).vote.ups p = none →
        (trainGet s c).vote.flag = none → Goes (.up p dest body) s (fun u =>
      (trainGet u c).vote = { flag := none, ups := tput (trainGet s c).vote.ups p (fieldAt body 21 1 == 1) } ∧ Only t u [] [.train]))
    ∧ (voteBody dest 1 body t = some (c, x, step, v) → isRoot v = false → v.parentPort = p → (trainGet s c).vote.flag.isSome = true →
      Goes (.down p dest body) s (fun u => (trainGet u c).result = some (fieldAt body 21 1 == 1)
        ∧ (trainGet u c).votesDone = (trainGet s c).votesDone + 1 ∧ (trainGet u c).vote = { flag := none, ups := [] } ∧ SameMemory s u))
    ∧ (voteBody dest 0 body t = none → Goes (.up p dest body) s (fun u =>
      getR u Reg.VOTE_STRAYS = min (getR s Reg.VOTE_STRAYS + 1) 0xFFFFFFFF ∧ bitR u Reg.VOTE_CAUSE 0 = true ∧ u.train = s.train))
    ∧ (voteBody dest 1 body t = none → Goes (.down p dest body) s (fun u =>
      getR u Reg.VOTE_STRAYS = min (getR s Reg.VOTE_STRAYS + 1) 0xFFFFFFFF ∧ u.train = s.train)))
  ∧ (∀ (s : State) (c : CtxId) (x : Ctx) (f : Bool) (t step id : Nat) (v : VoteRec), training s c = some x →
      (trainGet s c).vote.flag = some (f, t) → nextVote s c x = some (step, id) → voteRec x.pitch id = some v → healthy s = true →
      t + v.timeout * 25 ≤ s.timeBase → id < 65536 →
    Goes (.voteTimeout c) s (fun u => bitR u (Reg.CTX_SWEEP_CAUSE c) 5 = true ∧ u.faultSeq = { phase := .sequence, since := s.timeBase }
      ∧ getR u Reg.FAULT_CODE = 0x0E * 0x1000000 + (c.val * 2 ^ 16 + id) ∧ SameMemory s u))

/-- The sweep of a step: it begins once the votes are in, with a task for each pack, of a skipped step only where a delta stream carries its error
terms; a pack under every rule but Adafactor is read, computed, written and counted by its engine; the sweep ends with the loss scale and the
count of good steps that its result gives, and the step completes with STEP counted and T31 posted on every used tile.
Points that the spec leaves open are the model's choice: log entries 53 and 96. -/
def Obligations.SweepEndsTheStep : Prop :=
  (∀ (s : State) (c : CtxId) (x : Ctx), training s c = some x → healthy s = true → awake s = true → phaseOf s c = 2 →
      stepReady s c x = true → snapshotClear (trainGet s c) = true →
    let skip := (trainGet s c).result == some true
    let on := ((trainGet s c).stream.map (carries (trainGet s c))).getD false
    let n := getR s (Reg.STEP c) + 1
    Goes (.sweepBegin c) s (fun u => phaseOf u c = 3 ∧ (trainGet u c).began = s.timeBase ∧ (trainGet u c).took = []
      ∧ (trainGet u c).tasks = (if skip = true ∧ on = false then []
          else (indexed (planOf x.pitch).recs).flatMap (fun e => groupTasks s x skip e.1 e.2))
      ∧ (trainGet u c).stream = (trainGet s c).stream.map (fun st =>
          if on then { st with jobs := st.jobs ++ (stateJobs x.pitch n skip ++ [DeltaJob.stepEnd n (b2n skip) none]) } else st)
      ∧ Only s u [Reg.STEP_STATE c] [.train]))
  ∧ (∀ (s t0 v w : State) (c : CtxId) (e : StackId) (x : Ctx) (task : SweepTask) (r : SweepRec) (t : Tbl (Bytes × Bytes)),
      training s c = some x → nextTask s c e x = (t0, some task) → healthy s = true → awake s = true → phaseOf s c = 3 →
      bitR s (Reg.SWEEP_STATUS e) 31 = true → stagingFull s c x = false → groupRec x.pitch task.group = some r → r.rule ≠ 4 →
      task.pass ≠ 4 → s.errs = [] → taskHeld t0 x r (taskReads (planOf x.pitch) r task.pack task.pass) = false →
      readForms x r task.pack (passForms r task.pass) t0 = (v, some t) →
      writeForms x r (sweepPlain (planOf x.pitch) r (getR s (Reg.STEP c)) (invScale (getR s (Reg.LOSS_SCALE c))) task.pack t).writes v
        = .done w →
    Goes (.sweepPack c e) s (fun u => (trainGet u c).tasks = (trainGet w c).tasks.erase task
      ∧ getR u (Reg.PARAMS_SWEPT e) = (getR w (Reg.PARAMS_SWEPT e) + 1024) % 2 ^ 64 ∧ SameMemory w u ∧ u.objs = w.objs))
  ∧ (∀ (s : State) (c : CtxId) (x : Ctx), training s c = some x → healthy s = true → awake s = true → phaseOf s c = 3 →
      (trainGet s c).tasks = [] → tailStaged s c x = true →
    let w := getR s (Reg.LOSS_SCALE c)
    let n := getR s (Reg.GOOD_STEPS c) + 1
    Goes (.sweepEnd c) s (fun u =>
      phaseOf u c = (if ((trainGet s c).stream.map (·.broken)).getD false then 5 else 4)
      ∧ ((trainGet s c).result = some true → getR u (Reg.GOOD_STEPS c) = 0
          ∧ getR u (Reg.LOSS_SCALE c) = (if 0x3F800000 < w then w - 2 ^ 23 else w)
          ∧ getR u (Reg.SKIPS c) = min (getR s (Reg.SKIPS c) + 1) 0xFFFFFFFF)
      ∧ ((trainGet s c).result ≠ some true → 0 < (planOf x.pitch).growth → n = (planOf x.pitch).growth → getR u (Reg.GOOD_STEPS c) = 0
          ∧ getR u (Reg.LOSS_SCALE c) = (if w < 0x4F800000 then w + 2 ^ 23 else w) ∧ getR u (Reg.SKIPS c) = getR s (Reg.SKIPS c))
      ∧ ((trainGet s c).result ≠ some true → (planOf x.pitch).growth = 0 ∨ n ≠ (planOf x.pitch).growth →
          getR u (Reg.GOOD_STEPS c) = n % 2 ^ 32 ∧ getR u (Reg.LOSS_SCALE c) = w)
      ∧ Only s u [Reg.GOOD_STEPS c, Reg.LOSS_SCALE c, Reg.CTX_SWEEP_CAUSE c, Reg.SKIPS c, Reg.STEP_STATE c, Reg.DELTA_WAIT c] [.train]))
  ∧ (∀ (s : State) (c : CtxId) (x : Ctx), training s c = some x → healthy s = true → awake s = true → phaseOf s c = 4 →
      mayComplete s c = true → (x.tiles.map (·.1)).Nodup → (∀ site t, tget x.tiles site = some t → tokGet t 31 < 255) →
    Goes (.stepComplete c) s (fun u => getR u (Reg.STEP c) = (getR s (Reg.STEP c) + 1) % 2 ^ 64
      ∧ phaseOf u c = (if doneEverywhere s c then 6 else 1) ∧ (trainGet u c).votesDone = 0 ∧ (trainGet u c).result = none
      ∧ bitR u (Reg.STEP_STATE c) 27 = ((trainGet s c).result == some true) ∧ bitR u (Reg.CTX_SWEEP_CAUSE c) 0 = true
      ∧ (∀ site t, tget x.tiles site = some t → ∃ t', tcGet u c site = some t' ∧ tokGet t' 31 = tokGet t 31 + 1)
      ∧ Piece.near.kept s u ∧ Piece.host.kept s u ∧ u.objs = s.objs))

/-- The delta stream: a record that is ready goes into its ring, or as one message to its port, and takes the next SEQ; a port that is down and
an ACK that does not come for 100 ms break the stream; an ACK accepts its stream's records up to its SEQ; a wait over 1 ms is noticed;
DELTA_ATTACH opens a stream and detaches one. Points that the spec leaves open are the model's choice: log entries 54 and 96. -/
def Obligations.DeltaStreams : Prop :=
  (∀ (s t : State) (c : CtxId) (x : Ctx) (st : Stream) (j : DeltaJob) (js : List DeltaJob) (b : Bytes), training s c = some x →
      (trainGet s c).stream = some st → s.endings.find? (fun e => e.ctx == c.val) = none → healthy s = true → awake s = true →
      st.broken = false → st.seq < 2 ^ 32 - 1 → st.jobs = j :: js → jobReady j = true → buildRecord x st j s = (t, some b) →
      (∀ r, j ≠ .endRec r) →
    (st.dest = 1 → ringNeeds st b.length ≤ ringFree st → Goes (.deltaRecord c) s (fun u =>
      u.host = (ringPut x.fn x.pitch st b t).1.host ∧ getR u (Reg.DELTA_BYTES c) = (getR t (Reg.DELTA_BYTES c) + ringNeeds st b.length) % 2 ^ 64
        ∧ Piece.near.kept t u ∧ ∃ st', (trainGet u c).stream = some st' ∧ st'.seq = st.seq + 1 ∧ st'.jobs = js
            ∧ st'.tail = (ringPut x.fn x.pitch st b t).2.tail ∧ st'.id = st.id))
    ∧ (st.dest ≠ 1 → portUp t st.port = true → Goes (.deltaRecord c) s (fun u => .fabric st.port 2 st.device 32 b ∈ u.out ∧ SameMemory t u
        ∧ ∃ st', (trainGet u c).stream = some st' ∧ st'.seq = st.seq + 1 ∧ st'.jobs = js
            ∧ st'.sent = st.sent ++ [(st.seq, jobState j, b.length, st.id)]))
    ∧ (st.dest ≠ 1 → portUp t st.port = false → (trainGet s c).next = none → Goes (.deltaRecord c) s (fun u => bitR u (Reg.CTX_SWEEP_CAUSE c) 4 = true
        ∧ (∃ st', (trainGet u c).stream = some st' ∧ st'.broken = true ∧ st'.jobs = [] ∧ st'.sent = []) ∧ SameMemory s u)))
  ∧ (∀ (s : State) (c : CtxId) (t : Nat), (trainGet s c).wait = some (t, false) → t + 25000 < s.timeBase → Goes (.deltaWait c) s (fun u =>
      (trainGet u c).wait = some (t, true) ∧ bitR u (Reg.CTX_SWEEP_CAUSE c) 3 = true ∧ Only s u [Reg.CTX_SWEEP_CAUSE c] [.train]))
  ∧ (∀ (s : State) (p : PortId) (dest hops c : Nat) (body : Bytes) (st : Stream), arrives s p body = true → s.errs = [] →
      dest % 65536 = fabricId s → body.length = 32 → streamOf s (fieldAt body 0 8) = some (c, st) →
      let acked := fun (e : Nat × Nat × Nat × Nat) => e.2.2.2 == fieldAt body 0 8 && e.1 ≤ fieldAt body 8 8
      (∃ e ∈ st.sent, acked e = true) → Goes (.ack p dest hops body) s (fun u =>
        (∃ st', (trainGet u c).stream = some st' ∧ st'.sent = st.sent.filter (fun e => !acked e) ∧ st'.ackAt = s.timeBase)
        ∧ getR u (Reg.DELTA_BYTES c) = (getR s (Reg.DELTA_BYTES c) + ((st.sent.filter acked).map (·.2.2.1)).foldl (· + ·) 0) % 2 ^ 64))
  ∧ (∀ (s : State) (c : CtxId) (st : Stream), (trainGet s c).stream = some st → st.broken = false → st.sent ≠ [] →
      st.ackAt + 2500000 ≤ s.timeBase → healthy s = true → (trainGet s c).next = none → Goes (.ackTimeout c) s (fun u =>
        (∃ st', (trainGet u c).stream = some st' ∧ st'.broken = true ∧ st'.sent = []) ∧ bitR u (Reg.CTX_SWEEP_CAUSE c) 4 = true
          ∧ (phaseOf s c = 4 → phaseOf u c = 5) ∧ Only s u [Reg.CTX_SWEEP_CAUSE c, Reg.STEP_STATE c] [.train]))
  ∧ (∀ (s v : State) (h : CmdHdr) (a : DeltaArgs) (x : Ctx), Ready (.deltaAttach h a) s → a.dest ≤ 2 → a.lag ≤ 3 → ctxGet s a.ctx = some x →
      x.fn = h.fn.val → x.pitch.flags.testBit 0 = true →
      attachCode (took (.deltaAttach h a) s) x a (trainGet s a.ctx).stream = 0 →
    (a.dest = 0 → Ends (.deltaAttach h a) s h 0 0 0 (fun u => (trainGet u a.ctx).stream = none ∧ (trainGet u a.ctx).next = none
      ∧ bitR u (Reg.STEP_STATE a.ctx) 26 = false ∧ SameMemory s u))
    ∧ (∀ id, a.dest ≠ 0 → (trainGet s a.ctx).stream = none → streamId (took (.deltaAttach h a) s) = (v, some id) →
      Ends (.deltaAttach h a) s h 0 0 0 (fun u => (trainGet u a.ctx).stream = some (newStream a id)
        ∧ bitR u (Reg.STEP_STATE a.ctx) 26 = true ∧ SameMemory s u)))

/-- A round on the tray: a PROPOSE of another node opens it with this node's vote, votes and the COMMIT move it, a missing vote or COMMIT ends it,
a WAKE aborts it and wakes the node, and the last call without a WAKE ends in SLEEP where the part is in full service. A PROPOSE of this node
that was sent opens its round. Points that the spec leaves open are the model's choice: log entries 72 and 77. -/
def Obligations.RoundsOnTheTray : Prop :=
  (∀ (s : State) (slot : Fin 16), onBus s = true → slot.val ≠ mySlot s →
    (∀ round members, s.tray.round = none → baseCamp s = false → Goes (.proposeFrame slot round members) s (fun u =>
      ∃ r, u.tray.round = some r ∧ r.num = round % 256 ∧ r.mine = false ∧ r.mask = members % 65536 ∧ r.began = s.timeBase
        ∧ r.window = none ∧ fld u Reg.TRAY_STATUS 23 21 = 2 ∧ fld u Reg.TRAY_STATUS 15 8 = round % 256
        ∧ (bitR s Reg.TRAY_CONTROL 29 = false → r.vote = some false) ∧ (s.tray.mute = false → ∃ e ∈ u.tray.txq, e.1 = 3) ∧ TrayOnly s u))
    ∧ (∀ round members, s.tray.round.isSome = true → Goes (.proposeFrame slot round members) s (fun u =>
      u.tray.round = s.tray.round ∧ getR u Reg.FRAMES_IGNORED = min (getR s Reg.FRAMES_IGNORED + 1) 0xFFFFFFFF ∧ TrayOnly s u))
    ∧ (∀ r round vote reason, s.tray.round = some r → r.num = round % 256 → Goes (.voteFrame slot round vote reason) s (fun u =>
      (vote % 256 = 0 → u.tray.round = some { r with yes := r.yes ||| 2 ^ slot.val })
        ∧ (vote % 256 ≠ 0 → u.tray.round = some { r with no := true }
            ∧ (r.mine = true → r.window = none → s.tray.mute = false → ∃ e ∈ u.tray.txq, e.1 = 2)) ∧ TrayOnly s u))
    ∧ (∀ r round result, s.tray.round = some r → r.num = round % 256 → r.window = none →
      Goes (.commitFrame slot round result) s (fun u =>
        (result % 256 = 0 → u.tray.round = some { r with window := some s.timeBase } ∧ fld u Reg.TRAY_STATUS 23 21 = 3)
        ∧ (result % 256 ≠ 0 → u.tray.round = none ∧ fld u Reg.TRAY_STATUS 20 18 = (if r.no then 2 else 3)
            ∧ getR u Reg.ROUNDS = min (getR s Reg.ROUNDS + 1) 0xFFFFFFFF ∧ bitR u Reg.TRAY_CAUSE 4 = true) ∧ TrayOnly s u))
    ∧ (∀ reason round, s.waiting = [] → s.power.rest = .awake → Goes (.wakeFrame slot reason round) s (fun u =>
        u.tray.round = none ∧ bitR u Reg.TRAY_CAUSE 5 = true ∧ u.power.rest = .awake
          ∧ (s.tray.round.isSome = true → fld u Reg.TRAY_STATUS 20 18 = 4
              ∧ getR u Reg.ROUND_ABORTS = min (getR s Reg.ROUND_ABORTS + 1) 0xFFFFFFFF) ∧ TrayOnly s u)))
  ∧ (∀ (s : State) (slot : Fin 16) (reason round : Nat), onBus s = true → slot.val ≠ mySlot s → s.power.rest = .sleep →
      s.power.restAt + 125000 ≤ s.timeBase → Goes (.wakeFrame slot reason round) s (fun u => u.power.rest = .waking false))
  ∧ (∀ (s : State) (slot : Fin 16) (round members : Nat), onBus s = true → slot.val = mySlot s → s.tray.mute = false →
      (4, slice (([round, 0] ++ two members).map (BitVec.ofNat 8)) 0 8) ∈ s.tray.txq →
    Goes (.proposeFrame slot round members) s (fun u => getR u Reg.FRAMES_TX = min (getR s Reg.FRAMES_TX + 1) 0xFFFFFFFF
      ∧ fld u Reg.TRAY_ERRORS 31 24 = 0 ∧ bitR u Reg.TRAY_STATUS 30 = false
      ∧ .tray 4 (slice (([round, 0] ++ two members).map (BitVec.ofNat 8)) 0 8) ∈ u.out
      ∧ (∃ r, u.tray.round = some r ∧ r.mine = true ∧ r.num = round % 256 ∧ r.vote = some true) ∧ TrayOnly s u))
  ∧ (∀ (s : State) (r : Round), s.tray.round = some r → r.window = none →
    (r.mine = true → commitQueued s = false → r.began + 2500000 ≤ s.timeBase → mayTransmit s = true → Goes .voteDeadline s (fun u =>
      u.tray.txq = s.tray.txq ++ [(2, slice ([r.num, 1].map (BitVec.ofNat 8)) 0 8)] ∧ Only s u [] [.tray]))
    ∧ (r.mine = false → r.began + 5000000 ≤ s.timeBase → Goes .commitTimeout s (fun u => u.tray.round = none
      ∧ fld u Reg.TRAY_STATUS 20 18 = 3 ∧ fld u Reg.TRAY_STATUS 23 21 = 0 ∧ getR u Reg.ROUNDS = min (getR s Reg.ROUNDS + 1) 0xFFFFFFFF
      ∧ Only s u [Reg.TRAY_STATUS, Reg.TRAY_CAUSE, Reg.ROUNDS] [.tray])))
  ∧ (∀ (s : State) (r : Round) (w : Nat), s.tray.round = some r → r.window = some w → w + 500000 ≤ s.timeBase →
      (∀ e ∈ s.tray.txq, e.1 ≠ 1) → s.power.rest = .awake →
    (full s = true → s.start.inReset = false → Goes .lastCallEnd s (fun u => u.tray.round = none ∧ u.power.rest = .sleep
        ∧ fld u Reg.TRAY_STATUS 23 21 = 4 ∧ fld u Reg.POWER_STATE 31 29 = 3 ∧ u.ctxs = s.ctxs))
    ∧ ((full s = false ∨ s.start.inReset = true) → Goes .lastCallEnd s (fun u => u.tray.round = none ∧ fld u Reg.TRAY_STATUS 20 18 = 1
        ∧ fld u Reg.TRAY_STATUS 23 21 = 0
        ∧ Only s u [Reg.TRAY_STATUS, Reg.TRAY_CAUSE, Reg.ROUNDS, Reg.TRAY_CONTROL] [.tray])))

/-- Members, the budget and the bus itself: BUDGET and PRESENCE of other nodes are noted and this node's own are queued in their time, the allowance
follows the members, and errors count up to bus-off.
Points that the spec leaves open are the model's choice: log entries 72 and 73. -/
def Obligations.MembersBudgetAndErrors : Prop :=
  (∀ (s : State) (slot : Fin 16), onBus s = true → slot.val ≠ mySlot s →
    (∀ cap request d, Goes (.budgetFrame slot cap request d) s (fun u =>
      (tget u.tray.others slot.val).bind (·.budget) = some (cap % 65536, request % 65536)
        ∧ (tget u.tray.others slot.val).map (·.seen) = some s.timeBase
        ∧ getR u Reg.FRAMES_RX = min (getR s Reg.FRAMES_RX + 1) 0xFFFFFFFF ∧ bitR u Reg.TRAY_STATUS 30 = false
        ∧ u.power.allowance = (allowanceOf u).2 ∧ TrayOnly s u))
    ∧ (∀ camp serial, Goes (.presenceFrame slot camp serial) s (fun u =>
      (tget u.tray.others slot.val).map (·.present) = some (!camp) ∧ (tget u.tray.others slot.val).map (·.seen) = some s.timeBase
        ∧ u.power.allowance = (allowanceOf u).2 ∧ TrayOnly s u))
    ∧ Goes (.ignoredFrame slot) s (fun u => getR u Reg.FRAMES_IGNORED = min (getR s Reg.FRAMES_IGNORED + 1) 0xFFFFFFFF
        ∧ getR u Reg.FRAMES_RX = min (getR s Reg.FRAMES_RX + 1) 0xFFFFFFFF ∧ TrayOnly s u))
  ∧ (∀ (s : State) (slot : Fin 16) (camp : Bool) (serial : Nat), onBus s = true → slot.val = mySlot s → serial % 2 ^ 56 ≠ mySerial →
      Goes (.presenceFrame slot camp serial) s (fun u => u.tray.mute = true ∧ u.tray.txq = [] ∧ bitR u Reg.TRAY_CAUSE 3 = true
        ∧ Only s u [Reg.FRAMES_RX, Reg.TRAY_CAUSE] [.tray]))
  ∧ (∀ s : State, onBus s = true → s.tray.mute = false →
    (s.tray.budgetAt ≤ s.timeBase → Goes .budgetTimer s (fun u => u.tray.budgetAt = s.tray.budgetAt + 2500000
      ∧ (0x10, slice ((two (myCap s) ++ two (myRequest s) ++ two (s.power.winMean / 80)).map (BitVec.ofNat 8)) 0 8) ∈ u.tray.txq
      ∧ Only s u [] [.tray]))
    ∧ (s.tray.presenceAt ≤ s.timeBase → Goes .presenceTimer s (fun u => u.tray.presenceAt = s.tray.presenceAt + 25000000
      ∧ (0x20, slice ((presenceData (baseCamp s) mySerial).map (BitVec.ofNat 8)) 0 8) ∈ u.tray.txq ∧ Only s u [] [.tray])))
  ∧ (∀ (s : State) (slot : Fin 16) (m : Member), (slot.val, m) ∈ s.tray.others → m.present = true → m.seen + 75000000 ≤ s.timeBase →
      Goes (.memberExpiry slot) s (fun u => u.power.allowance = (allowanceOf s).2 ∧ u.tray = s.tray
        ∧ ((allowanceOf s).2 ≠ s.power.allowance → bitR u Reg.TRAY_CAUSE 6 = true)
        ∧ Only s u [Reg.TRAY_POWER, Reg.TRAY_CAUSE, Reg.POWER_LIMIT] [.power]))
  ∧ (∀ s : State, onBus s = true →
    (16 ≤ unacked s → bitR s Reg.TRAY_STATUS 30 = false → Goes .alone s (fun u => bitR u Reg.TRAY_STATUS 30 = true
      ∧ bitR u Reg.TRAY_CAUSE 0 = true ∧ u.tray.retryAt = s.timeBase + 25000000 ∧ TrayOnly s u))
    ∧ (∀ e rest, s.tray.txq = e :: rest → bitR s Reg.TRAY_STATUS 30 = true → s.tray.retryAt ≤ s.timeBase →
      Goes (.aloneRetry false) s (fun u => unacked u = min 255 (unacked s + 1) ∧ u.tray.retryAt = s.timeBase + 25000000
        ∧ u.tray.txq = s.tray.txq ∧ Only s u [Reg.TRAY_ERRORS] [.tray])
      ∧ Goes (.aloneRetry true) s (fun u => unacked u = 0 ∧ bitR u Reg.TRAY_STATUS 30 = false
        ∧ getR u Reg.FRAMES_TX = min (getR s Reg.FRAMES_TX + 1) 0xFFFFFFFF ∧ .tray e.1 e.2 ∈ u.out ∧ TrayOnly s u))
    ∧ (∀ n, Goes (.busError true n) s (fun u => tec u = min 255 (tec s + n) ∧ unacked u = min 255 (unacked s + 1)
        ∧ (256 ≤ tec s + n → bitR u Reg.TRAY_STATUS 28 = true ∧ bitR u Reg.TRAY_CAUSE 2 = true)
        ∧ bitR u Reg.TRAY_STATUS 29 = (decide (128 ≤ tec s + n) || decide (128 ≤ rec_ s))
        ∧ Only s u [Reg.TRAY_ERRORS, Reg.TRAY_STATUS, Reg.TRAY_CAUSE] [])
      ∧ Goes (.busError false n) s (fun u => rec_ u = min 255 (rec_ s + n) ∧ tec u = tec s ∧ unacked u = unacked s
        ∧ bitR u Reg.TRAY_STATUS 29 = (decide (128 ≤ tec s) || decide (128 ≤ rec_ s + n))
        ∧ Only s u [Reg.TRAY_ERRORS, Reg.TRAY_STATUS, Reg.TRAY_CAUSE] [])))
  ∧ (∀ s : State, bitR s Reg.TRAY_STATUS 28 = true → Goes .busOffRecovery s (fun u => bitR u Reg.TRAY_STATUS 28 = false ∧ tec u = 0
      ∧ rec_ u = 0 ∧ bitR u Reg.TRAY_STATUS 29 = false ∧ Only s u [Reg.TRAY_STATUS, Reg.TRAY_ERRORS, Reg.TRAY_CAUSE] []))

/-- RANDOM_GET, whole (R355): with a LENGTH that is a multiple of 16 from 16 to 4,096 and a mapped range it completes with DONE, the bytes
that the DRBG gives - after a reseed where FRESH asks for prediction resistance - written at ADDR; another LENGTH, an unmapped range and a
DRBG that is stopped, or stops in that reseed, complete with LENGTH, ADDRESS and ENTROPY_FAILURE, and write nothing. -/
def Obligations.RandomGetAnswers : Prop :=
  ∀ (s : State) (h : CmdHdr) (fresh len addr : Nat), Ready (.randomGet h fresh len addr) s → fresh ≤ 1 →
    let t := took (.randomGet h fresh len addr) s
    (∀ (v w : State) (b : Bytes), len % 16 = 0 → 16 ≤ len → len ≤ 4096 → mapped s h.fn.val addr len = true →
        draw (fresh == 1) len t = (v, some b) → devWrite h.fn.val addr b v = (w, 0) →
      b.length = len ∧ Ends (.randomGet h fresh len addr) s h 0 0 0 (fun u => u = w))
    ∧ (len % 16 ≠ 0 ∨ len < 16 ∨ 4096 < len → Ends (.randomGet h fresh len addr) s h 1 0 0 (fun u => u = t))
    ∧ (len % 16 = 0 → 16 ≤ len → len ≤ 4096 → mapped s h.fn.val addr len = false →
      Ends (.randomGet h fresh len addr) s h 2 0 0 (fun u => bitR u Reg.MEM_CAUSE 6 = true ∧ Only t u [Reg.MEM_CAUSE] []))
    ∧ (∀ v, len % 16 = 0 → 16 ≤ len → len ≤ 4096 → mapped s h.fn.val addr len = true → draw (fresh == 1) len t = (v, none) →
      Ends (.randomGet h fresh len addr) s h 3 0 0 (fun u => u = v ∧ (drbgOn s = false → v = t)))

/-- The update rules of the optimizer sweep, each operation rounded to FP32 in the order written: SGD and the two momentum rules (R256),
AdamW (R257) and Lion (R259). `c` gives the constants, `m` and `v` are the moments, and `a` is the master after decoupled weight decay. -/
def Obligations.UpdateRules : Prop :=
  ∀ (c : Nat → Fp) (θ g m v : Fp),
    let a := fma32 (c 1).negate θ θ
    let vel := fma32 (c 2) m (mul32 (c 3) g)
    let sec := fma32 (c 4) v (mul32 (c 5) (mul32 g g))
    ruleStep 0 c θ g m v = (fma32 (c 0).negate g a, m, v)
    ∧ ruleStep 1 c θ g m v = (fma32 (c 0).negate vel a, vel, v)
    ∧ ruleStep 2 c θ g m v = (fma32 (c 0).negate (fma32 (c 2) vel g) a, vel, v)
    ∧ ruleStep 3 c θ g m v = (fma32 (c 0).negate (div32 vel (fma32 (sqrt32 sec) (c 6) (c 7))) a, vel, sec)
    ∧ ruleStep 5 c θ g m v = (fma32 (c 0).negate (signOf vel) a, fma32 (c 4) m (mul32 (c 5) g), v)
    ∧ (∀ x, (∃ e k, x = .fin false (k + 1) e) ∨ x = .inf false → signOf x = .fin false 1 0)
    ∧ (∀ x, (∃ e k, x = .fin true (k + 1) e) ∨ x = .inf true → signOf x = .fin true 1 0)
    ∧ (∀ n e, signOf (.fin n 0 e) = .fin false 0 0)

/-- A step runs the command at the front of the queue on the state that holds the queue's rest. On an empty queue one cycle of the
always-on clock passes; that last part is the model's choice (log entry 1). -/
def Obligations.StepRunsTheFrontCommand : Prop :=
  (∀ (c : Instr) (rest : List Instr) (s : State), s.pending = c :: rest → step s = exec c { s with pending := rest })
  ∧ (∀ s : State, s.pending = [] → step s = .next (aonCycle s))
  ∧ (∀ s : State, s.pending = [] → s.pins.aon = true →
      (aonCycle s).timeBase = s.timeBase + 1 ∧ (aonCycle s).cycle = s.cycle + tileRate s)

/-- Every command answers a next state in every state - the part has no command that stops it - and leaves the queue of waiting commands
and the kept DOZE timer right. That a command whose conditions fail leaves the state as it is, is the model's choice (log entry 2). -/
def Obligations.EveryCommandAnswers : Prop :=
  ∀ (c : Instr) (s : State), ∃ t, exec c s = .next t ∧ t.pending = s.pending ∧ DozeTimerRight t

/-- The sparse memories - near store, tile stores, host memory and placement tables - keep their one canonical form over every step, so that
equal memories are equal data. -/
def Obligations.MemoriesStayCanonical : Prop :=
  ∀ s t : State, MemoriesWf s → step s = .next t → MemoriesWf t

/-- Over every step, each resident context is one of the part's 64 and each of its tiles one of the four slots of its site. -/
def Obligations.ContextsStayInRange : Prop :=
  ∀ s t : State, ContextsWf s → step s = .next t → ContextsWf t

/-- Pitch-signing keys and anchors change only by the requests of the management network that set, withdraw or clear them, and a tenant key
appears only by KEY_LOAD, whatever the command and the state; resets only take tenant keys away (R425).
Points that the spec leaves open are the model's choice: log entries 7 and 69. -/
def Obligations.KeysChangeOverTheNetwork : Prop :=
  ∀ (c : Instr) (s t : State), exec c s = .next t →
    (t.pitchKeys ≠ s.pitchKeys → (∃ i id slot key, c = .pitchKeySet i id slot key) ∨ ∃ i id slot, c = .pitchKeyWithdraw i id slot)
    ∧ (t.store.anchors ≠ s.store.anchors →
        (∃ i id slot role cert, c = .anchorSet i id slot role cert) ∨ ∃ i id slot, c = .anchorClear i id slot)
    ∧ (∀ n k, tget t.keys n = some k → tget s.keys n ≠ some k → ∃ i id slot owner key, c = .keyLoad i id slot owner key)

/-- The state after reset: every register at its Reset value, and the invariants hold. The values of what the spec gives no Reset value are
the model's choice (log entries 5, 6 and 7). -/
def Obligations.ResetState : Prop :=
  MemoriesWf State.reset ∧ ContextsWf State.reset ∧ DozeTimerRight State.reset ∧ State.reset.pending = []
    ∧ (∀ k, getR State.reset k = resetOf k) ∧ (∀ a, mget State.reset.near a = 0#8 ∧ mget State.reset.tileStore a = 0#8)

/-- The figure words of caller format 1: every figure that keeps the static rules has one 32-bit word, which decodes to it, and every word
that decodes is that of its figure, so that no bit is dropped and no Reserved bit passes. -/
def Obligations.FiguresRoundTrip : Prop :=
  (∀ f : Fig, f.ok = true → encodeFig f < 2 ^ 32 ∧ decodeFig (encodeFig f) = some f)
  ∧ (∀ (w : Nat) (f : Fig), decodeFig w = some f → f.ok = true ∧ encodeFig f = w)
end

