-- ==== Sys2Proof/Laws/Tbl.lean ====
section
/-! SUPPORT. Laws of the sparse tables and memories: what a read gives after an update, and that updates keep the
canonical form. -/

namespace Sys2Proof.Machine

variable {α : Type}

@[simp] theorem tget_nil (k : Nat) : tget ([] : Tbl α) k = none := rfl

theorem tget_cons (e : Nat × α) (t : Tbl α) (k : Nat) :
    tget (e :: t) k = if e.1 = k then some e.2 else tget t k := by
  unfold tget
  by_cases h : e.1 = k <;> simp [h]

theorem tget_tdel_same (t : Tbl α) (k : Nat) : tget (tdel t k) k = none := by
  induction t with
  | nil => rfl
  | cons e t ih =>
    by_cases h : e.1 = k
    · have : tdel (e :: t) k = tdel t k := by simp [tdel, h]
      rw [this, ih]
    · have : tdel (e :: t) k = e :: tdel t k := by simp [tdel, h]
      rw [this, tget_cons, if_neg h, ih]

theorem tget_tdel_ne (t : Tbl α) {j k : Nat} (h : j ≠ k) : tget (tdel t k) j = tget t j := by
  induction t with
  | nil => rfl
  | cons e t ih =>
    by_cases he : e.1 = k
    · have : tdel (e :: t) k = tdel t k := by simp [tdel, he]
      rw [this, ih, tget_cons, if_neg (by omega)]
    · have : tdel (e :: t) k = e :: tdel t k := by simp [tdel, he]
      rw [this, tget_cons, tget_cons, ih]

theorem tget_tins_same (t : Tbl α) (k : Nat) (v : α) (h : tget t k = none) : tget (tins k v t) k = some v := by
  induction t with
  | nil => simp [tins, tget_cons]
  | cons e t ih =>
    have he : e.1 ≠ k := by intro hc; simp [tget_cons, hc] at h
    have ht : tget t k = none := by simpa [tget_cons, he] using h
    unfold tins
    split
    · simp [tget_cons]
    · rw [tget_cons, if_neg he, ih ht]

theorem tget_tins_ne (t : Tbl α) {j k : Nat} (v : α) (h : j ≠ k) : tget (tins k v t) j = tget t j := by
  induction t with
  | nil => simp [tins, tget_cons, h.symm]
  | cons e t ih =>
    unfold tins
    split
    · rw [tget_cons]; simp [h.symm]
    · rw [tget_cons, tget_cons, ih]

@[simp] theorem tget_tput_same (t : Tbl α) (k : Nat) (v : α) : tget (tput t k v) k = some v :=
  tget_tins_same _ k v (tget_tdel_same t k)

theorem tget_tput_ne (t : Tbl α) {j k : Nat} (v : α) (h : j ≠ k) : tget (tput t k v) j = tget t j := by
  rw [tput, tget_tins_ne _ v h, tget_tdel_ne t h]

/-! ### The canonical form -/

theorem tsorted_cons (e : Nat × α) (t : Tbl α) : tsorted (e :: t) = (t.all (fun x => decide (e.1 < x.1)) && tsorted t) := rfl

theorem tsorted_filter (t : Tbl α) (p : Nat × α → Bool) (h : tsorted t = true) : tsorted (t.filter p) = true := by
  induction t with
  | nil => rfl
  | cons e t ih =>
    rw [tsorted_cons, Bool.and_eq_true] at h
    by_cases hp : p e
    · rw [List.filter_cons_of_pos hp, tsorted_cons, Bool.and_eq_true]
      refine ⟨?_, ih h.2⟩
      rw [List.all_eq_true] at h ⊢
      intro x hx; exact h.1 x (List.mem_filter.mp hx).1
    · rw [List.filter_cons_of_neg hp]; exact ih h.2

theorem tsorted_tdel (t : Tbl α) (k : Nat) (h : tsorted t = true) : tsorted (tdel t k) = true := tsorted_filter t _ h

theorem mem_tins (t : Tbl α) (k : Nat) (v : α) (x : Nat × α) : x ∈ tins k v t → x = (k, v) ∨ x ∈ t := by
  induction t with
  | nil => intro h; simpa [tins] using h
  | cons e t ih =>
    unfold tins
    split
    · intro h; simpa using h
    · intro h
      rcases List.mem_cons.mp h with h | h
      · exact .inr (by simp [h])
      · rcases ih h with h | h
        · exact .inl h
        · exact .inr (List.mem_cons_of_mem _ h)

theorem tsorted_tins (t : Tbl α) (k : Nat) (v : α) (h : tsorted t = true) (hk : ∀ x ∈ t, x.1 ≠ k) :
    tsorted (tins k v t) = true := by
  induction t with
  | nil => rfl
  | cons e t ih =>
    have h' := h
    rw [tsorted_cons, Bool.and_eq_true, List.all_eq_true] at h'
    unfold tins
    split
    · rename_i hlt
      rw [tsorted_cons, Bool.and_eq_true, List.all_eq_true]
      refine ⟨?_, h⟩
      intro x hx
      rcases List.mem_cons.mp hx with rfl | hx
      · simpa using hlt
      · have := h'.1 x hx; simp at this ⊢; omega
    · rename_i hlt
      rw [tsorted_cons, Bool.and_eq_true, List.all_eq_true]
      refine ⟨?_, ih h'.2 (fun x hx => hk x (List.mem_cons_of_mem _ hx))⟩
      intro x hx
      have hne := hk e (by simp)
      rcases mem_tins t k v x hx with rfl | hx
      · simp; omega
      · exact h'.1 x hx

theorem tsorted_tput (t : Tbl α) (k : Nat) (v : α) (h : tsorted t = true) : tsorted (tput t k v) = true := by
  refine tsorted_tins _ k v (tsorted_tdel t k h) ?_
  intro x hx
  have := (List.mem_filter.mp hx).2
  simpa using this

/-! ### Memories -/

theorem mget_mput (m : Tbl Byte) (a x : Nat) (b : Byte) : mget (mput m a b) x = if x = a then b else mget m x := by
  unfold mget mput tgetD
  by_cases h : x = a
  · subst h
    split
    · rename_i hb; simp [tget_tdel_same, hb]
    · simp
  · rw [if_neg h]
    split
    · rw [tget_tdel_ne m h]
    · rw [tget_tput_ne m b h]

theorem wf_mput (m : Tbl Byte) (a : Nat) (b : Byte) (h : Memory.wf m = true) : Memory.wf (mput m a b) = true := by
  rw [Memory.wf, Bool.and_eq_true, List.all_eq_true] at h ⊢
  unfold mput
  split
  · refine ⟨tsorted_tdel m a h.1, ?_⟩
    intro x hx; exact h.2 x (List.mem_filter.mp hx).1
  · rename_i hb
    refine ⟨tsorted_tput m a b h.1, ?_⟩
    intro x hx
    rcases mem_tins _ a b x hx with rfl | hx
    · simpa using hb
    · exact h.2 x (List.mem_filter.mp hx).1

theorem wf_mwrite (m : Tbl Byte) (a : Nat) (bs : Bytes) (h : Memory.wf m = true) : Memory.wf (mwrite m a bs) = true := by
  induction bs generalizing m a with
  | nil => exact h
  | cons b bs ih => exact ih _ _ (wf_mput m a b h)

theorem wf_mzero (m : Tbl Byte) (a n : Nat) (h : Memory.wf m = true) : Memory.wf (mzero m a n) = true := by
  rw [Memory.wf, Bool.and_eq_true, List.all_eq_true] at h ⊢
  refine ⟨tsorted_filter m _ h.1, ?_⟩
  intro x hx; exact h.2 x (List.mem_filter.mp hx).1

/-- A write leaves every byte outside it as it was. -/
theorem mget_mwrite_out (m : Tbl Byte) (a x : Nat) (bs : Bytes) (h : x < a ∨ a + bs.length ≤ x) :
    mget (mwrite m a bs) x = mget m x := by
  induction bs generalizing m a with
  | nil => rfl
  | cons b bs ih =>
    simp only [List.length_cons] at h
    rw [mwrite, ih _ _ (by omega), mget_mput, if_neg (by omega)]

/-- A read inside a write gives the byte written. -/
theorem mget_mwrite_in (m : Tbl Byte) (a x : Nat) (bs : Bytes) (h : x < bs.length) :
    mget (mwrite m a bs) (a + x) = bs[x] := by
  induction bs generalizing m a x with
  | nil => simp at h
  | cons b bs ih =>
    rw [mwrite]
    cases x with
    | zero => rw [mget_mwrite_out _ _ _ _ (by simp), mget_mput]; simp
    | succ x =>
      have := ih (mput m a b) (a + 1) x (by simpa using h)
      rw [show a + (x + 1) = a + 1 + x by omega, this]; simp

end Sys2Proof.Machine
end

