-- ==== Sys2Proof/Laws/State.lean ====
section
/-! SUPPORT. What the shared updates of State leave alone: one lemma per field per update, and the registers after an
update. The field operations on registers rewrite to `setR`. -/

namespace Sys2Proof.Machine

@[simp] theorem setF_eq (s : State) (k hi lo v : Nat) : setF s k hi lo v = setR s k (setBits (getR s k) hi lo v) := rfl
@[simp] theorem setB_eq (s : State) (k b : Nat) (v : Bool) :
    setB s k b v = setR s k (setBits (getR s k) b b (if v then 1 else 0)) := rfl
@[simp] theorem orR_eq (s : State) (k m : Nat) : orR s k m = setR s k (getR s k ||| m) := rfl
@[simp] theorem addR_eq (s : State) (k n : Nat) : addR s k n = setR s k (getR s k + n) := rfl
@[simp] theorem satR_eq (s : State) (k n : Nat) : satR s k n = setR s k (min (getR s k + n) 0xFFFFFFFF) := rfl
@[simp] theorem maxR_eq (s : State) (k n : Nat) : maxR s k n = setR s k (max (getR s k) n) := rfl

/-! ### `setR` -/

@[simp] theorem setR_pending (s : State) (k v : Nat) : (setR s k v).pending = s.pending := rfl
@[simp] theorem setR_freeCtr (s : State) (k v : Nat) : (setR s k v).freeCtr = s.freeCtr := rfl
@[simp] theorem setR_out (s : State) (k v : Nat) : (setR s k v).out = s.out := rfl
@[simp] theorem setR_timeBase (s : State) (k v : Nat) : (setR s k v).timeBase = s.timeBase := rfl
@[simp] theorem setR_cycle (s : State) (k v : Nat) : (setR s k v).cycle = s.cycle := rfl
@[simp] theorem setR_latch (s : State) (k v : Nat) : (setR s k v).latch = s.latch := rfl
@[simp] theorem setR_held (s : State) (k v : Nat) : (setR s k v).held = s.held := rfl
@[simp] theorem setR_host (s : State) (k v : Nat) : (setR s k v).host = s.host := rfl
@[simp] theorem setR_hostDead (s : State) (k v : Nat) : (setR s k v).hostDead = s.hostDead := rfl
@[simp] theorem setR_pba (s : State) (k v : Nat) : (setR s k v).pba = s.pba := rfl
@[simp] theorem setR_msixOff (s : State) (k v : Nat) : (setR s k v).msixOff = s.msixOff := rfl
@[simp] theorem setR_vfEnable (s : State) (k v : Nat) : (setR s k v).vfEnable = s.vfEnable := rfl
@[simp] theorem setR_linkUp (s : State) (k v : Nat) : (setR s k v).linkUp = s.linkUp := rfl
@[simp] theorem setR_pins (s : State) (k v : Nat) : (setR s k v).pins = s.pins := rfl
@[simp] theorem setR_power (s : State) (k v : Nat) : (setR s k v).power = s.power := rfl
@[simp] theorem setR_start (s : State) (k v : Nat) : (setR s k v).start = s.start := rfl
@[simp] theorem setR_faultSeq (s : State) (k v : Nat) : (setR s k v).faultSeq = s.faultSeq := rfl
@[simp] theorem setR_qps (s : State) (k v : Nat) : (setR s k v).qps = s.qps := rfl
@[simp] theorem setR_taken (s : State) (k v : Nat) : (setR s k v).taken = s.taken := rfl
@[simp] theorem setR_owed (s : State) (k v : Nat) : (setR s k v).owed = s.owed := rfl
@[simp] theorem setR_ctxFn (s : State) (k v : Nat) : (setR s k v).ctxFn = s.ctxFn := rfl
@[simp] theorem setR_chanFn (s : State) (k v : Nat) : (setR s k v).chanFn = s.chanFn := rfl
@[simp] theorem setR_sample (s : State) (k v : Nat) : (setR s k v).sample = s.sample := rfl
@[simp] theorem setR_siteMap (s : State) (k v : Nat) : (setR s k v).siteMap = s.siteMap := rfl
@[simp] theorem setR_diesOn (s : State) (k v : Nat) : (setR s k v).diesOn = s.diesOn := rfl
@[simp] theorem setR_ports (s : State) (k v : Nat) : (setR s k v).ports = s.ports := rfl
@[simp] theorem setR_bar2q (s : State) (k v : Nat) : (setR s k v).bar2q = s.bar2q := rfl
@[simp] theorem setR_ctxs (s : State) (k v : Nat) : (setR s k v).ctxs = s.ctxs := rfl
@[simp] theorem setR_sites (s : State) (k v : Nat) : (setR s k v).sites = s.sites := rfl
@[simp] theorem setR_mesh (s : State) (k v : Nat) : (setR s k v).mesh = s.mesh := rfl
@[simp] theorem setR_loads (s : State) (k v : Nat) : (setR s k v).loads = s.loads := rfl
@[simp] theorem setR_loading (s : State) (k v : Nat) : (setR s k v).loading = s.loading := rfl
@[simp] theorem setR_tileStore (s : State) (k v : Nat) : (setR s k v).tileStore = s.tileStore := rfl
@[simp] theorem setR_errs (s : State) (k v : Nat) : (setR s k v).errs = s.errs := rfl
@[simp] theorem setR_near (s : State) (k v : Nat) : (setR s k v).near = s.near := rfl
@[simp] theorem setR_poison (s : State) (k v : Nat) : (setR s k v).poison = s.poison := rfl
@[simp] theorem setR_farPoison (s : State) (k v : Nat) : (setR s k v).farPoison = s.farPoison := rfl
@[simp] theorem setR_farUnits (s : State) (k v : Nat) : (setR s k v).farUnits = s.farUnits := rfl
@[simp] theorem setR_softRows (s : State) (k v : Nat) : (setR s k v).softRows = s.softRows := rfl
@[simp] theorem setR_granOwner (s : State) (k v : Nat) : (setR s k v).granOwner = s.granOwner := rfl
@[simp] theorem setR_objs (s : State) (k v : Nat) : (setR s k v).objs = s.objs := rfl
@[simp] theorem setR_ptab (s : State) (k v : Nat) : (setR s k v).ptab = s.ptab := rfl
@[simp] theorem setR_places (s : State) (k v : Nat) : (setR s k v).places = s.places := rfl
@[simp] theorem setR_farPool (s : State) (k v : Nat) : (setR s k v).farPool = s.farPool := rfl
@[simp] theorem setR_uns (s : State) (k v : Nat) : (setR s k v).uns = s.uns := rfl
@[simp] theorem setR_nextUns (s : State) (k v : Nat) : (setR s k v).nextUns = s.nextUns := rfl
@[simp] theorem setR_dmas (s : State) (k v : Nat) : (setR s k v).dmas = s.dmas := rfl
@[simp] theorem setR_runs (s : State) (k v : Nat) : (setR s k v).runs = s.runs := rfl
@[simp] theorem setR_lastUnit (s : State) (k v : Nat) : (setR s k v).lastUnit = s.lastUnit := rfl
@[simp] theorem setR_salts (s : State) (k v : Nat) : (setR s k v).salts = s.salts := rfl
@[simp] theorem setR_keys (s : State) (k v : Nat) : (setR s k v).keys = s.keys := rfl
@[simp] theorem setR_drbg (s : State) (k v : Nat) : (setR s k v).drbg = s.drbg := rfl
@[simp] theorem setR_drbgReqs (s : State) (k v : Nat) : (setR s k v).drbgReqs = s.drbgReqs := rfl
@[simp] theorem setR_drbgAt (s : State) (k v : Nat) : (setR s k v).drbgAt = s.drbgAt := rfl
@[simp] theorem setR_pitchKeys (s : State) (k v : Nat) : (setR s k v).pitchKeys = s.pitchKeys := rfl
@[simp] theorem setR_fab (s : State) (k v : Nat) : (setR s k v).fab = s.fab := rfl
@[simp] theorem setR_train (s : State) (k v : Nat) : (setR s k v).train = s.train := rfl
@[simp] theorem setR_endings (s : State) (k v : Nat) : (setR s k v).endings = s.endings := rfl
@[simp] theorem setR_serves (s : State) (k v : Nat) : (setR s k v).serves = s.serves := rfl
@[simp] theorem setR_chans (s : State) (k v : Nat) : (setR s k v).chans = s.chans := rfl
@[simp] theorem setR_engines (s : State) (k v : Nat) : (setR s k v).engines = s.engines := rfl
@[simp] theorem setR_decks (s : State) (k v : Nat) : (setR s k v).decks = s.decks := rfl
@[simp] theorem setR_instCmd (s : State) (k v : Nat) : (setR s k v).instCmd = s.instCmd := rfl
@[simp] theorem setR_spills (s : State) (k v : Nat) : (setR s k v).spills = s.spills := rfl
@[simp] theorem setR_frozen (s : State) (k v : Nat) : (setR s k v).frozen = s.frozen := rfl
@[simp] theorem setR_sessions (s : State) (k v : Nat) : (setR s k v).sessions = s.sessions := rfl
@[simp] theorem setR_store (s : State) (k v : Nat) : (setR s k v).store = s.store := rfl
@[simp] theorem setR_fw (s : State) (k v : Nat) : (setR s k v).fw = s.fw := rfl
@[simp] theorem setR_tray (s : State) (k v : Nat) : (setR s k v).tray = s.tray := rfl
@[simp] theorem setR_waiting (s : State) (k v : Nat) : (setR s k v).waiting = s.waiting := rfl

/-! ### `emit` -/

@[simp] theorem emit_pending (s : State) (x : Output) : (emit s x).pending = s.pending := rfl
@[simp] theorem emit_freeCtr (s : State) (x : Output) : (emit s x).freeCtr = s.freeCtr := rfl
@[simp] theorem emit_timeBase (s : State) (x : Output) : (emit s x).timeBase = s.timeBase := rfl
@[simp] theorem emit_cycle (s : State) (x : Output) : (emit s x).cycle = s.cycle := rfl
@[simp] theorem emit_regs (s : State) (x : Output) : (emit s x).regs = s.regs := rfl
@[simp] theorem emit_latch (s : State) (x : Output) : (emit s x).latch = s.latch := rfl
@[simp] theorem emit_held (s : State) (x : Output) : (emit s x).held = s.held := rfl
@[simp] theorem emit_host (s : State) (x : Output) : (emit s x).host = s.host := rfl
@[simp] theorem emit_hostDead (s : State) (x : Output) : (emit s x).hostDead = s.hostDead := rfl
@[simp] theorem emit_pba (s : State) (x : Output) : (emit s x).pba = s.pba := rfl
@[simp] theorem emit_msixOff (s : State) (x : Output) : (emit s x).msixOff = s.msixOff := rfl
@[simp] theorem emit_vfEnable (s : State) (x : Output) : (emit s x).vfEnable = s.vfEnable := rfl
@[simp] theorem emit_linkUp (s : State) (x : Output) : (emit s x).linkUp = s.linkUp := rfl
@[simp] theorem emit_pins (s : State) (x : Output) : (emit s x).pins = s.pins := rfl
@[simp] theorem emit_power (s : State) (x : Output) : (emit s x).power = s.power := rfl
@[simp] theorem emit_start (s : State) (x : Output) : (emit s x).start = s.start := rfl
@[simp] theorem emit_faultSeq (s : State) (x : Output) : (emit s x).faultSeq = s.faultSeq := rfl
@[simp] theorem emit_qps (s : State) (x : Output) : (emit s x).qps = s.qps := rfl
@[simp] theorem emit_taken (s : State) (x : Output) : (emit s x).taken = s.taken := rfl
@[simp] theorem emit_owed (s : State) (x : Output) : (emit s x).owed = s.owed := rfl
@[simp] theorem emit_ctxFn (s : State) (x : Output) : (emit s x).ctxFn = s.ctxFn := rfl
@[simp] theorem emit_chanFn (s : State) (x : Output) : (emit s x).chanFn = s.chanFn := rfl
@[simp] theorem emit_sample (s : State) (x : Output) : (emit s x).sample = s.sample := rfl
@[simp] theorem emit_siteMap (s : State) (x : Output) : (emit s x).siteMap = s.siteMap := rfl
@[simp] theorem emit_diesOn (s : State) (x : Output) : (emit s x).diesOn = s.diesOn := rfl
@[simp] theorem emit_ports (s : State) (x : Output) : (emit s x).ports = s.ports := rfl
@[simp] theorem emit_bar2q (s : State) (x : Output) : (emit s x).bar2q = s.bar2q := rfl
@[simp] theorem emit_ctxs (s : State) (x : Output) : (emit s x).ctxs = s.ctxs := rfl
@[simp] theorem emit_sites (s : State) (x : Output) : (emit s x).sites = s.sites := rfl
@[simp] theorem emit_mesh (s : State) (x : Output) : (emit s x).mesh = s.mesh := rfl
@[simp] theorem emit_loads (s : State) (x : Output) : (emit s x).loads = s.loads := rfl
@[simp] theorem emit_loading (s : State) (x : Output) : (emit s x).loading = s.loading := rfl
@[simp] theorem emit_tileStore (s : State) (x : Output) : (emit s x).tileStore = s.tileStore := rfl
@[simp] theorem emit_errs (s : State) (x : Output) : (emit s x).errs = s.errs := rfl
@[simp] theorem emit_near (s : State) (x : Output) : (emit s x).near = s.near := rfl
@[simp] theorem emit_poison (s : State) (x : Output) : (emit s x).poison = s.poison := rfl
@[simp] theorem emit_farPoison (s : State) (x : Output) : (emit s x).farPoison = s.farPoison := rfl
@[simp] theorem emit_farUnits (s : State) (x : Output) : (emit s x).farUnits = s.farUnits := rfl
@[simp] theorem emit_softRows (s : State) (x : Output) : (emit s x).softRows = s.softRows := rfl
@[simp] theorem emit_granOwner (s : State) (x : Output) : (emit s x).granOwner = s.granOwner := rfl
@[simp] theorem emit_objs (s : State) (x : Output) : (emit s x).objs = s.objs := rfl
@[simp] theorem emit_ptab (s : State) (x : Output) : (emit s x).ptab = s.ptab := rfl
@[simp] theorem emit_places (s : State) (x : Output) : (emit s x).places = s.places := rfl
@[simp] theorem emit_farPool (s : State) (x : Output) : (emit s x).farPool = s.farPool := rfl
@[simp] theorem emit_uns (s : State) (x : Output) : (emit s x).uns = s.uns := rfl
@[simp] theorem emit_nextUns (s : State) (x : Output) : (emit s x).nextUns = s.nextUns := rfl
@[simp] theorem emit_dmas (s : State) (x : Output) : (emit s x).dmas = s.dmas := rfl
@[simp] theorem emit_runs (s : State) (x : Output) : (emit s x).runs = s.runs := rfl
@[simp] theorem emit_lastUnit (s : State) (x : Output) : (emit s x).lastUnit = s.lastUnit := rfl
@[simp] theorem emit_salts (s : State) (x : Output) : (emit s x).salts = s.salts := rfl
@[simp] theorem emit_keys (s : State) (x : Output) : (emit s x).keys = s.keys := rfl
@[simp] theorem emit_drbg (s : State) (x : Output) : (emit s x).drbg = s.drbg := rfl
@[simp] theorem emit_drbgReqs (s : State) (x : Output) : (emit s x).drbgReqs = s.drbgReqs := rfl
@[simp] theorem emit_drbgAt (s : State) (x : Output) : (emit s x).drbgAt = s.drbgAt := rfl
@[simp] theorem emit_pitchKeys (s : State) (x : Output) : (emit s x).pitchKeys = s.pitchKeys := rfl
@[simp] theorem emit_fab (s : State) (x : Output) : (emit s x).fab = s.fab := rfl
@[simp] theorem emit_train (s : State) (x : Output) : (emit s x).train = s.train := rfl
@[simp] theorem emit_endings (s : State) (x : Output) : (emit s x).endings = s.endings := rfl
@[simp] theorem emit_serves (s : State) (x : Output) : (emit s x).serves = s.serves := rfl
@[simp] theorem emit_chans (s : State) (x : Output) : (emit s x).chans = s.chans := rfl
@[simp] theorem emit_engines (s : State) (x : Output) : (emit s x).engines = s.engines := rfl
@[simp] theorem emit_decks (s : State) (x : Output) : (emit s x).decks = s.decks := rfl
@[simp] theorem emit_instCmd (s : State) (x : Output) : (emit s x).instCmd = s.instCmd := rfl
@[simp] theorem emit_spills (s : State) (x : Output) : (emit s x).spills = s.spills := rfl
@[simp] theorem emit_frozen (s : State) (x : Output) : (emit s x).frozen = s.frozen := rfl
@[simp] theorem emit_sessions (s : State) (x : Output) : (emit s x).sessions = s.sessions := rfl
@[simp] theorem emit_store (s : State) (x : Output) : (emit s x).store = s.store := rfl
@[simp] theorem emit_fw (s : State) (x : Output) : (emit s x).fw = s.fw := rfl
@[simp] theorem emit_tray (s : State) (x : Output) : (emit s x).tray = s.tray := rfl
@[simp] theorem emit_waiting (s : State) (x : Output) : (emit s x).waiting = s.waiting := rfl
@[simp] theorem emit_out (s : State) (x : Output) : (emit s x).out = s.out ++ [x] := rfl
@[simp] theorem getR_emit (s : State) (x : Output) (k : Nat) : getR (emit s x) k = getR s k := rfl

/-! ### `settle` -/

/-- A message changes `out` and `pba` alone. -/
theorem msixTo_eq (s : State) (f v : Nat) : ∃ p o, msixTo s f v = { s with pba := p, out := o } := by
  unfold msixTo
  split
  · exact ⟨s.pba, s.out, rfl⟩
  · split
    · exact ⟨_, s.out, rfl⟩
    · exact ⟨s.pba, _, rfl⟩

theorem groupMsgs_eq (f : Nat) (gs : List Nat) (s : State) :
    ∃ p o, gs.foldl (groupMsg f) s = { s with pba := p, out := o } := by
  induction gs generalizing s with
  | nil => exact ⟨s.pba, s.out, rfl⟩
  | cons g gs ih =>
    obtain ⟨p, o, h⟩ := msixTo_eq s f (groupVector s f g)
    obtain ⟨q, r, h2⟩ := ih { s with pba := p, out := o }
    exact ⟨q, r, by rw [List.foldl_cons, groupMsg, h, h2]⟩

theorem fnMsgs_fold_eq (s t u : State) (fs : List Nat) :
    ∃ p o, fs.foldl (fnMsgs s t) u = { u with pba := p, out := o } := by
  induction fs generalizing u with
  | nil => exact ⟨u.pba, u.out, rfl⟩
  | cons f fs ih =>
    obtain ⟨p, o, h⟩ := groupMsgs_eq f _ u
    obtain ⟨q, r, h2⟩ := ih { u with pba := p, out := o }
    refine ⟨q, r, ?_⟩
    rw [List.foldl_cons, fnMsgs, h, h2]

/-- All that `settle` can change. -/
theorem settle_eq (s t : State) :
    ∃ p o q, settle s t = { t with pba := p, out := o, power := { t.power with quietSince := q } } := by
  obtain ⟨p, o, h⟩ := fnMsgs_fold_eq s t t (liveFns t)
  unfold settle dozeTimer
  rw [h]
  split
  · exact ⟨p, o, t.power.quietSince, rfl⟩
  · exact ⟨p, o, _, rfl⟩

@[simp] theorem settle_pending (s t : State) : (settle s t).pending = t.pending := by
  obtain ⟨p, o, q, h⟩ := settle_eq s t; rw [h]
@[simp] theorem settle_freeCtr (s t : State) : (settle s t).freeCtr = t.freeCtr := by
  obtain ⟨p, o, q, h⟩ := settle_eq s t; rw [h]
@[simp] theorem settle_timeBase (s t : State) : (settle s t).timeBase = t.timeBase := by
  obtain ⟨p, o, q, h⟩ := settle_eq s t; rw [h]
@[simp] theorem settle_cycle (s t : State) : (settle s t).cycle = t.cycle := by
  obtain ⟨p, o, q, h⟩ := settle_eq s t; rw [h]
@[simp] theorem settle_regs (s t : State) : (settle s t).regs = t.regs := by
  obtain ⟨p, o, q, h⟩ := settle_eq s t; rw [h]
@[simp] theorem settle_latch (s t : State) : (settle s t).latch = t.latch := by
  obtain ⟨p, o, q, h⟩ := settle_eq s t; rw [h]
@[simp] theorem settle_held (s t : State) : (settle s t).held = t.held := by
  obtain ⟨p, o, q, h⟩ := settle_eq s t; rw [h]
@[simp] theorem settle_host (s t : State) : (settle s t).host = t.host := by
  obtain ⟨p, o, q, h⟩ := settle_eq s t; rw [h]
@[simp] theorem settle_hostDead (s t : State) : (settle s t).hostDead = t.hostDead := by
  obtain ⟨p, o, q, h⟩ := settle_eq s t; rw [h]
@[simp] theorem settle_msixOff (s t : State) : (settle s t).msixOff = t.msixOff := by
  obtain ⟨p, o, q, h⟩ := settle_eq s t; rw [h]
@[simp] theorem settle_vfEnable (s t : State) : (settle s t).vfEnable = t.vfEnable := by
  obtain ⟨p, o, q, h⟩ := settle_eq s t; rw [h]
@[simp] theorem settle_linkUp (s t : State) : (settle s t).linkUp = t.linkUp := by
  obtain ⟨p, o, q, h⟩ := settle_eq s t; rw [h]
@[simp] theorem settle_pins (s t : State) : (settle s t).pins = t.pins := by
  obtain ⟨p, o, q, h⟩ := settle_eq s t; rw [h]
@[simp] theorem settle_start (s t : State) : (settle s t).start = t.start := by
  obtain ⟨p, o, q, h⟩ := settle_eq s t; rw [h]
@[simp] theorem settle_faultSeq (s t : State) : (settle s t).faultSeq = t.faultSeq := by
  obtain ⟨p, o, q, h⟩ := settle_eq s t; rw [h]
@[simp] theorem settle_qps (s t : State) : (settle s t).qps = t.qps := by
  obtain ⟨p, o, q, h⟩ := settle_eq s t; rw [h]
@[simp] theorem settle_taken (s t : State) : (settle s t).taken = t.taken := by
  obtain ⟨p, o, q, h⟩ := settle_eq s t; rw [h]
@[simp] theorem settle_owed (s t : State) : (settle s t).owed = t.owed := by
  obtain ⟨p, o, q, h⟩ := settle_eq s t; rw [h]
@[simp] theorem settle_ctxFn (s t : State) : (settle s t).ctxFn = t.ctxFn := by
  obtain ⟨p, o, q, h⟩ := settle_eq s t; rw [h]
@[simp] theorem settle_chanFn (s t : State) : (settle s t).chanFn = t.chanFn := by
  obtain ⟨p, o, q, h⟩ := settle_eq s t; rw [h]
@[simp] theorem settle_sample (s t : State) : (settle s t).sample = t.sample := by
  obtain ⟨p, o, q, h⟩ := settle_eq s t; rw [h]
@[simp] theorem settle_siteMap (s t : State) : (settle s t).siteMap = t.siteMap := by
  obtain ⟨p, o, q, h⟩ := settle_eq s t; rw [h]
@[simp] theorem settle_diesOn (s t : State) : (settle s t).diesOn = t.diesOn := by
  obtain ⟨p, o, q, h⟩ := settle_eq s t; rw [h]
@[simp] theorem settle_ports (s t : State) : (settle s t).ports = t.ports := by
  obtain ⟨p, o, q, h⟩ := settle_eq s t; rw [h]
@[simp] theorem settle_bar2q (s t : State) : (settle s t).bar2q = t.bar2q := by
  obtain ⟨p, o, q, h⟩ := settle_eq s t; rw [h]
@[simp] theorem settle_ctxs (s t : State) : (settle s t).ctxs = t.ctxs := by
  obtain ⟨p, o, q, h⟩ := settle_eq s t; rw [h]
@[simp] theorem settle_sites (s t : State) : (settle s t).sites = t.sites := by
  obtain ⟨p, o, q, h⟩ := settle_eq s t; rw [h]
@[simp] theorem settle_mesh (s t : State) : (settle s t).mesh = t.mesh := by
  obtain ⟨p, o, q, h⟩ := settle_eq s t; rw [h]
@[simp] theorem settle_loads (s t : State) : (settle s t).loads = t.loads := by
  obtain ⟨p, o, q, h⟩ := settle_eq s t; rw [h]
@[simp] theorem settle_loading (s t : State) : (settle s t).loading = t.loading := by
  obtain ⟨p, o, q, h⟩ := settle_eq s t; rw [h]
@[simp] theorem settle_tileStore (s t : State) : (settle s t).tileStore = t.tileStore := by
  obtain ⟨p, o, q, h⟩ := settle_eq s t; rw [h]
@[simp] theorem settle_errs (s t : State) : (settle s t).errs = t.errs := by
  obtain ⟨p, o, q, h⟩ := settle_eq s t; rw [h]
@[simp] theorem settle_near (s t : State) : (settle s t).near = t.near := by
  obtain ⟨p, o, q, h⟩ := settle_eq s t; rw [h]
@[simp] theorem settle_poison (s t : State) : (settle s t).poison = t.poison := by
  obtain ⟨p, o, q, h⟩ := settle_eq s t; rw [h]
@[simp] theorem settle_farPoison (s t : State) : (settle s t).farPoison = t.farPoison := by
  obtain ⟨p, o, q, h⟩ := settle_eq s t; rw [h]
@[simp] theorem settle_farUnits (s t : State) : (settle s t).farUnits = t.farUnits := by
  obtain ⟨p, o, q, h⟩ := settle_eq s t; rw [h]
@[simp] theorem settle_softRows (s t : State) : (settle s t).softRows = t.softRows := by
  obtain ⟨p, o, q, h⟩ := settle_eq s t; rw [h]
@[simp] theorem settle_granOwner (s t : State) : (settle s t).granOwner = t.granOwner := by
  obtain ⟨p, o, q, h⟩ := settle_eq s t; rw [h]
@[simp] theorem settle_objs (s t : State) : (settle s t).objs = t.objs := by
  obtain ⟨p, o, q, h⟩ := settle_eq s t; rw [h]
@[simp] theorem settle_ptab (s t : State) : (settle s t).ptab = t.ptab := by
  obtain ⟨p, o, q, h⟩ := settle_eq s t; rw [h]
@[simp] theorem settle_places (s t : State) : (settle s t).places = t.places := by
  obtain ⟨p, o, q, h⟩ := settle_eq s t; rw [h]
@[simp] theorem settle_farPool (s t : State) : (settle s t).farPool = t.farPool := by
  obtain ⟨p, o, q, h⟩ := settle_eq s t; rw [h]
@[simp] theorem settle_uns (s t : State) : (settle s t).uns = t.uns := by
  obtain ⟨p, o, q, h⟩ := settle_eq s t; rw [h]
@[simp] theorem settle_nextUns (s t : State) : (settle s t).nextUns = t.nextUns := by
  obtain ⟨p, o, q, h⟩ := settle_eq s t; rw [h]
@[simp] theorem settle_dmas (s t : State) : (settle s t).dmas = t.dmas := by
  obtain ⟨p, o, q, h⟩ := settle_eq s t; rw [h]
@[simp] theorem settle_runs (s t : State) : (settle s t).runs = t.runs := by
  obtain ⟨p, o, q, h⟩ := settle_eq s t; rw [h]
@[simp] theorem settle_lastUnit (s t : State) : (settle s t).lastUnit = t.lastUnit := by
  obtain ⟨p, o, q, h⟩ := settle_eq s t; rw [h]
@[simp] theorem settle_salts (s t : State) : (settle s t).salts = t.salts := by
  obtain ⟨p, o, q, h⟩ := settle_eq s t; rw [h]
@[simp] theorem settle_keys (s t : State) : (settle s t).keys = t.keys := by
  obtain ⟨p, o, q, h⟩ := settle_eq s t; rw [h]
@[simp] theorem settle_drbg (s t : State) : (settle s t).drbg = t.drbg := by
  obtain ⟨p, o, q, h⟩ := settle_eq s t; rw [h]
@[simp] theorem settle_drbgReqs (s t : State) : (settle s t).drbgReqs = t.drbgReqs := by
  obtain ⟨p, o, q, h⟩ := settle_eq s t; rw [h]
@[simp] theorem settle_drbgAt (s t : State) : (settle s t).drbgAt = t.drbgAt := by
  obtain ⟨p, o, q, h⟩ := settle_eq s t; rw [h]
@[simp] theorem settle_pitchKeys (s t : State) : (settle s t).pitchKeys = t.pitchKeys := by
  obtain ⟨p, o, q, h⟩ := settle_eq s t; rw [h]
@[simp] theorem settle_fab (s t : State) : (settle s t).fab = t.fab := by
  obtain ⟨p, o, q, h⟩ := settle_eq s t; rw [h]
@[simp] theorem settle_train (s t : State) : (settle s t).train = t.train := by
  obtain ⟨p, o, q, h⟩ := settle_eq s t; rw [h]
@[simp] theorem settle_endings (s t : State) : (settle s t).endings = t.endings := by
  obtain ⟨p, o, q, h⟩ := settle_eq s t; rw [h]
@[simp] theorem settle_serves (s t : State) : (settle s t).serves = t.serves := by
  obtain ⟨p, o, q, h⟩ := settle_eq s t; rw [h]
@[simp] theorem settle_chans (s t : State) : (settle s t).chans = t.chans := by
  obtain ⟨p, o, q, h⟩ := settle_eq s t; rw [h]
@[simp] theorem settle_engines (s t : State) : (settle s t).engines = t.engines := by
  obtain ⟨p, o, q, h⟩ := settle_eq s t; rw [h]
@[simp] theorem settle_decks (s t : State) : (settle s t).decks = t.decks := by
  obtain ⟨p, o, q, h⟩ := settle_eq s t; rw [h]
@[simp] theorem settle_instCmd (s t : State) : (settle s t).instCmd = t.instCmd := by
  obtain ⟨p, o, q, h⟩ := settle_eq s t; rw [h]
@[simp] theorem settle_spills (s t : State) : (settle s t).spills = t.spills := by
  obtain ⟨p, o, q, h⟩ := settle_eq s t; rw [h]
@[simp] theorem settle_frozen (s t : State) : (settle s t).frozen = t.frozen := by
  obtain ⟨p, o, q, h⟩ := settle_eq s t; rw [h]
@[simp] theorem settle_sessions (s t : State) : (settle s t).sessions = t.sessions := by
  obtain ⟨p, o, q, h⟩ := settle_eq s t; rw [h]
@[simp] theorem settle_store (s t : State) : (settle s t).store = t.store := by
  obtain ⟨p, o, q, h⟩ := settle_eq s t; rw [h]
@[simp] theorem settle_fw (s t : State) : (settle s t).fw = t.fw := by
  obtain ⟨p, o, q, h⟩ := settle_eq s t; rw [h]
@[simp] theorem settle_tray (s t : State) : (settle s t).tray = t.tray := by
  obtain ⟨p, o, q, h⟩ := settle_eq s t; rw [h]
@[simp] theorem settle_waiting (s t : State) : (settle s t).waiting = t.waiting := by
  obtain ⟨p, o, q, h⟩ := settle_eq s t; rw [h]
@[simp] theorem settle_power_rest (s t : State) : (settle s t).power.rest = t.power.rest := by
  obtain ⟨p, o, q, h⟩ := settle_eq s t; rw [h]
@[simp] theorem settle_power_restAt (s t : State) : (settle s t).power.restAt = t.power.restAt := by
  obtain ⟨p, o, q, h⟩ := settle_eq s t; rw [h]
@[simp] theorem settle_power_dip (s t : State) : (settle s t).power.dip = t.power.dip := by
  obtain ⟨p, o, q, h⟩ := settle_eq s t; rw [h]
@[simp] theorem settle_power_slew (s t : State) : (settle s t).power.slew = t.power.slew := by
  obtain ⟨p, o, q, h⟩ := settle_eq s t; rw [h]
@[simp] theorem settle_power_nextTick (s t : State) : (settle s t).power.nextTick = t.power.nextTick := by
  obtain ⟨p, o, q, h⟩ := settle_eq s t; rw [h]
@[simp] theorem settle_power_hot (s t : State) : (settle s t).power.hot = t.power.hot := by
  obtain ⟨p, o, q, h⟩ := settle_eq s t; rw [h]
@[simp] theorem settle_power_overMs (s t : State) : (settle s t).power.overMs = t.power.overMs := by
  obtain ⟨p, o, q, h⟩ := settle_eq s t; rw [h]
@[simp] theorem settle_power_underMs (s t : State) : (settle s t).power.underMs = t.power.underMs := by
  obtain ⟨p, o, q, h⟩ := settle_eq s t; rw [h]
@[simp] theorem settle_power_msMean (s t : State) : (settle s t).power.msMean = t.power.msMean := by
  obtain ⟨p, o, q, h⟩ := settle_eq s t; rw [h]
@[simp] theorem settle_power_winSum (s t : State) : (settle s t).power.winSum = t.power.winSum := by
  obtain ⟨p, o, q, h⟩ := settle_eq s t; rw [h]
@[simp] theorem settle_power_winCount (s t : State) : (settle s t).power.winCount = t.power.winCount := by
  obtain ⟨p, o, q, h⟩ := settle_eq s t; rw [h]
@[simp] theorem settle_power_winMean (s t : State) : (settle s t).power.winMean = t.power.winMean := by
  obtain ⟨p, o, q, h⟩ := settle_eq s t; rw [h]
@[simp] theorem settle_power_allowance (s t : State) : (settle s t).power.allowance = t.power.allowance := by
  obtain ⟨p, o, q, h⟩ := settle_eq s t; rw [h]
@[simp] theorem settle_power_avsLimited (s t : State) : (settle s t).power.avsLimited = t.power.avsLimited := by
  obtain ⟨p, o, q, h⟩ := settle_eq s t; rw [h]
@[simp] theorem settle_power_saved (s t : State) : (settle s t).power.saved = t.power.saved := by
  obtain ⟨p, o, q, h⟩ := settle_eq s t; rw [h]
@[simp] theorem getR_settle (s t : State) (k : Nat) : getR (settle s t) k = getR t k := by
  simp [getR]

/-! ### The register file -/

theorem rowsOf_ok (k : Nat) :
    (rowsOf k).1.all (fun r => decide (r.reset < 2 ^ r.width) && (r.width == 32 || r.width == 64)) = true := by
  unfold rowsOf
  dsimp only
  repeat' split
  all_goals rfl

/-- Every register is 32 or 64 bits wide, and its reset value fits it. -/
theorem widthOf_cases (k : Nat) : (widthOf k = 32 ∨ widthOf k = 64) ∧ resetOf k < 2 ^ widthOf k := by
  have h := rowsOf_ok k
  rw [List.all_eq_true] at h
  have hr : rowAt k = (rowsOf k).1.find? (fun r => r.covers 0 (rowsOf k).2) := rfl
  cases hf : (rowsOf k).1.find? (fun r => r.covers 0 (rowsOf k).2) with
  | none => simp [widthOf, resetOf, hr, hf]
  | some r =>
    have := h r (List.mem_of_find?_eq_some hf)
    simp at this
    simp [widthOf, resetOf, hr, hf, this]

/-- A register after a write of a register: the value cut to its width where it is the same one. -/
theorem getR_setR (s : State) (k j v : Nat) :
    getR (setR s k v) j = if j = k then v % 2 ^ widthOf k else getR s j := by
  have hw := widthOf_cases k
  have hlt : v % 2 ^ widthOf k < 2 ^ 64 := by
    have : v % 2 ^ widthOf k < 2 ^ widthOf k := Nat.mod_lt _ (by positivity)
    rcases hw.1 with h | h <;> rw [h] at this ⊢ <;> omega
  unfold getR setR
  by_cases h : j = k
  · subst h
    by_cases hv : v % 2 ^ widthOf j = resetOf j
    · simp only [hv, if_true, tget_tdel_same, Option.map_none, Option.getD_none]
    · simp only [hv, if_false, tget_tput_same, Option.map_some, Option.getD_some, BitVec.toNat_ofNat, if_true]
      exact Nat.mod_eq_of_lt hlt
  · simp only [h, if_false]
    split
    · rw [tget_tdel_ne _ h]
    · rw [tget_tput_ne _ _ h]

@[simp] theorem getR_setR_same (s : State) (k v : Nat) : getR (setR s k v) k = v % 2 ^ widthOf k := by
  rw [getR_setR, if_pos rfl]

@[simp] theorem getR_setR_ne (s : State) {k j : Nat} (v : Nat) (h : j ≠ k) : getR (setR s k v) j = getR s j := by
  rw [getR_setR, if_neg h]

end Sys2Proof.Machine
end

