-- ==== Sys2Proof/Laws/Bits.lean ====
section
/-! SUPPORT. Fields of registers: the bits of `setBits`, and what a field and a bit read after a write of a register. -/

namespace Sys2Proof.Machine

theorem testBit_bitsOf (n hi lo j : Nat) : (bitsOf n hi lo).testBit j = (decide (j < hi + 1 - lo) && n.testBit (lo + j)) := by
  unfold bitsOf
  rw [Nat.testBit_mod_two_pow, Nat.testBit_div_two_pow, Nat.add_comm j lo]


theorem setBits_eq (old hi lo v : Nat) (h : lo ≤ hi) :
    setBits old hi lo v = old / 2 ^ (hi + 1) * 2 ^ (hi + 1) + (v % 2 ^ (hi + 1 - lo)) * 2 ^ lo + old % 2 ^ lo := by
  unfold setBits bitsOf
  have e : 2 ^ (hi + 1) = 2 ^ lo * 2 ^ (hi + 1 - lo) := by rw [← pow_add]; congr 1; omega
  have h1 : old / 2 ^ (hi + 1) = old / 2 ^ lo / 2 ^ (hi + 1 - lo) := by rw [e, Nat.div_div_eq_div_mul]
  have h2 := Nat.div_add_mod old (2 ^ lo)
  have h3 := Nat.div_add_mod (old / 2 ^ lo) (2 ^ (hi + 1 - lo))
  set a := old / 2 ^ lo / 2 ^ (hi + 1 - lo)
  set b := old / 2 ^ lo % 2 ^ (hi + 1 - lo)
  set c := old % 2 ^ lo
  set p := 2 ^ lo
  set q := 2 ^ (hi + 1 - lo)
  have h4 : old = a * (p * q) + b * p + c := by rw [← h2, ← h3]; ring
  rw [h1, e, h4]
  omega
theorem testBit_setBits (old hi lo v j : Nat) (h : lo ≤ hi) :
    (setBits old hi lo v).testBit j = if lo ≤ j ∧ j ≤ hi then v.testBit (j - lo) else old.testBit j := by
  rw [setBits_eq old hi lo v h]
  have e : old / 2 ^ (hi + 1) * 2 ^ (hi + 1) + v % 2 ^ (hi + 1 - lo) * 2 ^ lo + old % 2 ^ lo
      = 2 ^ lo * (2 ^ (hi + 1 - lo) * (old / 2 ^ (hi + 1)) + v % 2 ^ (hi + 1 - lo)) + old % 2 ^ lo := by
    have : 2 ^ (hi + 1) = 2 ^ lo * 2 ^ (hi + 1 - lo) := by rw [← pow_add]; congr 1; omega
    rw [this]; ring
  rw [e, Nat.testBit_two_pow_mul_add _ (Nat.mod_lt _ (by positivity)), Nat.testBit_mod_two_pow]
  by_cases h1 : j < lo
  · simp [h1, show ¬ lo ≤ j by omega]
  · rw [if_neg h1, Nat.testBit_two_pow_mul_add _ (Nat.mod_lt _ (by positivity)), Nat.testBit_mod_two_pow, Nat.testBit_div_two_pow]
    by_cases h2 : j ≤ hi
    · simp [show lo ≤ j by omega, h2, show j - lo < hi + 1 - lo by omega]
    · simp [h2, show ¬ j - lo < hi + 1 - lo by omega, show lo ≤ j by omega]
      congr 1; omega
theorem bitsOf_setBits_same (old hi lo v : Nat) (h : lo ≤ hi) : bitsOf (setBits old hi lo v) hi lo = v % 2 ^ (hi + 1 - lo) := by
  apply Nat.eq_of_testBit_eq
  intro j
  rw [testBit_bitsOf, testBit_setBits _ _ _ _ _ h, Nat.testBit_mod_two_pow]
  by_cases hj : j < hi + 1 - lo
  · simp [hj, show lo + j ≤ hi by omega]
  · simp [hj]
theorem bitsOf_setBits_ne (old hi lo v a b : Nat) (h : lo ≤ hi) (hd : a < lo ∨ hi < b) :
    bitsOf (setBits old hi lo v) a b = bitsOf old a b := by
  apply Nat.eq_of_testBit_eq
  intro j
  rw [testBit_bitsOf, testBit_bitsOf, testBit_setBits _ _ _ _ _ h]
  by_cases hj : j < a + 1 - b
  · rw [if_neg (by omega)]
  · simp [hj]
/-- Every register has at least 32 bits. -/
theorem widthOf_ge (k : Nat) : 32 ≤ widthOf k := by
  rcases (widthOf_cases k).1 with h | h <;> omega

theorem bitsOf_mod (n w hi lo : Nat) (h : hi < w) : bitsOf (n % 2 ^ w) hi lo = bitsOf n hi lo := by
  apply Nat.eq_of_testBit_eq
  intro j
  rw [testBit_bitsOf, testBit_bitsOf, Nat.testBit_mod_two_pow]
  by_cases hj : j < hi + 1 - lo
  · simp [hj, show lo + j < w by omega]
  · simp [hj]
@[simp] theorem fld_setR_same (s : State) (k v : Nat) {hi lo : Nat} (h : hi < 32) :
    fld (setR s k v) k hi lo = bitsOf v hi lo := by
  rw [fld, getR_setR_same]
  exact bitsOf_mod _ _ _ _ (lt_of_lt_of_le h (widthOf_ge k))

@[simp] theorem fld_setR_ne (s : State) {k j : Nat} (v hi lo : Nat) (h : j ≠ k) : fld (setR s k v) j hi lo = fld s j hi lo := by
  rw [fld, getR_setR_ne s v h, fld]

@[simp] theorem bitR_setR_same (s : State) (k v : Nat) {b : Nat} (h : b < 32) : bitR (setR s k v) k b = v.testBit b := by
  rw [bitR, getR_setR_same, Nat.testBit_mod_two_pow]
  simp [lt_of_lt_of_le h (widthOf_ge k)]

@[simp] theorem bitR_setR_ne (s : State) {k j : Nat} (v b : Nat) (h : j ≠ k) : bitR (setR s k v) j b = bitR s j b := by
  rw [bitR, getR_setR_ne s v h, bitR]

@[simp] theorem fld_settle (s t : State) (k hi lo : Nat) : fld (settle s t) k hi lo = fld t k hi lo := by simp [fld]
@[simp] theorem bitR_settle (s t : State) (k b : Nat) : bitR (settle s t) k b = bitR t k b := by simp [bitR]
@[simp] theorem fld_emit (s : State) (x : Output) (k hi lo : Nat) : fld (emit s x) k hi lo = fld s k hi lo := rfl
@[simp] theorem bitR_emit (s : State) (x : Output) (k b : Nat) : bitR (emit s x) k b = bitR s k b := rfl

end Sys2Proof.Machine
end

