-- ==== Sys2Proof/Laws/Only.lean ====
section
/-! SUPPORT. The frame `Only` is closed under each update of the state that it allows, and a command's completion follows from
its meaning's effect. -/

namespace Sys2Proof.Machine

/-- A command whose meaning commits `u` completes with `u`. -/
theorem Goes.of {c : Instr} {s u : State} {P : State → Prop} (h : exec c s = commit s u) (hp : P u) : Goes c s P := ⟨u, h, hp⟩

/-- A host command whose meaning commits the completion of `u` ends so. -/
theorem Ends.of {c : Instr} {s u : State} {h : CmdHdr} {code d x : Nat} {P : State → Prop}
    (e : exec c s = commit s (finish h code d x u)) (hp : P u) : Ends c s h code d x P := ⟨u, e, hp⟩

namespace Only

variable {s u w : State} {ks : List Nat} {ps : List Piece}

theorem refl (s : State) (ks : List Nat) (ps : List Piece) : Only s s ks ps :=
  ⟨fun _ _ => rfl, fun p _ => by cases p <;> first | exact rfl | exact fun _ => rfl, rfl⟩

/-- A piece kept twice is kept. -/
theorem kept_trans (p : Piece) (a : p.kept s u) (b : p.kept u w) : p.kept s w := by
  cases p <;> first | exact Eq.trans b a | exact fun x => (b x).trans (a x)

theorem trans (a : Only s u ks ps) (b : Only u w ks ps) : Only s w ks ps :=
  ⟨fun k hk => (b.1 k hk).trans (a.1 k hk), fun p hp => kept_trans p (a.2.1 p hp) (b.2.1 p hp), b.2.2.trans a.2.2⟩

theorem weaken {ks' : List Nat} {ps' : List Piece} (a : Only s u ks ps) (hk : ∀ k ∈ ks, k ∈ ks') (hp : ∀ p ∈ ps, p ∈ ps') :
    Only s u ks' ps' := ⟨fun k h => a.1 k (fun m => h (hk k m)), fun p h => a.2.1 p (fun m => h (hp p m)), a.2.2⟩

theorem setR (h : Only s u ks ps) {k : Nat} (v : Nat) (hk : k ∈ ks) : Only s (setR u k v) ks ps := by
  refine ⟨fun j hj => ?_, fun p hp => ?_, h.2.2⟩
  · rw [getR_setR_ne u v (by rintro rfl; exact hj hk)]; exact h.1 j hj
  · have := h.2.1 p hp; cases p <;> exact this

theorem emit (h : Only s u ks ps) (o : Output) (hp : Piece.out ∈ ps) : Only s (emit u o) ks ps := by
  refine ⟨h.1, fun p hq => ?_, h.2.2⟩
  have := h.2.1 p hq
  cases p <;> first | exact this | exact absurd hp hq

theorem freeCtr (h : Only s u ks ps) (v : Nat) (hp : Piece.freeCtr ∈ ps) : Only s { u with freeCtr := v } ks ps := by
  refine ⟨h.1, fun p hq => ?_, h.2.2⟩
  have := h.2.1 p hq
  cases p <;> first | exact this | exact absurd hp hq

theorem out (h : Only s u ks ps) (v : List Output) (hp : Piece.out ∈ ps) : Only s { u with out := v } ks ps := by
  refine ⟨h.1, fun p hq => ?_, h.2.2⟩
  have := h.2.1 p hq
  cases p <;> first | exact this | exact absurd hp hq

theorem cycle (h : Only s u ks ps) (v : Nat) (hp : Piece.cycle ∈ ps) : Only s { u with cycle := v } ks ps := by
  refine ⟨h.1, fun p hq => ?_, h.2.2⟩
  have := h.2.1 p hq
  cases p <;> first | exact this | exact absurd hp hq

theorem latch (h : Only s u ks ps) (v : Tbl (Nat × Nat)) (hp : Piece.latch ∈ ps) : Only s { u with latch := v } ks ps := by
  refine ⟨h.1, fun p hq => ?_, h.2.2⟩
  have := h.2.1 p hq
  cases p <;> first | exact this | exact absurd hp hq

theorem held (h : Only s u ks ps) (v : Tbl Nat) (hp : Piece.held ∈ ps) : Only s { u with held := v } ks ps := by
  refine ⟨h.1, fun p hq => ?_, h.2.2⟩
  have := h.2.1 p hq
  cases p <;> first | exact this | exact absurd hp hq

theorem host (h : Only s u ks ps) (v : Tbl Byte) (hp : Piece.host ∈ ps) : Only s { u with host := v } ks ps := by
  refine ⟨h.1, fun p hq => ?_, h.2.2⟩
  have := h.2.1 p hq
  cases p <;> first | exact this | exact absurd hp hq

theorem hostDead (h : Only s u ks ps) (v : List Nat) (hp : Piece.hostDead ∈ ps) : Only s { u with hostDead := v } ks ps := by
  refine ⟨h.1, fun p hq => ?_, h.2.2⟩
  have := h.2.1 p hq
  cases p <;> first | exact this | exact absurd hp hq

theorem pba (h : Only s u ks ps) (v : List (Nat × Nat)) (hp : Piece.pba ∈ ps) : Only s { u with pba := v } ks ps := by
  refine ⟨h.1, fun p hq => ?_, h.2.2⟩
  have := h.2.1 p hq
  cases p <;> first | exact this | exact absurd hp hq

theorem msixOff (h : Only s u ks ps) (v : List Nat) (hp : Piece.msixOff ∈ ps) : Only s { u with msixOff := v } ks ps := by
  refine ⟨h.1, fun p hq => ?_, h.2.2⟩
  have := h.2.1 p hq
  cases p <;> first | exact this | exact absurd hp hq

theorem vfEnable (h : Only s u ks ps) (v : Bool) (hp : Piece.vfEnable ∈ ps) : Only s { u with vfEnable := v } ks ps := by
  refine ⟨h.1, fun p hq => ?_, h.2.2⟩
  have := h.2.1 p hq
  cases p <;> first | exact this | exact absurd hp hq

theorem linkUp (h : Only s u ks ps) (v : Bool) (hp : Piece.linkUp ∈ ps) : Only s { u with linkUp := v } ks ps := by
  refine ⟨h.1, fun p hq => ?_, h.2.2⟩
  have := h.2.1 p hq
  cases p <;> first | exact this | exact absurd hp hq

theorem pins (h : Only s u ks ps) (v : Pins) (hp : Piece.pins ∈ ps) : Only s { u with pins := v } ks ps := by
  refine ⟨h.1, fun p hq => ?_, h.2.2⟩
  have := h.2.1 p hq
  cases p <;> first | exact this | exact absurd hp hq

theorem power (h : Only s u ks ps) (v : Power) (hp : Piece.power ∈ ps) : Only s { u with power := v } ks ps := by
  refine ⟨h.1, fun p hq => ?_, h.2.2⟩
  have := h.2.1 p hq
  cases p <;> first | exact this | exact absurd hp hq

theorem start (h : Only s u ks ps) (v : Startup) (hp : Piece.start ∈ ps) : Only s { u with start := v } ks ps := by
  refine ⟨h.1, fun p hq => ?_, h.2.2⟩
  have := h.2.1 p hq
  cases p <;> first | exact this | exact absurd hp hq

theorem faultSeq (h : Only s u ks ps) (v : FaultSeq) (hp : Piece.faultSeq ∈ ps) : Only s { u with faultSeq := v } ks ps := by
  refine ⟨h.1, fun p hq => ?_, h.2.2⟩
  have := h.2.1 p hq
  cases p <;> first | exact this | exact absurd hp hq

theorem qps (h : Only s u ks ps) (v : Tbl Qp) (hp : Piece.qps ∈ ps) : Only s { u with qps := v } ks ps := by
  refine ⟨h.1, fun p hq => ?_, h.2.2⟩
  have := h.2.1 p hq
  cases p <;> first | exact this | exact absurd hp hq

theorem taken (h : Only s u ks ps) (v : List Instr) (hp : Piece.taken ∈ ps) : Only s { u with taken := v } ks ps := by
  refine ⟨h.1, fun p hq => ?_, h.2.2⟩
  have := h.2.1 p hq
  cases p <;> first | exact this | exact absurd hp hq

theorem owed (h : Only s u ks ps) (v : List Owed) (hp : Piece.owed ∈ ps) : Only s { u with owed := v } ks ps := by
  refine ⟨h.1, fun p hq => ?_, h.2.2⟩
  have := h.2.1 p hq
  cases p <;> first | exact this | exact absurd hp hq

theorem ctxFn (h : Only s u ks ps) (v : Tbl Nat) (hp : Piece.ctxFn ∈ ps) : Only s { u with ctxFn := v } ks ps := by
  refine ⟨h.1, fun p hq => ?_, h.2.2⟩
  have := h.2.1 p hq
  cases p <;> first | exact this | exact absurd hp hq

theorem chanFn (h : Only s u ks ps) (v : Tbl Nat) (hp : Piece.chanFn ∈ ps) : Only s { u with chanFn := v } ks ps := by
  refine ⟨h.1, fun p hq => ?_, h.2.2⟩
  have := h.2.1 p hq
  cases p <;> first | exact this | exact absurd hp hq

theorem sample (h : Only s u ks ps) (v : Tbl W64) (hp : Piece.sample ∈ ps) : Only s { u with sample := v } ks ps := by
  refine ⟨h.1, fun p hq => ?_, h.2.2⟩
  have := h.2.1 p hq
  cases p <;> first | exact this | exact absurd hp hq

theorem siteMap (h : Only s u ks ps) (v : Tbl Nat) (hp : Piece.siteMap ∈ ps) : Only s { u with siteMap := v } ks ps := by
  refine ⟨h.1, fun p hq => ?_, h.2.2⟩
  have := h.2.1 p hq
  cases p <;> first | exact this | exact absurd hp hq

theorem diesOn (h : Only s u ks ps) (v : Nat) (hp : Piece.diesOn ∈ ps) : Only s { u with diesOn := v } ks ps := by
  refine ⟨h.1, fun p hq => ?_, h.2.2⟩
  have := h.2.1 p hq
  cases p <;> first | exact this | exact absurd hp hq

theorem ports (h : Only s u ks ps) (v : Tbl StorePort) (hp : Piece.ports ∈ ps) : Only s { u with ports := v } ks ps := by
  refine ⟨h.1, fun p hq => ?_, h.2.2⟩
  have := h.2.1 p hq
  cases p <;> first | exact this | exact absurd hp hq

theorem bar2q (h : Only s u ks ps) (v : List Instr) (hp : Piece.bar2q ∈ ps) : Only s { u with bar2q := v } ks ps := by
  refine ⟨h.1, fun p hq => ?_, h.2.2⟩
  have := h.2.1 p hq
  cases p <;> first | exact this | exact absurd hp hq

theorem ctxs (h : Only s u ks ps) (v : Tbl Ctx) (hp : Piece.ctxs ∈ ps) : Only s { u with ctxs := v } ks ps := by
  refine ⟨h.1, fun p hq => ?_, h.2.2⟩
  have := h.2.1 p hq
  cases p <;> first | exact this | exact absurd hp hq

theorem sites (h : Only s u ks ps) (v : Tbl Site) (hp : Piece.sites ∈ ps) : Only s { u with sites := v } ks ps := by
  refine ⟨h.1, fun p hq => ?_, h.2.2⟩
  have := h.2.1 p hq
  cases p <;> first | exact this | exact absurd hp hq

theorem mesh (h : Only s u ks ps) (v : List MeshFlit) (hp : Piece.mesh ∈ ps) : Only s { u with mesh := v } ks ps := by
  refine ⟨h.1, fun p hq => ?_, h.2.2⟩
  have := h.2.1 p hq
  cases p <;> first | exact this | exact absurd hp hq

theorem loads (h : Only s u ks ps) (v : List LoadReq) (hp : Piece.loads ∈ ps) : Only s { u with loads := v } ks ps := by
  refine ⟨h.1, fun p hq => ?_, h.2.2⟩
  have := h.2.1 p hq
  cases p <;> first | exact this | exact absurd hp hq

theorem loading (h : Only s u ks ps) (v : Option Loading) (hp : Piece.loading ∈ ps) : Only s { u with loading := v } ks ps := by
  refine ⟨h.1, fun p hq => ?_, h.2.2⟩
  have := h.2.1 p hq
  cases p <;> first | exact this | exact absurd hp hq

theorem tileStore (h : Only s u ks ps) (v : Tbl Byte) (hp : Piece.tileStore ∈ ps) : Only s { u with tileStore := v } ks ps := by
  refine ⟨h.1, fun p hq => ?_, h.2.2⟩
  have := h.2.1 p hq
  cases p <;> first | exact this | exact absurd hp hq

theorem errs (h : Only s u ks ps) (v : List (ErrPlace × Bool)) (hp : Piece.errs ∈ ps) : Only s { u with errs := v } ks ps := by
  refine ⟨h.1, fun p hq => ?_, h.2.2⟩
  have := h.2.1 p hq
  cases p <;> first | exact this | exact absurd hp hq

theorem near (h : Only s u ks ps) (v : Tbl Byte) (hp : Piece.near ∈ ps) : Only s { u with near := v } ks ps := by
  refine ⟨h.1, fun p hq => ?_, h.2.2⟩
  have := h.2.1 p hq
  cases p <;> first | exact this | exact absurd hp hq

theorem poison (h : Only s u ks ps) (v : List Nat) (hp : Piece.poison ∈ ps) : Only s { u with poison := v } ks ps := by
  refine ⟨h.1, fun p hq => ?_, h.2.2⟩
  have := h.2.1 p hq
  cases p <;> first | exact this | exact absurd hp hq

theorem farPoison (h : Only s u ks ps) (v : List Nat) (hp : Piece.farPoison ∈ ps) : Only s { u with farPoison := v } ks ps := by
  refine ⟨h.1, fun p hq => ?_, h.2.2⟩
  have := h.2.1 p hq
  cases p <;> first | exact this | exact absurd hp hq

theorem farUnits (h : Only s u ks ps) (v : Nat) (hp : Piece.farUnits ∈ ps) : Only s { u with farUnits := v } ks ps := by
  refine ⟨h.1, fun p hq => ?_, h.2.2⟩
  have := h.2.1 p hq
  cases p <;> first | exact this | exact absurd hp hq

theorem softRows (h : Only s u ks ps) (v : List (Nat × Nat × Nat)) (hp : Piece.softRows ∈ ps) : Only s { u with softRows := v } ks ps := by
  refine ⟨h.1, fun p hq => ?_, h.2.2⟩
  have := h.2.1 p hq
  cases p <;> first | exact this | exact absurd hp hq

theorem granOwner (h : Only s u ks ps) (v : Tbl Nat) (hp : Piece.granOwner ∈ ps) : Only s { u with granOwner := v } ks ps := by
  refine ⟨h.1, fun p hq => ?_, h.2.2⟩
  have := h.2.1 p hq
  cases p <;> first | exact this | exact absurd hp hq

theorem objs (h : Only s u ks ps) (v : Tbl Obj) (hp : Piece.objs ∈ ps) : Only s { u with objs := v } ks ps := by
  refine ⟨h.1, fun p hq => ?_, h.2.2⟩
  have := h.2.1 p hq
  cases p <;> first | exact this | exact absurd hp hq

theorem ptab (h : Only s u ks ps) (v : Tbl Byte) (hp : Piece.ptab ∈ ps) : Only s { u with ptab := v } ks ps := by
  refine ⟨h.1, fun p hq => ?_, h.2.2⟩
  have := h.2.1 p hq
  cases p <;> first | exact this | exact absurd hp hq

theorem places (h : Only s u ks ps) (v : List PlaceReq) (hp : Piece.places ∈ ps) : Only s { u with places := v } ks ps := by
  refine ⟨h.1, fun p hq => ?_, h.2.2⟩
  have := h.2.1 p hq
  cases p <;> first | exact this | exact absurd hp hq

theorem farPool (h : Only s u ks ps) (v : Tbl (List Nat)) (hp : Piece.farPool ∈ ps) : Only s { u with farPool := v } ks ps := by
  refine ⟨h.1, fun p hq => ?_, h.2.2⟩
  have := h.2.1 p hq
  cases p <;> first | exact this | exact absurd hp hq

theorem uns (h : Only s u ks ps) (v : List Unsched) (hp : Piece.uns ∈ ps) : Only s { u with uns := v } ks ps := by
  refine ⟨h.1, fun p hq => ?_, h.2.2⟩
  have := h.2.1 p hq
  cases p <;> first | exact this | exact absurd hp hq

theorem nextUns (h : Only s u ks ps) (v : Nat) (hp : Piece.nextUns ∈ ps) : Only s { u with nextUns := v } ks ps := by
  refine ⟨h.1, fun p hq => ?_, h.2.2⟩
  have := h.2.1 p hq
  cases p <;> first | exact this | exact absurd hp hq

theorem dmas (h : Only s u ks ps) (v : List Dma) (hp : Piece.dmas ∈ ps) : Only s { u with dmas := v } ks ps := by
  refine ⟨h.1, fun p hq => ?_, h.2.2⟩
  have := h.2.1 p hq
  cases p <;> first | exact this | exact absurd hp hq

theorem runs (h : Only s u ks ps) (v : List CodingRun) (hp : Piece.runs ∈ ps) : Only s { u with runs := v } ks ps := by
  refine ⟨h.1, fun p hq => ?_, h.2.2⟩
  have := h.2.1 p hq
  cases p <;> first | exact this | exact absurd hp hq

theorem lastUnit (h : Only s u ks ps) (v : Tbl (Nat × Nat)) (hp : Piece.lastUnit ∈ ps) : Only s { u with lastUnit := v } ks ps := by
  refine ⟨h.1, fun p hq => ?_, h.2.2⟩
  have := h.2.1 p hq
  cases p <;> first | exact this | exact absurd hp hq

theorem salts (h : Only s u ks ps) (v : Tbl (List Nat)) (hp : Piece.salts ∈ ps) : Only s { u with salts := v } ks ps := by
  refine ⟨h.1, fun p hq => ?_, h.2.2⟩
  have := h.2.1 p hq
  cases p <;> first | exact this | exact absurd hp hq

theorem keys (h : Only s u ks ps) (v : Tbl Bytes) (hp : Piece.keys ∈ ps) : Only s { u with keys := v } ks ps := by
  refine ⟨h.1, fun p hq => ?_, h.2.2⟩
  have := h.2.1 p hq
  cases p <;> first | exact this | exact absurd hp hq

theorem drbg (h : Only s u ks ps) (v : Option Drbg) (hp : Piece.drbg ∈ ps) : Only s { u with drbg := v } ks ps := by
  refine ⟨h.1, fun p hq => ?_, h.2.2⟩
  have := h.2.1 p hq
  cases p <;> first | exact this | exact absurd hp hq

theorem drbgReqs (h : Only s u ks ps) (v : Nat) (hp : Piece.drbgReqs ∈ ps) : Only s { u with drbgReqs := v } ks ps := by
  refine ⟨h.1, fun p hq => ?_, h.2.2⟩
  have := h.2.1 p hq
  cases p <;> first | exact this | exact absurd hp hq

theorem drbgAt (h : Only s u ks ps) (v : Nat) (hp : Piece.drbgAt ∈ ps) : Only s { u with drbgAt := v } ks ps := by
  refine ⟨h.1, fun p hq => ?_, h.2.2⟩
  have := h.2.1 p hq
  cases p <;> first | exact this | exact absurd hp hq

theorem pitchKeys (h : Only s u ks ps) (v : Tbl Bytes) (hp : Piece.pitchKeys ∈ ps) : Only s { u with pitchKeys := v } ks ps := by
  refine ⟨h.1, fun p hq => ?_, h.2.2⟩
  have := h.2.1 p hq
  cases p <;> first | exact this | exact absurd hp hq

theorem fab (h : Only s u ks ps) (v : Tbl FabPort) (hp : Piece.fab ∈ ps) : Only s { u with fab := v } ks ps := by
  refine ⟨h.1, fun p hq => ?_, h.2.2⟩
  have := h.2.1 p hq
  cases p <;> first | exact this | exact absurd hp hq

theorem train (h : Only s u ks ps) (v : Tbl Train) (hp : Piece.train ∈ ps) : Only s { u with train := v } ks ps := by
  refine ⟨h.1, fun p hq => ?_, h.2.2⟩
  have := h.2.1 p hq
  cases p <;> first | exact this | exact absurd hp hq

theorem endings (h : Only s u ks ps) (v : List Ending) (hp : Piece.endings ∈ ps) : Only s { u with endings := v } ks ps := by
  refine ⟨h.1, fun p hq => ?_, h.2.2⟩
  have := h.2.1 p hq
  cases p <;> first | exact this | exact absurd hp hq

theorem serves (h : Only s u ks ps) (v : Tbl Serve) (hp : Piece.serves ∈ ps) : Only s { u with serves := v } ks ps := by
  refine ⟨h.1, fun p hq => ?_, h.2.2⟩
  have := h.2.1 p hq
  cases p <;> first | exact this | exact absurd hp hq

theorem chans (h : Only s u ks ps) (v : Tbl Channel) (hp : Piece.chans ∈ ps) : Only s { u with chans := v } ks ps := by
  refine ⟨h.1, fun p hq => ?_, h.2.2⟩
  have := h.2.1 p hq
  cases p <;> first | exact this | exact absurd hp hq

theorem engines (h : Only s u ks ps) (v : Tbl Engine) (hp : Piece.engines ∈ ps) : Only s { u with engines := v } ks ps := by
  refine ⟨h.1, fun p hq => ?_, h.2.2⟩
  have := h.2.1 p hq
  cases p <;> first | exact this | exact absurd hp hq

theorem decks (h : Only s u ks ps) (v : Tbl Deck) (hp : Piece.decks ∈ ps) : Only s { u with decks := v } ks ps := by
  refine ⟨h.1, fun p hq => ?_, h.2.2⟩
  have := h.2.1 p hq
  cases p <;> first | exact this | exact absurd hp hq

theorem instCmd (h : Only s u ks ps) (v : Tbl (List CmdHdr)) (hp : Piece.instCmd ∈ ps) : Only s { u with instCmd := v } ks ps := by
  refine ⟨h.1, fun p hq => ?_, h.2.2⟩
  have := h.2.1 p hq
  cases p <;> first | exact this | exact absurd hp hq

theorem spills (h : Only s u ks ps) (v : Tbl Spill) (hp : Piece.spills ∈ ps) : Only s { u with spills := v } ks ps := by
  refine ⟨h.1, fun p hq => ?_, h.2.2⟩
  have := h.2.1 p hq
  cases p <;> first | exact this | exact absurd hp hq

theorem frozen (h : Only s u ks ps) (v : Tbl Frozen) (hp : Piece.frozen ∈ ps) : Only s { u with frozen := v } ks ps := by
  refine ⟨h.1, fun p hq => ?_, h.2.2⟩
  have := h.2.1 p hq
  cases p <;> first | exact this | exact absurd hp hq

theorem sessions (h : Only s u ks ps) (v : Tbl Session) (hp : Piece.sessions ∈ ps) : Only s { u with sessions := v } ks ps := by
  refine ⟨h.1, fun p hq => ?_, h.2.2⟩
  have := h.2.1 p hq
  cases p <;> first | exact this | exact absurd hp hq

theorem store (h : Only s u ks ps) (v : Store) (hp : Piece.store ∈ ps) : Only s { u with store := v } ks ps := by
  refine ⟨h.1, fun p hq => ?_, h.2.2⟩
  have := h.2.1 p hq
  cases p <;> first | exact this | exact absurd hp hq

theorem fw (h : Only s u ks ps) (v : Option FwWrite) (hp : Piece.fw ∈ ps) : Only s { u with fw := v } ks ps := by
  refine ⟨h.1, fun p hq => ?_, h.2.2⟩
  have := h.2.1 p hq
  cases p <;> first | exact this | exact absurd hp hq

theorem tray (h : Only s u ks ps) (v : Tray) (hp : Piece.tray ∈ ps) : Only s { u with tray := v } ks ps := by
  refine ⟨h.1, fun p hq => ?_, h.2.2⟩
  have := h.2.1 p hq
  cases p <;> first | exact this | exact absurd hp hq

theorem waiting (h : Only s u ks ps) (v : List Instr) (hp : Piece.waiting ∈ ps) : Only s { u with waiting := v } ks ps := by
  refine ⟨h.1, fun p hq => ?_, h.2.2⟩
  have := h.2.1 p hq
  cases p <;> first | exact this | exact absurd hp hq

end Only

end Sys2Proof.Machine
end

