-- ==== Sys2Proof/WellFormed.lean ====
section
/-! DEFINITION. Well-formed commands: the operand ranges that the types of `Instr` do not hold by themselves. -/

namespace Sys2Proof

/-- The header of a host command fits its envelope (R376): 16-bit generation and CID, 64-bit TAG, a queue pair number
below the part's 1,024. -/
def CmdHdr.wf (h : CmdHdr) : Bool := h.qp < 1024 && h.gen < 2 ^ 16 && h.cid < 2 ^ 16 && h.tag < 2 ^ 64

end Sys2Proof
end

