-- ==== Sys2Proof/Tests/Slice0.lean ====
section
/-! SUPPORT. The package's own tests: ill-formed terms refused, the words of figures from the spec's encodings, and for each
statement concrete states and operands that meet its hypotheses. -/

namespace Sys2Proof.Tests

open Sys2Proof Sys2Proof.Machine

set_option Elab.async false

/-! ### Small states -/

/-- A part in full service at 2.0 GHz, with logical tiles 0 and 1 at sites 0 and 1, and nothing loaded. Registers that many rules read
are listed; the pool has two queue pairs. -/
def svc : State :=
  { State.reset with
    regs := [(0x1010, 0x0#64), (0x10114, 0x50000#64), (0x11040, 0x0#64), (0x11080, 0x0#64), (0x110C0, 0x0#64), (0x11100, 0x0#64), (0x11140, 0x0#64),
      (0x11180, 0x0#64), (0x111C0, 0x0#64), (0x11200, 0x0#64), (0x11240, 0x0#64), (0x11280, 0x0#64), (0x112C0, 0x0#64),
      (0x11300, 0x0#64), (0x11340, 0x0#64), (0x11380, 0x0#64), (0x113C0, 0x0#64), (0x11400, 0x0#64), (0x11440, 0x0#64),
      (0x11480, 0x0#64), (0x114C0, 0x0#64), (0x11500, 0x0#64), (0x11540, 0x0#64), (0x11580, 0x0#64), (0x115C0, 0x0#64),
      (0x11600, 0x0#64), (0x11640, 0x0#64), (0x11680, 0x0#64), (0x116C0, 0x0#64), (0x11700, 0x0#64), (0x11740, 0x0#64),
      (0x11780, 0x0#64), (0x117C0, 0x0#64), (0x200020, 0x0#64), (0x200024, 0x0#64), (0x200028, 0x0#64), (0x20002C, 0x0#64),
      (0x200030, 0x0#64), (0x200034, 0x0#64), (0x200038, 0x0#64), (0x20003C, 0x0#64), (0x800000, 0x1000000#64),
      (0x80000C, 0x40000000#64), (0x800010, 0x50500000#64), (0x1000000000C, 0x0#64)]
    pins := { State.reset.pins with supplyOk := true, perstN := true }
    start := { State.reset.start with inReset := false }
    linkUp := true, diesOn := 15, siteMap := [(0, 0), (1, 1)] }

/-- A command header of the physical function's pair 0. -/
def hd0 : CmdHdr := { fn := 0, qp := 0, gen := 0, cid := 1, tag := 7, fence := false, noIrq := false }

/-- A state with a fetched command. -/
def fetched (c : Instr) (s : State) : State := { s with taken := [c] }

/-- A fault sequence in a phase. -/
def inPhase (p : FaultPhase) (s : State) : State := { s with faultSeq := { phase := p, since := 0 } }

/-- A state at a rest. -/
def resting (r : Rest) (s : State) : State := { s with power := { s.power with rest := r } }

/-- The error of a check. -/
def errOf {ε α : Type} : Except ε α → Option ε
  | .error e => some e
  | .ok _ => none

/-! ### Resets, starts, clocks and rest states -/

/-- The results of a self-test that found nothing wrong. -/
def okTest : SelfTest := { sites := [], stackTests := [], decodeFail := 0, decodeFused := 0, fuseBad := false }

/-- A part at a step of its start. -/
def starting (n : Nat) : State :=
  setR { svc with start := { State.reset.start with inReset := false, running := true } } Reg.POWER_STATE (n * 2 ^ 26)

/-- A part in part reset, with the supplies up. -/
def held : State := { svc with start := State.reset.start }

/-- The same with bank A not bootable and bank B valid. -/
def heldB : State :=
  { held with store := { held.store with bankA := { held.store.bankA with state := 2 }, bankB := held.store.bankA } }

/-- The same with no bank that boots. -/
def heldNone : State := { held with store := { held.store with bankA := { held.store.bankA with state := 2 } } }

theorem witness_ResetsLeaveResetValues :
    svc.pins.perstN = true ∧ svc.pins.supplyOk = true ∧ svc.start.running = false ∧ (true && sleeping svc) = false
      ∧ svc.start.inReset = false ∧ svc.pins.aon = true ∧ keptReg Reg.RESET_CAUSE = true ∧ keptReg Reg.MEM_CAUSE = false
      ∧ (starting 5).pins.supplyOk = true ∧ (starting 5).pins.aon = true ∧ (starting 5).start.running = true
      ∧ (false && sleeping (starting 5)) = false := by decide +kernel

theorem witness_StartsSucceedOrFail :
    (held.pins.aon = true ∧ held.start.inReset = true ∧ held.start.toCamp = none
      ∧ held.store.prefer = 0 ∧ bankBoots held 0 = true
      ∧ bankBoots heldB 1 = true ∧ bankBoots heldB heldB.store.prefer = false
      ∧ bankBoots heldNone heldNone.store.prefer = false ∧ bankBoots heldNone (1 - heldNone.store.prefer) = false)
    ∧ (atStep (starting 5) 5 = true ∧ (starting 5).start.thermalWait = false ∧ startCheck okTest [0] [0, 1] false = none)
    ∧ (atStep (setB (starting 7) Reg.POWER_STATE 25 true) 7 = true ∧ early (setB (starting 7) Reg.POWER_STATE 25 true) = true
      ∧ full (setB (starting 7) Reg.POWER_STATE 25 true) = false ∧ startCheck okTest [1, 2, 3] (upFrom 2 6) true = none)
    ∧ (let s := { starting 5 with timeBase := 30000 * msAon }
       s.start.running = true ∧ s.start.inReset = false ∧ s.start.thermalWait = false ∧ s.start.began + 30000 * msAon ≤ s.timeBase
        ∧ early s = false ∧ s.start.fromCamp = false ∧ getR s Reg.FAILED_STARTS < 2)
    ∧ (let s := setR { starting 5 with timeBase := 60000 * msAon, start := { (starting 5).start with thermalWait := true } }
                Reg.FAILED_STARTS 2
       s.start.thermalWait = true ∧ s.start.began + 60000 * msAon ≤ s.timeBase ∧ early s = false ∧ 2 ≤ getR s Reg.FAILED_STARTS) := by
  decide +kernel

/-- A dip under way, whose supply rose 5 ms ago. -/
def dipped : State :=
  { svc with timeBase := 5 * msAon, power := { svc.power with dip := some { began := 0, lastFall := 0, again := false } } }

theorem witness_ClocksFollowTheSupply :
    (svc.pins.aon = true ∧ svc.start.inReset = false ∧ sleeping svc = false ∧ svc.power.dip = none)
    ∧ (dipped.power.dip = some { began := 0, lastFall := 0, again := false } ∧ 0 + 5 * msAon ≤ dipped.timeBase)
    ∧ (crossingKind 0 = some true ∨ crossingKind 0 = some false)
    ∧ (svc.faultSeq.phase = .none ∧ svc.power.rest = .awake)
    ∧ (svc.pins.fabClk = true ∧ svc.pins.pcieClk = true)
    ∧ (svc.power.nextTick ≤ svc.timeBase ∧ inService svc = true ∧ bitR svc Reg.CLOCK_STATUS 15 = false ∧ limitOf svc * 80 < 16000
        ∧ freqFloor svc < fld svc Reg.CLOCK_STATUS 31 24)
    ∧ fld (setF svc Reg.CLOCK_STATUS 31 24 0) Reg.CLOCK_STATUS 31 24 ≤ freqFloor (setF svc Reg.CLOCK_STATUS 31 24 0)
    ∧ 100 ≤ ({ svc.power with overMs := 100 } : Power).overMs
    ∧ ({ svc.power with slew := some true } : Power).slew = some true := by decide +kernel

/-- A part that has been quiet for 1 us. -/
def quiet : State := { svc with timeBase := usAon }

theorem witness_RestStates :
    (svc.power.rest = .awake ∧ inService quiet = true ∧ healthy quiet = true ∧ bitR (setB quiet Reg.POWER_CONTROL 30 true) Reg.POWER_CONTROL 30 = true
        ∧ dozeCond quiet = true ∧ quiet.power.quietSince + usAon ≤ quiet.timeBase)
    ∧ (resting .doze svc).power.rest = .doze
    ∧ (svc.start.inReset = false ∧ svc.power.rest = .awake)
    ∧ (let s := setB svc Reg.POWER_CONTROL 31 true
       s.power.rest = .awake ∧ bitR s Reg.POWER_CONTROL 31 = true ∧ healthy s = true ∧ idleCond s = true
        ∧ s.ctxs.all (fun e => reservedOnly e.2.pitch || e.2.tiles.all (standsStill s e.1)) = true)
    ∧ ((resting .nap svc).power.rest = .nap ∧ bitR (resting .nap svc) Reg.POWER_CONTROL 31 = false ∧ (resting .nap svc).sites = [])
    ∧ (let s := resting .sleep { svc with timeBase := 5 * msAon }
       s.power.rest = .sleep ∧ s.power.restAt + 5 * msAon ≤ s.timeBase ∧ (false && bitR s Reg.TRAY_CONFIG 1) = false)
    ∧ ((resting .leavingNap svc).power.rest = .leavingNap ∧ (resting .leavingNap svc).waiting = [])
    ∧ (let t : Tbl W64 := [(Reg.MEM_MASK, 7#64)]
       let s := { resting (.waking false) svc with power := { (resting (.waking false) svc).power with saved := some t } }
       s.power.rest = .waking false ∧ s.waiting = [] ∧ s.power.saved = some t ∧ tsorted t = true ∧ (∀ e ∈ t, aonReg e.1 = false)
        ∧ (resting (.waking true) s).power.rest = .waking true)
    ∧ (svc.pins.aon = true ∧ svc.start.inReset = false ∧ svc.linkUp = true ∧ (resting .sleep svc).power.rest = .sleep) := by decide +kernel

/-! ### The host -/

/-- Logical tile 0's store and stack 0's first granule in the pool; BAR2 at the start of object space. -/
def bar : State := setR (setR svc (Reg.STACK_STATUS 0) 0x80000000) Reg.MEM_STATUS 1

theorem witness_RegisterAccesses :
    (reached svc (.fn 0) = true ∧ svc.power.rest = .awake ∧ 0x200008 % 4 = 0
      ∧ keyOf svc (.fn 0) 0x200008 = some Reg.MEM_MASK
      ∧ (wordAt Reg.MEM_MASK).map (fun w => (w.2, w.1.width, plainWrite (.fn 0) w.1 Reg.MEM_MASK)) = some ((Reg.MEM_MASK, false), 32, true))
    ∧ (unaligned 0x200009 4 = true ∧ bitR svc (Reg.ACCESS_LOG 0) 31 = false)
    ∧ (¬((pbaPlace (viewFn (.fn 0))).1 ≤ 0x200008 ∧ 0x200008 < (pbaPlace (viewFn (.fn 0))).1 + (pbaPlace (viewFn (.fn 0))).2))
    ∧ (keyOf svc (.fn 0) 0x2000C8 = some 0x2000C8
      ∧ (wordAt 0x2000C8).map (fun w => (w.2, w.1.width)) = some ((Reg.PAGES_MIGRATED, false), 64)
      ∧ keyOf svc (.fn 0) 0x2000CC = some 0x2000CC
      ∧ (wordAt 0x2000CC).map (fun w => (w.2, w.1.width)) = some ((Reg.PAGES_MIGRATED, true), 64)
      ∧ tget ({ svc with latch := [(readerOf (.fn 0), (Reg.PAGES_MIGRATED, 5))] }).latch (readerOf (.fn 0))
          = some (Reg.PAGES_MIGRATED, 5)) := by decide +kernel

/-- The object of handle 1 of the physical function: one near page at the start of object space. -/
def obj1 : Obj :=
  { fn := 0, handle := 1, id := 9, owner := 0xFF, oflags := 0, keySlot := 0, format := 8, size := 64, first := 1,
    pages := [.near 0 0], state := 1, doneSeq := 0, result := 0, users := [], freed := false, record := none }

/-- A part with that object. -/
def withObj : State := { svc with objs := [(objKey 0 1, obj1)] }

theorem witness_Bar2MovesBytes :
    (let s := setR withObj Reg.BAR2_BASE pageSize
     bar2On s = true ∧ 0 + [1#8, 2#8].length ≤ 2 ^ 36 ∧ 0 < [1#8, 2#8].length ∧ (getR s Reg.BAR2_BASE + 0) % pageSize + 2 ≤ pageSize
      ∧ frozenIn s 0 (getR s Reg.BAR2_BASE + 0) 2 = none ∧ stagedIn s 0 (getR s Reg.BAR2_BASE + 0) 2 = none
      ∧ devAt s 0 (getR s Reg.BAR2_BASE + 0) = .near (frameAddr 0 0) ∧ (getR s Reg.BAR2_BASE + 0) % 4 = 0 ∧ s.errs = [] ∧ s.poison = []
      ∧ s.power.rest = .awake ∧ s.bar2q = [] ∧ bar2Held s = false
      ∧ sitesOf s (spansOf s 0 (getR s Reg.BAR2_BASE + 0) 2) = [])
    ∧ (let s := setR withObj Reg.BAR2_BASE (2 ^ 48)
       bar2On s = true ∧ devAt s 0 (getR s Reg.BAR2_BASE + 8) = .tile 0 8 ∧ frozenIn s 0 (getR s Reg.BAR2_BASE + 8) 2 = none
        ∧ stagedIn s 0 (getR s Reg.BAR2_BASE + 8) 2 = none ∧ s.bar2q = []
        ∧ (∀ k ∈ sitesOf s (spansOf s 0 (getR s Reg.BAR2_BASE + 8) 2), portFree s k = true))
    ∧ (bar2On svc = true ∧ devAt svc 0 (getR svc Reg.BAR2_BASE + pageSize) = .unmapped
        ∧ frozenIn svc 0 (getR svc Reg.BAR2_BASE + pageSize) 2 = none ∧ stagedIn svc 0 (getR svc Reg.BAR2_BASE + pageSize) 2 = none
        ∧ sitesOf svc (spansOf svc 0 (getR svc Reg.BAR2_BASE + pageSize) 2) = [])
    ∧ (inService (setR svc Reg.POWER_STATE 0) = false ∧ (setR svc Reg.POWER_STATE 0).power.rest = .awake) := by decide +kernel

/-- A queue pair 0 of the physical function, of 64 and 64 entries, configured and not enabled. -/
def pairCfg : State :=
  setR (setR (setR (setR svc (Reg.SQ_BASE 0 0) 0x10000) (Reg.CQ_BASE 0 0) 0x20000) (Reg.HOST_PROTOCOL 0) 0x01021201)
    (Reg.QP_CONFIG 0 0) 0x0606

/-- The same pair enabled. -/
def pairOn : State := setB (setB pairCfg (Reg.QP_CONFIG 0 0) 31 true) (Reg.QP_STATUS 0 0) 31 true

theorem witness_QueuePairRegisters :
    (hostUp svc = true ∧ baseCamp svc = false ∧ fnExists svc 0 = true ∧ anyQp svc 0 = false)
    ∧ (qpServed pairCfg 0 0 = true ∧ bitR pairCfg (Reg.QP_CONFIG 0 0) 31 = false
      ∧ (bitR pairCfg (Reg.HOST_PROTOCOL 0) 0 && fnActive pairCfg 0 && qpConfigOk pairCfg 0 0) = true)
    ∧ (qpServed svc 0 0 = true ∧ bitR svc (Reg.QP_CONFIG 0 0) 31 = false
      ∧ (bitR svc (Reg.HOST_PROTOCOL 0) 0 && fnActive svc 0 && qpConfigOk svc 0 0) = false)
    ∧ (qpServed pairOn 0 0 = true ∧ bitR pairOn (Reg.QP_CONFIG 0 0) 31 = true ∧ pairOn.owed = [])
    ∧ (qpEnabled pairOn 0 0 = true ∧ 63 < sqSize pairOn 0 0 ∧ sqSize pairOn 0 0 ≤ 64 ∧ 63 < cqSize pairOn 0 0) := by decide +kernel
/-! ### Commands, faults, ports and tray requests -/

/-- The pair with one command of 64 bytes at its head: RANDOM_GET with CID 1 and TAG 7, of a generation. -/
def pairCmd (gen : Byte) : State :=
  { qpPut pairOn 0 0 { sqTail := 1, cqTail := 0, cqHead := 0, phase := true } with
    host := mwrite [] (hostKey 0 0x10000) [0x4A#8, 0#8, gen, 0#8, 1#8, 0#8, 0#8, 0#8, 7#8] }

/-- The pair owing the last completion of that command, at the end of its completion queue. -/
def pairOwes : State :=
  { qpPut pairOn 0 0 { sqTail := 1, cqTail := 63, cqHead := 3, phase := true } with
    owed := [{ hdr := hd0, sqHead := 1, left := 1, first := false, event := false }] }

theorem witness_CommandsAreFetchedAndCompleted :
    (let s := pairCmd 0#8
     let b := hostRead s 0 (getR s (Reg.SQ_BASE 0 0) + fld s (Reg.QP_STATUS 0 0) 15 0 * 128) 128
     mayFetch s 0 0 = true ∧ hostOk s 0 (getR s (Reg.SQ_BASE 0 0)) 128 = true ∧ fenced s (readCmdHdr 0 0 b) = false
      ∧ cqRoom s 0 0 (opCompletions (fieldAt b 0 1) + (if opLoads (fieldAt b 0 1) then 1 else 0)) = true
      ∧ (readCmd s 0 0 b).toOption = some (.randomGet hd0 0 0 0))
    ∧ (let s := pairCmd 5#8
       let b := hostRead s 0 (getR s (Reg.SQ_BASE 0 0)) 128
       mayFetch s 0 0 = true ∧ fenced s (readCmdHdr 0 0 b) = false
        ∧ cqRoom s 0 0 (opCompletions (fieldAt b 0 1) + (if opLoads (fieldAt b 0 1) then 1 else 0)) = true
        ∧ errOf (readCmd s 0 0 b) = some 3)
    ∧ (pairOwes.owed.find? (fun o => sameCmd o.hdr hd0) = some { hdr := hd0, sqHead := 1, left := 1, first := false, event := false }
        ∧ hd0.gen = genOf pairOwes 0 ∧ qpEnabled pairOwes 0 0 = true ∧ bitR pairOwes (Reg.QP_CONFIG 0 0) 31 = true
        ∧ hostOk pairOwes 0 (getR pairOwes (Reg.CQ_BASE 0 0) + (qpGet pairOwes 0 0).cqTail * 32) 32 = true) := by decide +kernel

/-- On the tray bus, alone in slot 0. -/
def onTray : State :=
  { setB (setB svc Reg.TRAY_STATUS 31 true) Reg.TRAY_CONTROL 29 true with tray := { svc.tray with joined := some 0 } }

theorem witness_FaultPortAndTrayControls :
    (svc.power.rest = .awake ∧ (inPhase .quiesced svc).faultSeq.phase = .quiesced ∧ isPf (.fn 0) = true ∧ isPf .mgmt = true)
    ∧ (svc.start.inReset = false ∧ quiescedNow svc = false ∧ bitR svc Reg.FAULT_STATUS 30 = false
      ∧ quiescedNow (setB svc Reg.FAULT_STATUS 31 true) = true)
    ∧ (portState svc 7 ≠ 5 ∧ bitR (setB svc (Reg.PORT_CONTROL 7) 31 false) (Reg.PORT_CONTROL 7) 31 = false ∧ (early svc || full svc) = true ∧ fabricOn (setB svc (Reg.PORT_CONTROL 7) 31 false) = true
      ∧ bitR (setB svc (Reg.PORT_CONTROL 0) 31 true) (Reg.PORT_CONTROL 0) 31 = true
      ∧ portState (setB svc (Reg.PORT_CONTROL 0) 31 true) 0 ≠ 5)
    ∧ (onTray.pins.aon = true ∧ onTray.start.inReset = false ∧ onTray.power.rest = .awake ∧ bitR onTray Reg.TRAY_CONTROL 31 = false
      ∧ onTray.tray.round = none ∧ baseCamp onTray = false ∧ mayTransmit onTray = true ∧ voteReason (memberMask onTray) onTray = 0
      ∧ bitR onTray Reg.TRAY_STATUS 30 = false ∧ bitR onTray Reg.TRAY_CONTROL 30 = false)
    ∧ (let s := setB onTray Reg.TRAY_STATUS 30 true
       bitR s Reg.TRAY_STATUS 30 = true ∧ mayTransmit s = true ∧ voteReason (memberMask s) s = 0 ∧ s.tray.round = none)
    ∧ votedYes svc = false := by decide +kernel
/-! ### Instances -/

/-- Stack 0 in service with its granules, and instance 1 in a state with generation 1. -/
def inst (st : Nat) : State := setR (setR bar (Reg.INST_STATE 1) (0x10000 + st)) (Reg.STACK_STATUS 0) 0x8000003B

/-- The shape of one tile group, one pair and every granule of stack 0. -/
def shape1 : ShapeArgs :=
  { inst := 31, queuePairs := 1, tileGroups := 0x80000000, pegSlots := 0, granules := [59, 0, 0, 0, 0, 0, 0, 0], decode := 0 }

/-- The record of instance 1 while it is frozen. -/
def ice : Frozen := { spill := 3, gen := 1, restored := none, qps := [] }

/-- Instance 1 frozen, and the physical function's object at 2 MiB. -/
def frozen1 : State := { inst 4 with frozen := [(1, ice)], objs := [(objKey 0 1, obj1)] }

/-- The same, with an image of instance 1 in that object. -/
def saved1 : State := { frozen1 with near := mwrite [] (frameAddr 0 0) (imageOf frozen1 1 ice) }

/-- An object of instance 1 under each handle. -/
def everyHandle (h : Nat) : Obj := { obj1 with fn := 1, handle := h, pages := [] }

/-- A part in which every handle of instance 1 is taken. -/
def fullTable : State := { inst 3 with objs := (upFrom 1 32767).map (fun h => (objKey 1 h, everyHandle h)) }

theorem witness_InstanceCreateTakesItsShape :
    let s := fetched (.instanceCreate hd0 shape1) (inst 0)
    Ready (.instanceCreate hd0 shape1) s ∧ 1 ≤ shape1.inst ∧ shape1.inst < 32 ∧ s.vfEnable = true ∧ full s = true
      ∧ instState s shape1.inst = 0 ∧ shapeOk shape1 = true ∧ inPools s shape1 = true ∧ freeOfPf s shape1 = true := by
  unfold Ready; decide +kernel

/-- The base state's functions have no work. -/
theorem idle_svc (f : Nat) (s : State) (t : s.taken.all (fun i => !takenOf f i) = true) (l : s.loads = []) (g : s.loading = none)
    (c : s.ctxs = []) (ch : s.chans = []) (d : s.decks = []) (r : s.runs = []) (p : s.places = []) : fnIdle s f := by
  refine ⟨?_, by simp [l], by simp [g], by simp [ctxsOf, c], by simp [ch], by simp [d], by simp [r], by simp [p]⟩
  intro i hi
  simpa using List.all_eq_true.1 t i hi

theorem witness_InstanceResets :
    ((1 : FnId) ≠ 0 ∧ fnIdle (inst 1) 1 ∧ fnIdle (inst 4) 1 ∧ instState (inst 1) 1 = 1 ∧ instState (inst 4) 1 = 4 ∧ resetOk (inst 1) = true)
    ∧ (Ready (.instanceReset hd0 1) (fetched (.instanceReset hd0 1) (inst 1)) ∧ fnIdle (fetched (.instanceReset hd0 1) (inst 1)) 1)
    ∧ (Ready (.instanceDestroy hd0 1) (fetched (.instanceDestroy hd0 1) (inst 4)) ∧ fnIdle (fetched (.instanceDestroy hd0 1) (inst 4)) 1)
    ∧ ((inst 2).faultSeq.phase ≠ .sequence ∧ fnQuiet (inst 2) 1 = true ∧ instState (inst 2) 1 = 2
      ∧ fnQuiet (inst 5) 1 = true ∧ instState (inst 5) 1 = 5) := by
  refine ⟨⟨by decide, ?_, ?_, by decide +kernel⟩, ⟨by unfold Ready; decide +kernel, ?_⟩, ⟨by unfold Ready; decide +kernel, ?_⟩, by decide +kernel⟩ <;>
    exact idle_svc _ _ (by decide +kernel) rfl rfl rfl rfl rfl rfl rfl

theorem witness_InstancesFreeze :
    (Ready (.instanceFreeze hd0 1) (fetched (.instanceFreeze hd0 1) (inst 1)) ∧ instState (fetched (.instanceFreeze hd0 1) (inst 1)) 1 = 1)
    ∧ (let s := { inst 3 with granOwner := [(0, 1)] }
       instState s 1 = 3 ∧ healthy s = true ∧ freezeReady s 1 = true ∧ freeHandle s 1 = some 1 ∧ fnStacks s 1 ≠ 0
        ∧ (createObj s { fn := 1, handle := 1, id := 0, owner := 0xFE, oflags := 0, keySlot := 0, format := 8, size := spillSize (takeSpill s 1),
                         first := 0, pages := [], state := 1, doneSeq := 0, result := 0, users := [], freed := false, record := none }
            0 (fnStacks s 1)).isSome = true) := by
  refine ⟨⟨by unfold Ready; decide +kernel, by decide +kernel⟩, by decide +kernel⟩

/-- A table made of one entry for each handle of a list has each of them. -/
theorem tget_handles (l : List Nat) (g : Nat → Obj) (k : Nat) (h : k ∈ l) :
    (tget (l.map (fun h => (objKey 1 h, g h))) (objKey 1 k)).isSome = true := by
  unfold tget
  rw [Option.isSome_map, List.find?_isSome]
  exact ⟨_, List.mem_map.2 ⟨k, h, rfl⟩, by simp⟩

theorem full_freeHandle (g : Nat → Obj) (s : State) (e : s.objs = (upFrom 1 32767).map (fun h => (objKey 1 h, g h))) :
    freeHandle s 1 = none := by
  unfold freeHandle
  rw [List.find?_eq_none]
  intro k hk
  have a := tget_handles _ g k hk
  rw [← e] at a
  have b : ¬(k = 0 ∨ 32768 ≤ k) := by
    simp only [upFrom, List.mem_map, List.mem_range] at hk
    omega
  simp only [objGet, if_neg b]
  cases h : tget s.objs (objKey 1 k) <;> simp_all

theorem fullTable_objs : fullTable.objs = (upFrom 1 32767).map (fun h => (objKey 1 h, everyHandle h)) := by
  simp only [fullTable]

theorem witness_InstancesFreeze_full :
    instState fullTable 1 = 3 ∧ healthy fullTable = true ∧ freezeReady fullTable 1 = true ∧ freeHandle fullTable 1 = none :=
  ⟨by decide +kernel, by decide +kernel, by decide +kernel, full_freeHandle everyHandle fullTable fullTable_objs⟩

theorem witness_ImagesAndThaw :
    (let s := fetched (.instanceSave hd0 1 (pageSize) 95) frozen1
     Ready (.instanceSave hd0 1 pageSize 95) s ∧ instState s 1 = 4 ∧ tget s.frozen 1 = some ice ∧ 95 < (imageOf s 1 ice).length)
    ∧ (let s := fetched (.instanceSave hd0 1 (pageSize) 96) frozen1
       Ready (.instanceSave hd0 1 pageSize 96) s ∧ instState s 1 = 4 ∧ tget s.frozen 1 = some ice ∧ (imageOf s 1 ice).length ≤ 96
        ∧ (devWrite 0 pageSize (imageOf s 1 ice) (took (.instanceSave hd0 1 pageSize 96) s)).2 = 0)
    ∧ (let c : Instr := .instanceRestore hd0 1 pageSize 96
       let s := fetched c saved1
       let img := (devRead 0 pageSize (min 96 0x40000) (took c s)).2.2
       let s1 := (devRead 0 pageSize (min 96 0x40000) (took c s)).1
       Ready c s ∧ tget s.frozen 1 = some ice ∧ frozenEmpty s 1 ice = true ∧ (devRead 0 pageSize (min 96 0x40000) (took c s)).2.1 = 0
        ∧ fieldAt img 0 4 = 0x4953584A ∧ 64 ≤ fieldAt img 8 4 ∧ fieldAt img 8 4 ≤ img.length ∧ fieldAt img 5 1 = 1 ∧ fieldAt img 4 1 = 0
        ∧ fieldAt img 12 4 = crc32c (slice img 0 12 ++ slice img 16 (fieldAt img 8 4 - 16)) ∧ shapeHolds s1 1 (slice img 16 32) = true
        ∧ fieldAt img 0x38 4 ≤ (tgetD s1.farPool 1 []).length ∧ (restoreImage 1 ice (img.take (fieldAt img 8 4)) s1).isOk = true)
    ∧ (let s := fetched (.instanceThaw hd0 1) frozen1
       Ready (.instanceThaw hd0 1) s ∧ instState s 1 = 4 ∧ tget s.frozen 1 = some ice) := by
  unfold Ready; decide +kernel

/-! ### Objects, memory and placement -/

/-- A well-formed OBJECT_CREATE of one page in stack 0. -/
def create1 : ObjectArgs := { oflags := 0, keySlot := 0, format := 8, tier := 0, stackMask := 1, objectId := 5, size := 2097152 }

/-- Stack 0 in the pool and the object of handle 1 there. -/
def store0 : State := { inst 0 with objs := [(objKey 0 1, obj1)] }

/-- The same with one registered far page. -/
def farStore : State := { store0 with farPool := [(0, [0])] }

/-- The object of handle 1 in the far store. -/
def objFar : Obj := { obj1 with pages := [.far 0] }

/-- Placement entry 1 of the physical function asking for stack 0 in the near store. -/
def asksNear (s : State) : State := { s with ptab := mwrite [] (64 + 0x22) [0#8, 1#8, 0#8, 0#8] }

theorem witness_ObjectsAndFarPages :
    (let c : Instr := .objectCreate hd0 create1
     let s := fetched c store0
     Ready c s ∧ 0 < create1.size ∧ fmtOk create1.format = true ∧ create1.oflags.testBit 0 = false ∧ create1.oflags < 32 ∧ create1.tier ≤ 1
      ∧ create1.stackMask ≠ 0 ∧ create1.objectId ≠ 0 ∧ freeHandle s 0 = some 2
      ∧ (∀ st ∈ bitPositions 8 create1.stackMask, fnGranules s 0 st ≠ []) ∧ freeRun s 0 (ceilDiv create1.size pageSize) = some 2
      ∧ placePages s 0 (wants create1.tier create1.stackMask (ceilDiv create1.size pageSize)) = some [.near 0 1])
    ∧ (let a := { create1 with tier := 1, stackMask := 0 }
       let c : Instr := .objectCreate hd0 a
       let s := fetched c farStore
       Ready c s ∧ freeHandle s 0 = some 2 ∧ freeRun s 0 1 = some 2 ∧ placePages s 0 (wants a.tier a.stackMask 1) = some [.far 0])
    ∧ (let c : Instr := .objectFree hd0 1
       let s := fetched c store0
       Ready c s ∧ objGet s 0 1 = some obj1 ∧ obj1.freed = false ∧ obj1.owner = 0xFF ∧ obj1.users = [] ∧ frozenObj s 0 1 = false
        ∧ s.places = [] ∧ s.runs = [])
    ∧ (let o := { obj1 with owner := 5, users := [5] }
       let c : Instr := .objectFree hd0 1
       let s := fetched c { store0 with objs := [(objKey 0 1, o)] }
       Ready c s ∧ objGet s 0 1 = some o ∧ o.owner ≠ 0xFE ∧ (o.owner ≠ 0xFF ∨ o.users ≠ []))
    ∧ (let c : Instr := .farPool hd0 1 0x1000
       let s := fetched c { store0 with host := mwrite [] (hostKey 0 0x1000) [0#8, 0#8, 0x20#8] }
       Ready c s ∧ 0 < 1 ∧ (tgetD s.farPool 0 []).length + 1 ≤ 4194304 ∧ hostOk s 0 0x1000 (8 * 1) = true
        ∧ leNat (hostRead s 0 (0x1000 + 8 * 0) 8) % pageSize = 0) := by
  unfold Ready
  refine ⟨?_, ?_, ?_, ?_, ?_⟩ <;> decide +kernel

/-- A DMA of 4 bytes under way: from host memory to the object, or the other way. -/
def dma1 (dir : Nat) : Dma :=
  { hdr := hd0, dir := dir, len := 4, src := if dir = 0 then 0x1000 else pageSize, dst := if dir = 0 then 0x2FFFFC + 0x100000 else 0x1000, req := 0 }

theorem witness_DmaMovesBytes :
    (let c : Instr := .dma hd0 0 4 0x1000 pageSize
     let s := fetched c store0
     Ready c s ∧ (∀ r ∈ dmaRanges 0 4 0x1000 pageSize, mapped s 0 r.1 r.2 = true))
    ∧ (let s := { store0 with dmas := [dma1 0] }
       s.dmas.find? (fun d => d.hdr.fn.val == 0 && d.hdr.qp == 0 && d.hdr.cid == 1) = some (dma1 0) ∧ awake s = true
        ∧ s.faultSeq.phase ≠ .sequence ∧ (dma1 0).hdr.gen = genOf s 0 ∧ 0 < (dma1 0).len ∧ hostOk s 0 (dma1 0).src (dma1 0).len = true
        ∧ devAt s 0 (dma1 0).dst = .near (pageSize - 4) ∧ (dma1 0).dst % pageSize + (dma1 0).len ≤ pageSize
        ∧ frozenIn s 0 (dma1 0).dst (dma1 0).len = none ∧ stagedIn s 0 (dma1 0).dst (dma1 0).len = none
        ∧ mayServe s (dma1 0).req = true ∧ (∀ k ∈ sitesOf s (dmaSpans s (dma1 0)), portFree s k = true))
    ∧ (let s := { store0 with dmas := [dma1 1] }
       let r := devRead 0 (dma1 1).src (dma1 1).len (leave (dma1 1).req { s with dmas := s.dmas.erase (dma1 1) })
       s.dmas.find? (fun d => d.hdr.fn.val == 0 && d.hdr.qp == 0 && d.hdr.cid == 1) = some (dma1 1) ∧ (dma1 1).dir = 1
        ∧ mayServe s (dma1 1).req = true ∧ (∀ k ∈ sitesOf s (dmaSpans s (dma1 1)), portFree s k = true)
        ∧ hostOk s 0 (dma1 1).dst (dma1 1).len = true ∧ r.2.1 = 0 ∧ hostOk r.1 0 (dma1 1).dst (dma1 1).len = true) := by
  unfold Ready
  refine ⟨?_, ?_, ?_⟩ <;> decide +kernel

/-- The pages of an object that do not lie where a mask asks. -/
def misplaced (o : Obj) (mask : Nat) : List Nat :=
  (List.range o.pages.length).filter (fun (k : Nat) => match (o.pages[k]? : Option PageLoc) with
    | some (.near st _) => st != stackFor mask k
    | some (.far _) => true
    | none => false)

/-- A placement request of the object with one page to move, or in copy. -/
def move1 (copying : Bool) : PlaceReq :=
  { hdr := hd0, fn := 0, handle := 1, tier := 0, mask := 1, seq := 0, checked := true, moves := if copying then [] else [(0, .near 0 3)],
    copying := if copying then [(0, .near 0 3, 0), (1, .near 0 4, 1)] else [], superseded := false }

theorem witness_PlacementMovesPages :
    (let c : Instr := .place hd0 1
     let s := fetched c (asksNear store0)
     Ready c s ∧ objGet s 0 1 = some obj1 ∧ reqFields s 0 1 = (0, 1, 0)
      ∧ (∀ st ∈ bitPositions 8 1, stackOn s st = true ∧ fnGranules s 0 st ≠ []) ∧ misplaced obj1 1 = [])
    ∧ (let c : Instr := .place hd0 1
       let s := fetched c (asksNear { farStore with objs := [(objKey 0 1, objFar)] })
       Ready c s ∧ s.places = [] ∧ objGet s 0 1 = some objFar ∧ reqFields s 0 1 = (0, 1, 0)
        ∧ (∀ st ∈ bitPositions 8 1, stackOn s st = true ∧ fnGranules s 0 st ≠ []) ∧ misplaced objFar 1 ≠ []
        ∧ placePages s 0 ((misplaced objFar 1).map (fun k => some (stackFor 1 k))) = some [.near 0 0])
    ∧ (let s := setR { store0 with places := [move1 false] } Reg.MIGRATING 63
       getR s Reg.MIGRATING < 64 ∧ awake s = true ∧ healthy s = true
        ∧ s.places.find? (fun r => !r.moves.isEmpty && fnActive s r.fn) = some (move1 false) ∧ (move1 false).moves = [(0, .near 0 3)])
    ∧ (let s := { store0 with places := [move1 true] }
       s.places.find? (fun r => r.fn == 0 && r.handle == 1) = some (move1 true) ∧ objGet s 0 1 = some obj1
        ∧ (move1 true).copying.find? (fun m => m.1 == 0) = some (0, .near 0 3, 0) ∧ mayServe s 0 = true ∧ obj1.pages[0]? = some (.near 0 0)
        ∧ s.faultSeq.phase = .none ∧ pageDev s 0 (.near 0 0) 0 = .near 0 ∧ 2 ≤ (move1 true).copying.length
        ∧ Memory.wf s.near = true ∧ Memory.wf s.tileStore = true ∧ Memory.wf s.host = true ∧ Memory.wf s.ptab = true) := by
  unfold Ready
  refine ⟨?_, ?_, ?_, ?_⟩ <;> decide +kernel

/-- An unscheduled request of the physical function of the least overdue age. -/
def late1 : Unsched := { id := 4, group := 7, fn := 0, ticket := 0, overdue := false, path := .near, keys := [], whole := false }

theorem witness_MemoryEvents :
    (({ svc with timeBase := 16384, uns := [late1] } : State).uns.find?
        (fun u => u.id == 4 && !u.overdue && 16384 ≤ ageOf { svc with timeBase := 16384, uns := [late1] } u) = some late1)
    ∧ (inService svc = true ∧ healthy svc = true ∧ svc.power.rest = .awake ∧ svc.start.inReset = false)
    ∧ [84, 85, 255, 256, 0, 1, 2, 3].length = 8
    ∧ (bitR (setB svc Reg.SCRUB_CONTROL 31 true) Reg.SCRUB_CONTROL 31 = true ∧ svc.errs = []) := by decide +kernel

/-! ### Pitches and contexts -/

/-- A pitch for logical tile 0 with these figures, without a sweep plan. -/
def pitchOf (figs : List Fig) : Pitch :=
  { flags := 0, pitchId := 1, seed := 0, tileMap := 1#8 :: List.replicate 511 0#8, routes := [], arrays := [], objs := [],
    figures := [(0, figs.map encodeFig)], budgets := [], sweep := none, votes := [], engines := 0 }

/-- What a context holds on site 0, in slot 3. -/
def tile0 : TileCtx := TileCtx.fresh 3

/-- A resident context of the physical function with a pitch, on site 0. -/
def ctxWith (p : Pitch) (t : TileCtx) : Ctx :=
  { fn := 0, hdr := hd0, addr := 0, len := 64, digest := [], pitch := p, started := false, ended := false, unload := none,
    replacedBy := [], replaces := none, handles := [], freezing := false, tiles := [(0, t)] }

/-- Context 63 resident with a pitch. -/
def resident (p : Pitch) (t : TileCtx) : State :=
  { setR svc (Reg.CTX_ID 0 3) (2 ^ 31 + 63 * 2 ^ 16) with ctxs := [(63, ctxWith p t)], ctxFn := [(63, 0)] }

/-- A pitch of one figure. -/
def endPitch : Pitch := pitchOf [.endStep true 0]

/-- A load that read that pitch. -/
def load1 : Loading :=
  { req := { hdr := hd0, at_ := 0, addr := pageSize, len := 64, replaces := none, takesOver := false }, code := 0, sect := 0, detail := 0, pitch := some endPitch,
    digest := [], began := 0 }

theorem witness_LoadsBecomeResident :
    (Ready (.loadPitch hd0 64 pageSize) (fetched (.loadPitch hd0 64 pageSize) store0))
    ∧ (let c : Instr := .replace hd0 63 64 pageSize
       let s := fetched c (resident endPitch tile0)
       Ready c s ∧ ctxOf s 0 63 = some (ctxWith endPitch tile0))
    ∧ (let s := { store0 with loads := [load1.req] }
       s.loads = [load1.req] ∧ s.loading = none ∧ healthy s = true ∧ awake s = true ∧ bitR s Reg.MAINT_HOLDERS 1 = false
        ∧ loadBefore s load1.req.hdr = false ∧ (readPitch 0 pageSize 64 { s with loads := [] }).2.1 = 0)
    ∧ (let s := { svc with loading := some load1 }
       s.loading = some load1 ∧ load1.pitch = some endPitch ∧ healthy s = true ∧ s.power.rest = .awake ∧ freeCtx s = some 0
        ∧ (checkPlace { s with loading := none } 0 0 endPitch).isOk = true ∧ endPitch.flags.testBit 3 = false)
    ∧ (let p := { endPitch with tileMap := List.replicate 511 0#8 ++ [1#8] }
       (checkPlace svc 0 0 p).isOk = false)
    ∧ (let s := { svc with ctxs := (List.range 64).map (fun c => (c, { ctxWith endPitch tile0 with tiles := [] })),
                           lastUnit := [(Pool.contexts.num, (0, qpKey 0 1))] }
       freeCtx s = none ∧ (errOf (checkPlace s 0 0 endPitch)).map (·.code) = some 0x15 ∧ lostTie s .contexts load1.req.at_ hd0 = true) := by
  unfold Ready
  refine ⟨?_, ?_, ?_, ?_, ?_, ?_⟩ <;> decide +kernel

/-- The context's tile 0 with one count in token 29. -/
def tileTok : TileCtx := { tile0 with t := [(29, 254)] }

/-- The context under an unload in DRAIN, not started. -/
def leaving (n : Option Nat) : Ctx := { ctxWith endPitch tile0 with unload := some (0, [hd0]), replacedBy := n.toList }

/-- A state with the context leaving, and maybe a successor. -/
def leavingIn (n : Option Nat) : State :=
  { resident endPitch tile0 with
    ctxs := (match n with | some k => [(k, { ctxWith endPitch tile0 with replaces := some 63 })] | none => []) ++ [(63, leaving n)]
    ctxFn := (match n with | some k => [(k, 0)] | none => []) ++ [(63, 0)] }

/-- Contexts of one tile in a slot below 4 are in range. -/
theorem ctxsWf_of (s : State) (h : s.ctxs.all (fun e => decide (e.1 < 64) && e.2.tiles.all (fun t => decide (t.2.slot < 4))) = true) :
    ContextsWf s := by
  intro c x hx
  simp only [ctxGet, tget, Option.map_eq_some_iff] at hx
  obtain ⟨e, he, rfl⟩ := hx
  have hm := List.mem_of_find?_eq_some he
  have hk := List.find?_some he
  have ha := List.all_eq_true.1 h e hm
  simp only [Bool.and_eq_true, decide_eq_true_eq, beq_iff_eq] at ha hk
  refine ⟨hk ▸ ha.1, fun site t ht => ?_⟩
  simp only [tget, Option.map_eq_some_iff] at ht
  obtain ⟨f, hf, rfl⟩ := ht
  simpa using List.all_eq_true.1 ha.2 f (List.mem_of_find?_eq_some hf)

theorem witness_ContextsRunAndLeave :
    (let c : Instr := .start hd0 { ctx := 63, use := 3, step := 0, lossScale := 0x3F800000, goodSteps := 0 }
     let s := fetched c (resident endPitch tile0)
     Ready c s ∧ ContextsWf s ∧ ctxOf s 0 63 = some (ctxWith endPitch tile0) ∧ lossScaleOk 0x3F800000 = true)
    ∧ (let s := resident endPitch tileTok
       ctxOf s 0 63 = some (ctxWith endPitch tileTok) ∧ siteOfTile s 0 = some 0 ∧ tget (ctxWith endPitch tileTok).tiles 0 = some tileTok
        ∧ tokGet tileTok 29 + 1 ≤ 255 ∧ 255 < tokGet tileTok 29 + 2
        ∧ Ready (.post hd0 63 29 0 1) (fetched (.post hd0 63 29 0 1) s) ∧ Ready (.post hd0 63 29 0 2) (fetched (.post hd0 63 29 0 2) s))
    ∧ (let s := fetched (.unload hd0 63 1) (resident endPitch tile0)
       Ready (.unload hd0 63 1) s ∧ ctxOf s 0 63 = some (ctxWith endPitch tile0) ∧ serveGet s 63 = none)
    ∧ (let s := leavingIn none
       ctxGet s 63 = some (leaving none) ∧ healthy s = true ∧ awake s = true ∧ unloadReady s 63 (leaving none) = true
        ∧ (leaving none).replacedBy = [])
    ∧ (let s := leavingIn (some 2)
       ctxGet s 63 = some (leaving (some 2)) ∧ healthy s = true ∧ unloadReady s 63 (leaving (some 2)) = true
        ∧ 2 ∈ (leaving (some 2)).replacedBy ∧ 2 ≠ 63 ∧ (ctxGet s 2).isSome = true) := by
  unfold Ready
  refine ⟨⟨by decide +kernel, ctxsWf_of _ (by decide +kernel), by decide +kernel⟩, ?_, ?_, ?_, ?_⟩ <;> decide +kernel

/-! ### Figures -/

/-- The whole tile store of logical tile 0 as one region. -/
def region0 : ObjRec :=
  { id := 1, kind := 0, oflags := 0, keySlot := 0, format := 8, size := 0x400000, tile := 0, banks := 0xFFFF, offset := 0, tier := 0,
    stackMask := 0 }

/-- A device object of one page, raw or flagged. -/
def page1 (fl : Nat) : ObjRec := { region0 with id := 2, kind := 1, oflags := fl, size := 2097152, banks := 0, stackMask := 1 }

/-- Array 3 of logical tile 0, every mode, all of its rows and entries. -/
def array3 : ArrRec := { tile := 0, arr := 3, modes := 0x3F, accBase := 0, accCount := 512, chBase := 0, chCount := 4096 }

/-- A route between tiles 0 and 1. -/
def route01 (id : Nat) (back : Bool) : Route :=
  { id := id, src := if back then 1 else 0, dst := if back then 0 else 1, path := 0, slotMask := 1, flits := 2, deadline := 100 }

/-- A pitch of one figure and an END_STEP, with a region, an object, an array and two routes. -/
def workPitch (f : Fig) (fl : Nat) : Pitch :=
  { pitchOf [f, .endStep true 0] with
    objs := [region0, page1 fl], arrays := [array3], routes := [route01 5 false, route01 6 true], flags := 0 }

/-- A started context at a figure: context 63 runs on site 0 in slot 3. -/
def workCtx (p : Pitch) (t : TileCtx) : Ctx := { ctxWith p t with started := true, handles := [0, 1] }

/-- The state in which that figure is next. -/
def working (p : Pitch) (t : TileCtx) : State :=
  { svc with
    regs := (Reg.CTX_STATE 0 3, 0x20000000#64) :: (Reg.CTX_ID 0 3, 0x803F0000#64)
      :: (Reg.TILE_POWER 0, 0#64) :: (Reg.TILE_FITNESS 0, 0x40000000#64) :: svc.regs
    ctxs := [(63, workCtx p t)], ctxFn := [(63, 0)], sites := [(0, { Site.fresh with active := some 63, lastYield := 63 })] }

/-- What the issue of its figure works on. -/
def envOf (p : Pitch) (t : TileCtx) (f : Fig) : Env :=
  { site := 0, l := 0, c := 63, x := workCtx p t, t := t, fig := f, word := encodeFig f, index := 0 }

/-- A figure issues from the small state. -/
def issues (f : Fig) (fl : Nat) (t : TileCtx) : Bool :=
  nextIssue (working (workPitch f fl) t) 0 == some (envOf (workPitch f fl) t f) && decide (inFlight (working (workPitch f fl) t) 0 < 16)
    && (working (workPitch f fl) t).errs == []

/-- That is the first hypothesis of the statements about figures. -/
theorem issues_of (f : Fig) (fl : Nat) (t : TileCtx) (h : issues f fl t = true) (st : t.slot < 4) :
    Issues (working (workPitch f fl) t) 0 (envOf (workPitch f fl) t f) := by
  simp only [issues, Bool.and_eq_true, beq_iff_eq, decide_eq_true_eq] at h
  exact ⟨h.1.1, (by show 63 < 64; decide), st, h.1.2, h.2⟩

/-- A figure's ranges let it fly from the small state. -/
def flies (f : Fig) (fl : Nat) (t : TileCtx) (reads writes : List (Nat × Nat)) : Prop :=
  MayFly (working (workPitch f fl) t) (envOf (workPitch f fl) t f) reads writes

/-- One figure in flight on site 0. -/
def flying (w : Work) : Flight := { id := 7, ctx := 63, work := w, due := 0, reads := [], writes := [], post := none }

/-- The state with that flight. -/
def withFlight (w : Work) (fl : Nat) : State :=
  let s := working (workPitch (.wait 0 1) fl) tile0
  { s with sites := [(0, { Site.fresh with active := some 63, flights := [flying w] })], objs := [(objKey 0 1, obj1)] }

/-- The flight is due. -/
def isDue (w : Work) (fl : Nat) : Bool :=
  flightOf (withFlight w fl) 0 7 == some (flying w) && healthy (withFlight w fl) && (flying w).due ≤ (withFlight w fl).cycle

theorem due_of (w : Work) (fl : Nat) (h : isDue w fl = true) : Due (withFlight w fl) 0 7 (flying w) := by
  simp only [isDue, Bool.and_eq_true, beq_iff_eq, decide_eq_true_eq] at h
  exact ⟨h.1.1, h.1.2, h.2⟩

theorem witness_ArgumentAndTokenFigures :
    Issues (working (workPitch (.set 15 0xFFFFF) 0) tile0) 0 (envOf (workPitch (.set 15 0xFFFFF) 0) tile0 (.set 15 0xFFFFF))
    ∧ Issues (working (workPitch (.addg 0 0xFFFFF) 0) tile0) 0 (envOf (workPitch (.addg 0 0xFFFFF) 0) tile0 (.addg 0 0xFFFFF))
    ∧ Issues (working (workPitch (.repeatBody 0 1) 0) tile0) 0 (envOf (workPitch (.repeatBody 0 1) 0) tile0 (.repeatBody 0 1))
    ∧ (Issues (working (workPitch (.wait 29 254) 0) tileTok) 0 (envOf (workPitch (.wait 29 254) 0) tileTok (.wait 29 254))
      ∧ 254 ≤ tokGet tileTok 29)
    ∧ (Issues (working (workPitch (.wait 29 255) 0) tileTok) 0 (envOf (workPitch (.wait 29 255) 0) tileTok (.wait 29 255))
      ∧ tokGet tileTok 29 < 255 ∧ (siteGet (working (workPitch (.wait 29 255) 0) tileTok) 0).hold = none)
    ∧ (Issues (working (workPitch (.post false 29 0) 0) tileTok) 0 (envOf (workPitch (.post false 29 0) 0) tileTok (.post false 29 0))
      ∧ tokGet tileTok 29 < 255)
    ∧ (Issues (working (workPitch (.post true 0 5) 0) tile0) 0 (envOf (workPitch (.post true 0 5) 0) tile0 (.post true 0 5))
      ∧ routeOf (workPitch (.post true 0 5) 0) 5 = some (route01 5 false) ∧ endsAt (route01 5 false).src 0 = true
      ∧ (route01 5 false).dst.testBit 15 = false)
    ∧ (let s := withFlight (.remotePost 6 0) 0
       Due s 0 7 (flying (.remotePost 6 0)) ∧ (flying (.remotePost 6 0)).post = none
        ∧ ctxGet s 63 = some (workCtx (workPitch (.wait 0 1) 0) tile0) ∧ routeOf (workPitch (.wait 0 1) 0) 6 = some (route01 6 true)
        ∧ tget s.siteMap ((route01 6 true).dst % 512) = some 0 ∧ tokGet tile0 0 < 255) := by
  refine ⟨issues_of _ _ _ (by decide +kernel) (by decide), issues_of _ _ _ (by decide +kernel) (by decide),
    issues_of _ _ _ (by decide +kernel) (by decide), ⟨issues_of _ _ _ (by decide +kernel) (by decide), by decide +kernel⟩,
    ⟨issues_of _ _ _ (by decide +kernel) (by decide), by decide +kernel⟩,
    ⟨issues_of _ _ _ (by decide +kernel) (by decide), by decide +kernel⟩,
    ⟨issues_of _ _ _ (by decide +kernel) (by decide), by decide +kernel⟩, ⟨due_of _ _ (by decide +kernel), by decide +kernel⟩⟩

/-- The tile asleep until cycle 100. -/
def asleep : TileCtx := { tile0 with sleep := some 100 }

/-- The same step begun at cycle 0, at a cycle of the part. -/
def atCycle (n : Nat) (s : State) : State := { s with cycle := n }

theorem witness_StepFiguresAndSleepingTiles :
    (Issues (working (workPitch (.sleep true 1) 0) tile0) 0 (envOf (workPitch (.sleep true 1) 0) tile0 (.sleep true 1))
      ∧ (working (workPitch (.sleep true 1) 0) tile0).cycle < 0 + 1)
    ∧ (Issues (working (workPitch (.sleep false 0) 0) tile0) 0 (envOf (workPitch (.sleep false 0) 0) tile0 (.sleep false 0))
      ∧ tile0.stepStart + 0 = (working (workPitch (.sleep false 0) 0) tile0).cycle)
    ∧ (Issues (atCycle 9 (working (workPitch (.sleep false 8) 0) tile0)) 0 (envOf (workPitch (.sleep false 8) 0) tile0 (.sleep false 8))
      ∧ tile0.stepStart + 8 < (atCycle 9 (working (workPitch (.sleep false 8) 0) tile0)).cycle)
    ∧ (let s := working (workPitch (.sleep false 8) 0) asleep
       sleepOf s 0 = some (63, 100) ∧ s.cycle < 100 ∧ tileState s 0 = 0 ∧ (siteGet s 0).upUntil ≤ s.cycle ∧ computing (siteGet s 0) = false
        ∧ sleepOf (atCycle 100 s) 0 = some (63, 100) ∧ 100 ≤ (atCycle 100 s).cycle ∧ healthy (atCycle 100 s) = true)
    ∧ Issues (working (workPitch (.vote true 31 3) 0) tile0) 0 (envOf (workPitch (.vote true 31 3) 0) tile0 (.vote true 31 3))
    ∧ (let p := workPitch (.endStep false 1) 0
       let s := { working p tile0 with sites := [(0, { Site.fresh with active := some 63, flights := [flying (.vector [])] })] }
       Issues s 0 (envOf p tile0 (.endStep false 1)) ∧ (∃ f ∈ (siteGet s 0).flights, f.ctx = 63) ∧ (siteGet s 0).hold = none)
    ∧ (Issues (working (workPitch (.endStep false 0) 0) tile0) 0 (envOf (workPitch (.endStep false 0) 0) tile0 (.endStep false 0))
      ∧ (∀ f ∈ (siteGet (working (workPitch (.endStep false 0) 0) tile0) 0).flights, f.ctx ≠ 63))
    ∧ (Issues (working (workPitch (.endStep true 0) 0) tile0) 0 (envOf (workPitch (.endStep true 0) 0) tile0 (.endStep true 0))
      ∧ (∀ f ∈ (siteGet (working (workPitch (.endStep true 0) 0) tile0) 0).flights, f.ctx ≠ 63)) := by
  unfold Issues
  refine ⟨?_, ?_, ?_, ?_, ?_, ?_, ?_, ?_⟩ <;> decide +kernel

/-- The context parked on a token, which has come. -/
def parked : TileCtx := { tile0 with park := some (.token 4 2), t := [(4, 3)] }

/-- Its tile free, last left by it or by another. -/
def yielded (last : Nat) : State :=
  let s := working (workPitch (.wait 0 1) 0) parked
  { s with regs := (Reg.CTX_STATE 0 3, 0x30040000#64) :: s.regs, sites := [(0, { Site.fresh with lastYield := last })] }

theorem witness_YieldAndSwitch :
    (Issues (working (workPitch (.yieldToken 31 255) 0) tile0) 0 (envOf (workPitch (.yieldToken 31 255) 0) tile0 (.yieldToken 31 255))
      ∧ feedersLeft (working (workPitch (.yieldToken 31 255) 0) tile0) 0 63 = true)
    ∧ (Issues (working (workPitch (.yieldTime 9) 0) tile0) 0 (envOf (workPitch (.yieldTime 9) 0) tile0 (.yieldTime 9))
      ∧ feedersLeft (working (workPitch (.yieldTime 9) 0) tile0) 0 63 = true)
    ∧ (let s := yielded 63
       tileOfSite s 0 = some 0 ∧ (siteGet s 0).active = none ∧ (yieldOrder s 0).find? (qualifies s 0) = some 63
        ∧ ctxGet s 63 = some (workCtx (workPitch (.wait 0 1) 0) parked) ∧ healthy s = true
        ∧ tilePowered s (workPitch (.wait 0 1) 0) 0 = true ∧ parked.park = some (.token 4 2) ∧ ctxStateAt s 63 0 = 3
        ∧ 63 = (siteGet s 0).lastYield)
    ∧ (let s := yielded 1
       (yieldOrder s 0).find? (qualifies s 0) = some 63 ∧ ctxStateAt s 63 0 = 3 ∧ 63 ≠ (siteGet s 0).lastYield)
    ∧ (let h : Hold := { kind := 4, since := 0, raised := false }
       let s := { setR svc (Reg.STALL_LIMIT 0) 1 with cycle := 2, sites := [(0, { Site.fresh with hold := some h })] }
       (siteGet s 0).hold = some h ∧ h.kind = 4 ∧ getR s (Reg.STALL_LIMIT 0) ≠ 0 ∧ getR s (Reg.STALL_LIMIT 0) < s.cycle - h.since) := by
  unfold Issues
  refine ⟨?_, ?_, ?_, ?_, ?_⟩ <;> decide +kernel

theorem witness_YieldAndSwitch_range : ContextsWf (yielded 63) ∧ ContextsWf (yielded 1) :=
  ⟨ctxsWf_of _ (by decide +kernel), ctxsWf_of _ (by decide +kernel)⟩

/-- Arguments: G1 = 64 as a scale address, G2 = 4 entries or a count. -/
def tileArgs : TileCtx := { tile0 with g := [(2, 4), (3, 1), (4, 1)] }

theorem witness_LoadAndTableFigures :
    (let f : Fig := .load 3 0 true true 0
     let r : LoadRec := { mode := 0, wvar := true, scales := true, pack1 := 0, pack2 := 0, scaleAddr := 4 }
     Issues (working (workPitch f 0) tileArgs) 0 (envOf (workPitch f 0) tileArgs f) ∧ frame tileArgs f = [0, 0, 4]
      ∧ arrRec (workPitch f 0) 0 3 = some array3 ∧ array3.modes.testBit 0 = true ∧ feederFree (working (workPitch f 0) tileArgs) 0 3 = true
      ∧ loaderBusy (siteGet (working (workPitch f 0) tileArgs) 0) 3 = false ∧ flies f 0 tileArgs (loadReads r) [])
    ∧ (let f : Fig := .table 3 0
       Issues (working (workPitch f 0) tileArgs) 0 (envOf (workPitch f 0) tileArgs f) ∧ frame tileArgs f = [0, 0, 4]
        ∧ array3.chBase ≤ 0 ∧ 0 + 4 ≤ array3.chBase + array3.chCount ∧ loaderBusy (siteGet (working (workPitch f 0) tileArgs) 0) 3 = false
        ∧ streamHazard (siteGet (working (workPitch f 0) tileArgs) 0) 3 0 4 0 1 = false ∧ (working (workPitch f 0) tileArgs).cycle = 0 ∧ flies f 0 tileArgs [(0, ceilDiv 4 4)] [])
    ∧ (let b : Latch := { ctx := 63, mode := 0, wvar := false, scales := false, w := [], cs := [] }
       Due (withFlight (.load 3 b) 0) 0 7 (flying (.load 3 b)))
    ∧ Due (withFlight (.table 3 4095 [(1, 2)]) 0) 0 7 (flying (.table 3 4095 [(1, 2)])) := by
  unfold Issues flies MayFly
  refine ⟨by decide +kernel, by decide +kernel, due_of _ _ (by decide +kernel), due_of _ _ (by decide +kernel)⟩

/-- The context has latched an INT8 block in array 3. -/
def latched : TileCtx :=
  { tile0 with
    g := [(1, 511 * 512), (4, 200)]
    loads := [(3, { mode := 1, wvar := false, scales := false, pack1 := 64, pack2 := 0, scaleAddr := 0 })] }

/-- That block. -/
def int8Block : Latch :=
  { ctx := 63, mode := 1, wvar := false, scales := false, w := List.replicate 32 (List.replicate 32 1), cs := List.replicate 32 127 }

/-- A one-beat stream through array 3 into row 511, emitted. -/
def stream1 : Fig := .stream 8 false false true true false 5 0

/-- The same, with its data from the flits of route 6. -/
def stream2 : Fig := .stream 8 true false true true false 5 0

/-- The state in which it is next. -/
def porting : State :=
  let s := working (workPitch stream2 0) { latched with g := [(0, 6), (1, 511 * 512), (4, 200)] }
  { s with sites := [(0, { Site.fresh with active := some 63, arrs := [(3, { Arr.fresh with latch := some int8Block })] })] }

/-- A stream of one beat from route 6, with so many of its flits come. -/
def port1 (got : Nat) : PortStream :=
  { fig := stream2, args := [6, 0, 0, 0, 0], route := 6, need := 1, got := got, mode := 1, ents := [], writes := [(0, [1#8])],
    fed := if got = 0 then [] else [0] }

/-- The state in which it is next. -/
def streaming : State :=
  let s := working (workPitch stream1 0) latched
  { s with sites := [(0, { Site.fresh with active := some 63, arrs := [(3, { Arr.fresh with latch := some int8Block })] })] }

theorem witness_StreamFigures :
    (let e := envOf (workPitch stream1 0) latched stream1
     let fr := frame latched stream1
     let mode0 := ((arraysOf 8).filterMap (fun a => (blockFor streaming e a).map (·.mode))).head?
     Issues streaming 0 e ∧ mode0 = some 1
      ∧ (∀ ka ∈ List.zip (List.range (arraysOf 8).length) (arraysOf 8),
          streamCode streaming e mode0 (streamArgs stream1 fr ka.1) (streamBeats fr) ka.2 = none)
      ∧ nth fr 1 < 2 ^ 18 ∧ nth fr 2 < 2 ^ 12
      ∧ (∀ a ∈ arraysOf 8, feederFree streaming 0 a = true ∧ blockLoading (siteGet streaming 0) a = false)
      ∧ MayFly streaming e (streamReads stream1 fr 1) (streamDests stream1 fr 1))
    ∧ (Due (withFlight (.stream [3] 1 [(0, [1#8])] []) 0) 0 7 (flying (.stream [3] 1 [(0, [1#8])] []))
      ∧ tileOfSite (withFlight (.stream [3] 1 [(0, [1#8])] []) 0) 0 = some 0)
    ∧ (let w : Work := .portStream (port1 1)
       Due { withFlight w 0 with cycle := 70 } 0 7 (flying w) ∧ (port1 1).got = (port1 1).need
        ∧ ((port1 1).fed.getLast?.getD 0) + streamTail (port1 1).fig ≤ 70) := by
  unfold Issues MayFly
  refine ⟨by decide +kernel, ⟨due_of _ _ (by decide +kernel), by decide +kernel⟩, by unfold Due; decide +kernel⟩

theorem witness_StreamFigures_port :
    let t := { latched with g := [(0, 6), (1, 511 * 512), (4, 200)] }
    let e := envOf (workPitch stream2 0) t stream2
    let fr := frame t stream2
    let mode0 := ((arraysOf 8).filterMap (fun a => (blockFor porting e a).map (·.mode))).head?
    Issues porting 0 e ∧ mode0 = some 1
      ∧ (∀ ka ∈ List.zip (List.range (arraysOf 8).length) (arraysOf 8),
          streamCode porting e mode0 (streamArgs stream2 fr ka.1) (streamBeats fr) ka.2 = none)
      ∧ nth fr 0 = 6 ∧ routeOf (workPitch stream2 0) 6 = some (route01 6 true) ∧ endsAt (route01 6 true).dst 0 = true
      ∧ nth fr 1 < 2 ^ 18 ∧ nth fr 2 < 2 ^ 12
      ∧ (∀ a ∈ arraysOf 8, feederFree porting 0 a = true ∧ blockLoading (siteGet porting 0) a = false)
      ∧ (∀ f ∈ (siteGet porting 0).flights, portMask f.work = 0) ∧ bufferedFlits (siteGet porting 0) 63 6 = []
      ∧ MayFly porting e (streamReads stream2 fr 1) (streamDests stream2 fr 1) := by
  unfold Issues MayFly; decide +kernel

/-- A VECTOR figure of an operation, from FP32 to FP32 or, for the gradient quantiser, to its codes. -/
def vecFig (op : Nat) : Fig := .vector op 0 (op == 48) 0 (if op = 48 then 3 else 0) 0 false false

theorem witness_VectorFigures :
    (∀ c ∈ vectorRows,
      nextIssue (working (workPitch (vecFig c.2) 0) tileArgs) 0 = some (envOf (workPitch (vecFig c.2) 0) tileArgs (vecFig c.2))
        ∧ (vecArgs (envOf (workPitch (vecFig c.2) 0) tileArgs (vecFig c.2))).n ≤ 65536
        ∧ (siteGet (working (workPitch (vecFig c.2) 0) tileArgs) 0).vecUntil ≤ (working (workPitch (vecFig c.2) 0) tileArgs).cycle
        ∧ flies (vecFig c.2) 0 tileArgs (vecReads (vecArgs (envOf (workPitch (vecFig c.2) 0) tileArgs (vecFig c.2))))
            (vecDests (vecArgs (envOf (workPitch (vecFig c.2) 0) tileArgs (vecFig c.2)))))
    ∧ (63 < 64 ∧ tileArgs.slot < 4 ∧ (working (workPitch (vecFig 0) 0) tileArgs).errs = [])
    ∧ Due (withFlight (.vector [(0, [1#8])]) 0) 0 7 (flying (.vector [(0, [1#8])])) := by
  unfold flies MayFly
  exact ⟨by decide +kernel, by decide +kernel, due_of _ _ (by decide +kernel)⟩

/-- Arguments of a transfer: word 0, two flits. -/
def tileFlits : TileCtx := { tile0 with g := [(1, 2)] }

/-- A flit on its way to site 0 on route 6. -/
def flit6 : MeshFlit := { ctx := 63, route := 6, payload := List.replicate 32 5#8 }

theorem witness_SendAndReceiveFigures :
    (let f : Fig := .send 0 5
     Issues (working (workPitch f 0) tileFlits) 0 (envOf (workPitch f 0) tileFlits f) ∧ routeOf (workPitch f 0) 5 = some (route01 5 false)
      ∧ endsAt (route01 5 false).src 0 = true ∧ 1 ≤ nth (frame tileFlits f) 1 ∧ nth (frame tileFlits f) 1 ≤ (route01 5 false).flits
      ∧ (route01 5 false).dst.testBit 15 = false ∧ flies f 0 tileFlits [(0, 2)] [])
    ∧ (let f : Fig := .receive 0 true 31 6
       Issues (working (workPitch f 0) tileFlits) 0 (envOf (workPitch f 0) tileFlits f) ∧ routeOf (workPitch f 0) 6 = some (route01 6 true)
        ∧ endsAt (route01 6 true).dst 0 = true ∧ 1 ≤ nth (frame tileFlits f) 1 ∧ nth (frame tileFlits f) 1 ≤ (route01 6 true).flits ∧ flies f 0 tileFlits [] [(0, 2)]
        ∧ bufferedFlits (siteGet (working (workPitch f 0) tileFlits) 0) 63 6 = [])
    ∧ (let s := withFlight (.send 5 []) 0
       Due s 0 7 (flying (.send 5 [])) ∧ ctxGet s 63 = some (workCtx (workPitch (.wait 0 1) 0) tile0)
        ∧ routeOf (workPitch (.wait 0 1) 0) 5 = some (route01 5 false) ∧ (route01 5 false).dst.testBit 15 = false)
    ∧ Due (withFlight (.receive 6 0 2 2) 0) 0 7 (flying (.receive 6 0 2 2))
    ∧ (let s := { withFlight (.receive 6 0 2 1) 0 with mesh := [flit6] }
       s.mesh.find? (fun m => m.ctx == 63 && m.route == 6) = some flit6 ∧ tileOfSite s 0 = some 0 ∧ healthy s = true
        ∧ routeEndsAt s 63 6 0 = true
        ∧ (siteGet s 0).flights.find? (openFor 63 6) = some (flying (.receive 6 0 2 1)))
    ∧ (let s := { withFlight (.send 5 []) 0 with mesh := [flit6] }
       (siteGet s 0).flights.find? (openFor 63 6) = none ∧ bufferLoad s 0 < 64 ∧ routeEndsAt s 63 6 0 = true)
    ∧ (let s := { withFlight (.portStream (port1 0)) 0 with mesh := [flit6] }
       (siteGet s 0).flights.find? (openFor 63 6) = some (flying (.portStream (port1 0))) ∧ routeEndsAt s 63 6 0 = true) := by
  unfold Issues flies MayFly
  refine ⟨by decide +kernel, by decide +kernel, ⟨due_of _ _ (by decide +kernel), by decide +kernel⟩, due_of _ _ (by decide +kernel),
    by decide +kernel, by decide +kernel, by decide +kernel⟩

/-- Arguments of a FETCH or STORE: word 0, pack 0, one pack. -/
def tilePacks : TileCtx := { tile0 with g := [(3, 1)] }

/-- The move of one pack, with the packs left. -/
def move0 (left : List Nat) : Move :=
  { handle := 1, first := 0, packs := 1, word := 0, left := left, sum := 0, excess := 0, variant := false, extra := 0, waits := none }

theorem witness_FetchAndStoreFigures :
    (let f : Fig := .fetch 0 true 31 1
     Issues (working (workPitch f 0) tilePacks) 0 (envOf (workPitch f 0) tilePacks f)
      ∧ (workPitch f 0).objs[1]? = some (page1 0) ∧ (page1 0).kind = 1 ∧ frame tilePacks f = [0, 0, 0, 1]
      ∧ 0 + 1 ≤ packsIn (page1 0).format (page1 0).oflags (page1 0).size ∧ tapRoom (working (workPitch f 0) tilePacks) 0 = true
      ∧ flies f 0 tilePacks [] [(0, packWords (page1 0).format 1)])
    ∧ (let f : Fig := .store 0 false 0 1
       Issues (working (workPitch f 4) tilePacks) 0 (envOf (workPitch f 4) tilePacks f)
        ∧ (workPitch f 4).objs[1]? = some (page1 4) ∧ flagged (page1 4).oflags = true
        ∧ 0 + 1 ≤ packsIn (page1 4).format (page1 4).oflags (page1 4).size ∧ tapRoom (working (workPitch f 4) tilePacks) 0 = true
        ∧ flies f 4 tilePacks [(0, packWords (page1 4).format 1)] [])
    ∧ (let w : Work := .fetch 1 (move0 [])
       Due (withFlight w 0) 0 7 (flying w) ∧ tileOfSite (withFlight w 0) 0 = some 0
        ∧ moveObj (withFlight w 0) (flying w) (move0 []) = some obj1 ∧ flagged obj1.oflags = false ∧ (move0 []).left = [])
    ∧ (let w : Work := .store 1 (move0 [])
       Due (withFlight w 0) 0 7 (flying w) ∧ moveObj (withFlight w 0) (flying w) (move0 []) = some obj1)
    ∧ (let w : Work := .store 1 (move0 [])
       let o := { obj1 with oflags := 4 }
       moveObj { withFlight w 4 with objs := [(objKey 0 1, o)] } (flying w) (move0 []) = some o ∧ flagged o.oflags = true) := by
  unfold Issues flies MayFly
  refine ⟨by decide +kernel, by decide +kernel, ⟨due_of _ _ (by decide +kernel), by decide +kernel⟩,
    ⟨due_of _ _ (by decide +kernel), by decide +kernel⟩, by decide +kernel⟩

/-! ### The codec and the random source -/

/-- A flagged object of one INT8 pack in stack 0. -/
def packObj (fl : Nat) : Obj := { obj1 with oflags := fl, size := 1056 }

/-- Stack 0 and its codec unit in service. -/
def unit0 : State :=
  { svc with
    regs := (Reg.TILE_FITNESS 0, 0x40000000#64) :: (Reg.STACK_STATUS 0, 0x80000000#64) :: (Reg.CODEC_STATUS 0, 0x80000000#64) :: svc.regs }

/-- A move of a figure on it, of one object. -/
def unitMoves (w : Work) (o : Obj) : State :=
  { unit0 with
    ctxs := [(63, workCtx (workPitch (.wait 0 1) o.oflags) tile0)], ctxFn := [(63, 0)], objs := [(objKey 0 1, o)]
    sites := [(0, { Site.fresh with active := some 63, flights := [flying w] })] }

/-- An encrypted pack's object, its key and no salt. -/
def keyed : State :=
  let s := unitMoves (.store 1 (move0 [0])) (packObj 12)
  { s with keys := [(0, List.replicate 32 7#8)], regs := (Reg.KEY_OWNER 0, 1#64) :: s.regs }

theorem witness_PacksPassTheCodec :
    (let o := packObj 4
     flagged o.oflags = true ∧ boundVariant o = false ∧ scaleLen o = 0
      ∧ (objRead true o (descOff o 0) 32 (unitMoves (.fetch 1 (move0 [0])) o)).2 = some (List.replicate 32 0#8))
    ∧ (let o := packObj 0
       flagged o.oflags = false ∧ boundVariant o = false ∧ scaleLen o = 0 ∧ packBytes o.format ≠ 0
        ∧ (objRead true o (slotOff o 0) (packBytes o.format) (unitMoves (.fetch 1 (move0 [0])) o)).2.isSome = true)
    ∧ (let o := packObj 4
       let w : Work := .fetch 1 (move0 [0])
       let s := unitMoves w o
       flightOf s 0 7 = some (flying w) ∧ tileOfSite s 0 = some 0 ∧ moveObj s (flying w) (move0 [0]) = some o ∧ (move0 [0]).left = [0]
        ∧ unitWorks s 0 = true ∧ unitOf s o 0 = 0 ∧ packHeld s o 0 = false ∧ (expandPack true o 0 s).2.err = 0)
    ∧ (let o := packObj 4
       let w : Work := .store 1 (move0 [0])
       let s := unitMoves w o
       flightOf s 0 7 = some (flying w) ∧ tileOfSite s 0 = some 0 ∧ moveObj s (flying w) (move0 [0]) = some o ∧ unitWorks s 0 = true
        ∧ unitOf s o 0 = 0 ∧ packHeld s o 0 = false ∧ (writePack true o 0 (tsRead s 0 (movePlace o (move0 [0]) 0).1 (rawWords o)) [] s).2.err = 0)
    ∧ (let o := packObj 12
       let w : Work := .store 1 (move0 [0])
       flightOf keyed 0 7 = some (flying w) ∧ tileOfSite keyed 0 = some 0 ∧ moveObj keyed (flying w) (move0 [0]) = some o
        ∧ unitWorks keyed 0 = true ∧ unitOf keyed o 0 = 0 ∧ packHeld keyed o 0 = false
        ∧ (writePack true o 0 (tsRead keyed 0 (movePlace o (move0 [0]) 0).1 (rawWords o)) [] keyed).2.err = 8)
    ∧ (let o := packObj 12
       let m := { move0 [0] with waits := some 0 }
       let w : Work := .store 1 m
       let s := { unitMoves w o with timeBase := 250000 }
       flightOf s 0 7 = some (flying w) ∧ moveObj s (flying w) m = some o ∧ healthy s = true ∧ unitOf s o 0 = 0 ∧ saltsOf s 0 = []
        ∧ 0 + 250000 ≤ s.timeBase ∧ s.faultSeq.phase = .none) := by
  refine ⟨?_, ?_, ?_, ?_, ?_, ?_⟩ <;> decide +kernel

/-- Objects 1 (raw, the source) and 2 (flagged, the target) of one pack. -/
def codecObjs (r : Option CodecRec) : State :=
  { unit0 with objs := [(objKey 0 1, packObj 0), (objKey 0 2, { packObj 4 with handle := 2, first := 2, pages := [.near 0 1], record := r })]
               regs := (Reg.CODEC_RECORDS, 4095#64) :: unit0.regs }

/-- A record whose current table codes one symbol. -/
def rec1 : CodecRec := { slot0 := some { lens := 1 :: List.replicate 271 0, bind := none }, slot1 := none, cur := 0, bind := none, mean := 32, max := 64 }

/-- CODEC_CODE of object 2 from object 1. -/
def code1 : CodeArgs := { target := 2, source := 1, base := 0xFFFFFFFF, factors := 0, rank := 0, orient := 0, packCols := 0 }

/-- A run of object 2 that has ended. -/
def run1 (n : Nat) : CodingRun :=
  { hdr := hd0, fn := 0, handle := 2, source := 1, built := true, pre := [], left := [], waits := none, code := n, pack := 0 }

theorem witness_CodecRecords :
    (let c : Instr := .codecCode hd0 code1
     let s := fetched c (codecObjs none)
     let o : Obj := { packObj 4 with handle := 2, first := 2, pages := [.near 0 1] }
     Ready c s ∧ objGet s 0 2 = some o ∧ objGet s 0 1 = some (packObj 0) ∧ o.oflags.testBit 2 = true ∧ s.runs = []
      ∧ fld s Reg.CODEC_RECORDS 12 0 < 4096 ∧ (packObj 0).format = o.format ∧ packCount (packObj 0) = packCount o
      ∧ oldPacks (took c s) o = []
      ∧ (let new : CodecRec := { slot0 := none, slot1 := none, cur := 1, bind := none, mean := 0, max := 0 }
         let s1 := tookUnit .records (took c s).timeBase hd0 (took c s)
         let s2 := runPut { run1 0 with built := false } (objPut { s1 with runs := s1.runs ++ [{ run1 0 with built := false }] } { o with record := some new })
         objGet s2 0 2 = some { o with record := some new } ∧ objGet s2 0 1 = some (packObj 0)
          ∧ (firstPass (packObj 0) { o with record := some new } none (List.range (packCount o)) (List.replicate 272 0) s2).2.1 = none))
    ∧ (∀ n ∈ [0, 8],
        let s := { codecObjs (some rec1) with runs := [run1 n] }
        run1 n ∈ s.runs ∧ runOf s 0 2 = some (run1 n) ∧ runOver (run1 n) = true ∧ (objGet s 0 2).map (objUnits s) = some [0]
          ∧ (objGet s 0 2).map (fun o => (o.fn, o.handle, o.freed)) = some (0, 2, false)
          ∧ (objGet s 0 2).map (·.record) = some (some rec1) ∧ s.faultSeq.phase = .none ∧ fnActive s 0 = true)
    ∧ (let c : Instr := .codecTableGet hd0 2 pageSize
       let s := fetched c (codecObjs (some rec1))
       Ready c s ∧ (objGet s 0 2).map (·.record) = some (some rec1) ∧ (devWrite 0 pageSize (recordBytes rec1) (took c s)).2 = 0)
    ∧ (let c : Instr := .codecTableSet hd0 2 pageSize
       let s := fetched c { codecObjs none with near := mwrite [] (frameAddr 0 0) (recordBytes { rec1 with bind := none }) }
       Ready c s ∧ (objGet s 0 2).map (·.record) = some none ∧ s.runs = [] ∧ fld s Reg.CODEC_RECORDS 12 0 < 4096
        ∧ (let r := devRead 0 pageSize 256 (took c s)
           r.2.1 = 0 ∧ tableOk (tableLens (slice r.2.2 0 136)) = true ∧ fieldAt r.2.2 0x90 4 = 0xFFFFFFFF)) := by
  unfold Ready
  refine ⟨?_, ?_, ?_, ?_⟩ <;> decide +kernel

/-- The DRBG serves. -/
def random (due : Bool) : State :=
  { unit0 with regs := (Reg.RANDOM_STATUS, 0xC0000000#64) :: unit0.regs, drbg := some { key := 0, v := 0 }
               drbgReqs := if due then 2 ^ 20 else 2 ^ 20 - 1, salts := [(0, List.replicate 1023 0)] }

/-- The source has failed. -/
def failedSource : State := { unit0 with regs := (Reg.RANDOM_STATUS, 0x40000000#64) :: (Reg.MAINT_HOLDERS, 0#64) :: unit0.regs }

theorem witness_RandomBytes :
    (drbgOn (random false) = true ∧ (random false).drbg.isSome = true ∧ reseedDue (random false) = false ∧ reseedDue (random true) = true
      ∧ drbgOn (random true) = true)
    ∧ (let s := random false
       bitR s (Reg.CODEC_STATUS 0) 31 = true ∧ (saltsOf s 0).length < 1024
        ∧ (draw false (4 * (1024 - (saltsOf s 0).length)) s).2.isSome = true)
    ∧ (let s := failedSource
       netUp s = true ∧ bitR s Reg.RANDOM_STATUS 30 = true ∧ drbgOn s = false ∧ bitR s Reg.RANDOM_STATUS 29 = false ∧ conflictOf s 7 0 = none
        ∧ s.tray.round = none)
    ∧ (∀ n ∈ [0, 3],
        let s := setF (setB failedSource Reg.MAINT_HOLDERS 5 true) Reg.RANDOM_STATUS 28 27 n
        bitR s Reg.MAINT_HOLDERS 5 = true ∧ fld s Reg.RANDOM_STATUS 28 27 = n) := by
  refine ⟨?_, ?_, ?_, ?_⟩ <;> decide +kernel

/-! ### Management -/

/-- An agreed session of a role, as far in the attestation exchange. -/
def sess (role spdm : Nat) : Session := { role := role, install := false, hello := true, last := 0, spdm := spdm }

/-- All eight stacks in service, ports 0 and 1 up and training, and session 3. -/
def ruled (role : Nat) : State :=
  { svc with
    regs := [(Reg.MAINT_HOLDERS, 0#64), (Reg.PORT_STATUS 0, 0x40000000#64), (Reg.PORT_CONTROL 0, 0x80000000#64), (Reg.RANDOM_STATUS, 0xC0000000#64),
      (Reg.RANGER_STATUS, 0x80000000#64)] ++ (List.range 8).map (fun st => (Reg.STACK_STATUS st, 0x80000000#64)) ++ svc.regs
    sessions := [(3, sess role 3)], drbg := some { key := 0, v := 0 } }

/-- A good offer with the certificate of anchor 0. -/
def offer1 : TlsOffer :=
  { suite := true, group := true, scheme := true, chain := 4, proof := true, anchor := 0, digest := 5, linkLocal := true }

/-- Anchor 0 is an OPERATOR's, and a digest is denied. -/
def anchored (s : State) : State := { s with store := { s.store with anchors := [(0, (2, [1#8]))], deny := [(0, 6)] } }

/-- The session asks with a role, in service. -/
theorem asks_ruled (role : Nat) (h : role = 1 ∨ role = 2 ∨ role = 3) (camp inst : Bool) : Asks (ruled role) 3 (sess role 3) role camp inst := by
  unfold Asks
  rcases h with rfl | rfl | rfl <;> refine ⟨by decide, by decide, ?_, by decide, by decide, by simp [sess]⟩ <;>
    · intro h; exact absurd h (by decide +kernel)

theorem witness_ManagementSessions :
    (let s := anchored (ruled 3)
     netUp s = true ∧ s.sessions.length < 4 ∧ freeSession s = some 0 ∧ drbgOn s = true ∧ offer1.good = true
      ∧ tget s.store.anchors offer1.anchor = some (2, [1#8]) ∧ (∀ e ∈ s.store.deny, e.2 ≠ offer1.digest))
    ∧ (let s := { ruled 3 with sessions := [] }
       netUp s = true ∧ s.sessions = [] ∧ drbgOn s = true ∧ s.store.anchors = [] ∧ offer1.linkLocal = true)
    ∧ (netUp failedSource = true ∧ failedSource.sessions.length < 4 ∧ drbgOn failedSource = false)
    ∧ ({ offer1 with chain := 5 }.good = false ∧ { offer1 with suite := false }.good = false)
    ∧ ((ruled 3).sessions ≠ [] ∧ { offer1 with linkLocal := false }.linkLocal = false ∧ (ruled 3).store.anchors = [])
    ∧ (let s := anchored (ruled 3)
       (∃ e ∈ s.store.deny, e.2 = { offer1 with digest := 6 }.digest) ∧ tget s.store.anchors { offer1 with anchor := 1 }.anchor = none)
    ∧ (let w : FwWrite := { session := 3, bank := 0, data := [] }
       let s := { ruled 3 with fw := some w, timeBase := 15000000000 }
       tget s.sessions 3 = some (sess 3 3) ∧ (sess 3 3).last + 15000000000 ≤ s.timeBase ∧ s.fw = some w ∧ w.session = 3)
    ∧ ((ruled 3).fw = none)
    ∧ ((1 : Nat).testBit 0 = true ∧ (2 : Nat).testBit 0 = false)
    ∧ (let x := sess 1 3
       tget (ruled 1).sessions 3 = some x ∧ netUp (ruled 1) = true ∧ baseCamp (ruled 1) = false ∧ x.hello = true ∧ x.role < 2) := by
  refine ⟨?_, ?_, ?_, ?_, ?_, ?_, ?_, ?_, ?_, ?_⟩ <;> decide +kernel

theorem witness_ManagementRegisters :
    (Asks (ruled 1) 3 (sess 1 3) 1 true false ∧ spaceOk 1 (2 ^ 32 - 4) 1 = true ∧ spaceOk 0 (2 ^ 26 - 4) 1 = true ∧ awake (ruled 1) = true
      ∧ spaceOk 0 (2 ^ 26) 1 = false ∧ spaceOk 2 0 1 = false)
    ∧ (Asks (ruled 3) 3 (sess 3 3) 3 false false ∧ spaceOk 1 0 [0].length = true ∧ awake (ruled 3) = true ∧ spaceOk 0 0 [0].length = true
      ∧ (writeWords .mgmt 0 1 0 (2 ^ (4 * 1) - 1) (wordsNat [0]) (asked (ruled 3) 3 (sess 3 3))).2 = false)
    ∧ (3 : Nat) < 4
    ∧ (Asks (ruled 2) 3 (sess 2 3) 2 false false ∧ 1 ≤ 255) :=
  ⟨⟨asks_ruled 1 (by decide) _ _, by decide +kernel⟩, ⟨asks_ruled 3 (by decide) _ _, by decide +kernel⟩, by decide,
    ⟨asks_ruled 2 (by decide) _ _, by decide⟩⟩

theorem witness_MaintenanceTokens :
    (Asks (ruled 2) 3 (sess 2 3) 2 false false ∧ awake (ruled 2) = true ∧ (ruled 2).faultSeq.phase = .none ∧ (ruled 2).tray.round = none
      ∧ conflictOf (ruled 2) 1 0 = none ∧ (∀ st, st < 8 → stackOn (ruled 2) st = true))
    ∧ (conflictOf (setB (ruled 2) Reg.MAINT_HOLDERS 2 true) 1 0 = some (3, 0))
    ∧ (conflictOf (ruled 2) 2 0 = none ∧ inService (ruled 2) = true ∧ (ruled 2).ctxs = [] ∧ (ruled 2).chans = [])
    ∧ (conflictOf (ruled 2) 3 7 = none ∧ stackClear (ruled 2) 7 = true)
    ∧ (conflictOf (ruled 2) 4 7 = none ∧ portUp (ruled 2) 0 = true)
    ∧ (bitR (setB (ruled 2) Reg.MAINT_HOLDERS 1 true) Reg.MAINT_HOLDERS 1 = true ∧ full (ruled 2) = true)
    ∧ (bitR (setB (ruled 2) Reg.MAINT_HOLDERS 2 true) Reg.MAINT_HOLDERS 2 = true ∧ bitR (ruled 2) (Reg.STACK_STATUS 0) 30 = false
      ∧ bitR (setR (ruled 2) (Reg.STACK_STATUS 0) 0xC0000000) (Reg.STACK_STATUS 0) 30 = true
      ∧ fld (setR (ruled 2) (Reg.STACK_STATUS 0) 0xC0000000) (Reg.STACK_STATUS 0) 29 24 ≠ 63)
    ∧ (let s := setF (setB (ruled 2) Reg.MAINT_HOLDERS 8 true) (Reg.PORT_STATUS 0) 31 29 5
       bitR s Reg.MAINT_HOLDERS (8 + 0) = true ∧ portState s 0 = 5 ∧ bitR s (Reg.PORT_CONTROL 0) 31 = true ∧ fabricOn s = true)
    ∧ ((4, 7) ∈ holders (setB (ruled 2) Reg.MAINT_HOLDERS 15 true) ∧ (1, 0) ∉ holders (ruled 2))
    ∧ (let s := ruled 2
       netUp s = true ∧ s.start.running = false ∧ baseCamp s = false ∧ bitR s Reg.MAINT_HOLDERS 4 = false
        ∧ (bootBank (orR (satR (stopAll ((List.range 4).foldl (fun s k => closeSession k s) s)) Reg.RANGER_RESTARTS 1) Reg.MGMT_CAUSE 8)).isSome
          = true) := by
  refine ⟨⟨asks_ruled 2 (by decide) _ _, ?_⟩, ?_, ?_, ?_, ?_, ?_, ?_, ?_, ?_, ?_⟩ <;> decide +kernel

/-- Bank B is being written by session 3. -/
def writing (n : Nat) : State := { ruled 3 with fw := some { session := 3, bank := n, data := [1#8] } }

/-- Both banks hold version 64. -/
def fused : State :=
  { ruled 3 with
    regs := (Reg.CLOCK_STATUS, 0#64) :: (ruled 3).regs
    store := { State.reset.store with bankA := { State.reset.store.bankA with state := 1, svn := 64 }
                                      bankB := { State.reset.store.bankB with state := 1, svn := 64 }, counter := 62 } }

theorem witness_FirmwareAndFuses :
    Asks (ruled 3) 3 (sess 3 3) 3 true false
    ∧ (runningBank (ruled 3) = some 0 ∧ runningBank (ruled 3) ≠ some 1 ∧ conflictOf (ruled 3) 5 1 = none ∧ (ruled 3).tray.round = none)
    ∧ ((writing 1).fw = some { session := 3, bank := 1, data := [1#8] } ∧ (1 : Nat) = [1#8].length ∧ 1 + [2#8].length ≤ 2 ^ 23)
    ∧ ((bankOf fused 0).state = 1 ∧ (bankOf fused 1).state = 1)
    ∧ (Asks fused 3 (sess 3 3) 3 false false)
    ∧ (conflictOf fused 6 0 = none ∧ bitR fused Reg.CLOCK_STATUS 15 = false ∧ fused.tray.round = none ∧ 64 ≤ 64 ∧ fused.store.counter < 64
        ∧ fused.store.bankA.state = 1 ∧ fused.store.bankB.state = 1 ∧ 64 ≤ fused.store.bankA.svn ∧ 64 ≤ fused.store.bankB.svn
        ∧ 64 - fused.store.counter ≤ 2 ∧ 1 < 64 - fused.store.counter)
    ∧ ((∀ n, runningBank fused = some n → (bankOf fused n).key ≠ 3) ∧ (∃ k, k < 4 ∧ k ≠ 3 ∧ fused.store.revoked.testBit k = false)) := by
  refine ⟨asks_ruled 3 (by decide) _ _, by decide +kernel, by decide +kernel, by decide +kernel, ?_, by decide +kernel, ?_, ?_⟩
  · exact ⟨by decide, by decide, fun h => absurd h (by decide +kernel), by decide, by decide, by simp [sess]⟩
  · intro n h
    rw [show runningBank fused = some 0 by decide +kernel] at h
    cases h
    decide +kernel
  · exact ⟨0, by decide +kernel⟩

theorem witness_KeysAndAnchors :
    Asks (ruled 3) 3 (sess 3 3) 3 false false ∧ Asks (ruled 3) 3 (sess 3 3) 3 false true
    ∧ ((255 : Nat) < 256 ∧ (2 ^ 32 - 1 : Nat) < 2 ^ 32 ∧ (List.replicate 32 1#8).length = 32)
    ∧ ((7 : Nat) < 8 ∧ (4#8 :: List.replicate 96 1#8).length = 97 ∧ slice (4#8 :: List.replicate 96 1#8) 0 1 = [4#8])
    ∧ ((15 : Nat) < 16 ∧ (2 ^ 384 - 1 : Nat) < 2 ^ 384) ∧ ((3 : Nat) < 4 ∧ [1#8] ≠ []) :=
  ⟨asks_ruled 3 (by decide) _ _, asks_ruled 3 (by decide) _ _, by decide +kernel, by decide +kernel, by decide +kernel, by decide⟩

theorem witness_Attestation :
    Asks (ruled 1) 3 (sess 1 3) 1 true false ∧ 3 ≤ (sess 1 3).spdm ∧ Asks { ruled 1 with sessions := [(3, sess 1 0)] } 3 (sess 1 0) 1 true false
      ∧ (sess 1 0).spdm < 1 ∧ (measured (ruled 1) 0xFF).isSome = true ∧ (draw false 32 (spdmAsked (ruled 1) 3 (sess 1 3) 3)).2.isSome = true :=
  ⟨asks_ruled 1 (by decide) _ _, by decide,
    ⟨by decide, by decide, fun h => absurd h (by decide +kernel), by decide, by decide, by simp [sess]⟩, by decide, by decide +kernel,
    by decide +kernel⟩

/-! ### Serving -/

/-- A pitch that may serve: one tile, a wait on T30, a window object 100. -/
def servePitch : Pitch :=
  { pitchOf [.wait 30 1, .endStep true 0] with objs := [region0, { page1 0 with id := 100 }], flags := 2 }

/-- SERVE_OPEN of it: one window of one segment, one slot. -/
def serveA : ServeArgs :=
  { ctx := 63, rank := 4, sets := 1, poolStacks := 1, targets := 1, segments := 1, capacity := 1, regions := 0, objects := 1,
    targetAddr := pageSize, winBase := 100, poolSlots := 1, regionsBase := 0, objectsBase := 100 }

/-- Its context. -/
def serveCtx : Ctx := { ctxWith servePitch tile0 with started := true, handles := [0, 1] }

/-- The context with serving, or not yet. -/
def serving (v : Option Serve) : State :=
  { store0 with
    regs := (Reg.BATCHES_ACCEPTED 63, 0#64) :: (Reg.BATCHES_DONE 63, 0#64) :: store0.regs
    ctxs := [(63, serveCtx)], ctxFn := [(63, 0)], serves := (match v with | some v => [(63, v)] | none => [])
    near := mwrite [] (frameAddr 0 0) [0x20#8, 0#8, 0#8, 0#8, 0x20#8] }

/-- Serving with nothing pegged. -/
def serve0 : Serve :=
  { a := { serveA with objects := 0 }, shape := 0, pages := 1, length := 4096, frames := [.near 0 5], pegs := [], copies := [], batches := [],
    nextStart := 0, binds := [], staged := [], turn := none, closing := none, ready := none, base := 0 }

theorem witness_ServingOpensAndCloses :
    (let a := { serveA with objects := 0 }
     let c : Instr := .serveOpen hd0 a
     let s := fetched c (serving none)
     let r := devRead 0 a.targetAddr (8 * a.targets) (took c s)
     Ready c s ∧ ctxOf s 0 63 = some serveCtx ∧ servePitch.flags.testBit 1 = true ∧ servePitch.flags.testBit 0 = false ∧ serveGet s 63 = none
      ∧ serveFieldsOk a = true ∧ r.2.1 = 0 ∧ (serveCheck 0 serveCtx a r.2.2 r.1).isOk = true)
    ∧ (let s := fetched (.serveClose hd0 63) (serving (some serve0))
       Ready (.serveClose hd0 63) s ∧ (ctxOf s 0 63).isSome = true ∧ serveGet s 63 = some serve0)
    ∧ (let v := { serve0 with closing := some [hd0] }
       serveGet (serving (some v)) 63 = some v ∧ v.closing.isSome = true ∧ v.batches = [] ∧ v.turn = none
        ∧ (serving (some v)).faultSeq.phase = .none) := by
  unfold Ready
  refine ⟨?_, ?_, ?_⟩ <;> decide +kernel

/-- Adapter 9 pegged in slot 0, until cycle e. -/
def peg9 (e : Option Nat) : Peg := { adapter := 9, slot := 0, expiry := e, ending := false, hdr := none }

/-- A copy of adapter 9 into slot 0. -/
def copy9 : PegCopy := { hdr := hd0, adapter := 9, slot := 0, source := 2, expiry := none, req := 5 }

/-- The image header of adapter 9 of rank 4 with one target and nothing after 4,096 bytes. -/
def header9 : Bytes :=
  [0x4A#8, 0x58#8, 0x41#8, 0x44#8, 0#8, 1#8, 4#8, 0#8, 9#8, 0#8, 0#8, 0#8] ++ List.replicate 4 0#8 ++ [1#8, 0#8, 0#8, 0#8]
    ++ [0#8, 0x10#8]

/-- The source, an uncoded object of one page. -/
def imageObj : Obj := { obj1 with handle := 2, first := 2, pages := [.near 0 1], size := 2097152 }

/-- The state with that source. -/
def imageSource : State :=
  { serving (some { serve0 with copies := [copy9] }) with
    objs := [(objKey 0 1, obj1), (objKey 0 2, imageObj)], near := mwrite [] (frameAddr 0 1) header9 }

/-- The state in which the copy's image is read. -/
def imageAt : State := leave 5 (serveMod 63 (fun v => { v with copies := v.copies.erase copy9 }) imageSource)

/-- The image is the page. -/
theorem image_read : readImage imageObj 1 imageAt = (imageAt, some (mread imageAt.near (frameAddr 0 1) pageSize)) := by
  have hs : objSpans imageAt imageObj (pageSize / pageSize + 2) 0 pageSize = [(.near (frameAddr 0 1), pageSize)] := by
    decide +kernel
  have he : imageAt.errs = [] := by decide +kernel
  have hp : imageAt.poison = [] := by decide +kernel
  unfold readImage
  rw [if_neg (by decide +kernel)]
  simp [objRead, hs, piecesRead, pieceRead, nearRead, meetSectors, he, hp]

/-- A slice of bytes read is read at its place. -/
theorem slice_mread (m : Tbl Byte) (a n off len : Nat) (h : off + len ≤ n) : slice (mread m a n) off len = mread m (a + off) len := by
  have e : ((mread m a n).drop off).take len = mread m (a + off) len := by
    apply List.ext_getElem
    · simp [mread]; omega
    · intro i h1 h2
      simp [mread, Nat.add_assoc]
  unfold slice
  rw [e]
  simp [mread]

/-- The page is the image of adapter 9, and of no other. -/
theorem image_code : imageCode serve0 9 (mread imageAt.near (frameAddr 0 1) pageSize) = 0
    ∧ imageCode serve0 10 (mread imageAt.near (frameAddr 0 1) pageSize) = 7 := by
  have h (off len : Nat) (g : off + len ≤ 4096) := slice_mread imageAt.near (frameAddr 0 1) pageSize off len (by simp only [pageSize]; omega)
  unfold imageCode fieldAt
  rw [h 0 4 (by omega), h 5 1 (by omega), h 6 1 (by omega), h 8 4 (by omega), h 0x0C 4 (by omega), h 0x10 4 (by omega), h 0x14 4 (by omega),
    h 0x18 4 (by omega), show serve0.length - 0x1000 = 0 from rfl, h 0x1000 0 (by omega)]
  decide +kernel

theorem witness_PegsAndLeases :
    (let c : Instr := .peg hd0 63 0 9 1 86400000
     let s := fetched c (serving (some serve0))
     Ready c s ∧ openServe s 0 63 = some serve0 ∧ serve0.pegs = [] ∧ leaseOk 86400000 = true ∧ copying serve0 9 = false
      ∧ unpegging serve0 9 = false ∧ pegOf serve0 9 = none ∧ freeSlot serve0 = some 0 ∧ objGet s 0 1 = some obj1)
    ∧ (let v := { serve0 with a := { serveA with poolSlots := 2 }, pegs := [peg9 none] }
       let c : Instr := .peg hd0 63 1 9 1 1000
       let s := fetched c (serving (some v))
       Ready c s ∧ openServe s 0 63 = some v ∧ (∀ p ∈ v.pegs, ∀ e, p.expiry = some e → s.timeBase < e) ∧ leaseOk 1000 = true
        ∧ copying v 9 = false ∧ (pegOf v 9).isSome = true ∧ freeSlot v = some 1 ∧ objGet s 0 1 = some obj1)
    ∧ (let v := { serve0 with pegs := [peg9 none] }
       let c : Instr := .peg hd0 63 0 9 1 0
       let s := fetched c (serving (some v))
       Ready c s ∧ openServe s 0 63 = some v ∧ leaseOk 0 = true ∧ copying v 9 = false ∧ unpegging v 9 = false ∧ pegOf v 9 = some (peg9 none))
    ∧ (let s := imageSource
       let v := { serve0 with copies := [copy9] }
       serveGet s 63 = some v ∧ v.copies.find? (fun k => k.adapter == 9) = some copy9 ∧ s.faultSeq.phase = .none ∧ awake s = true
        ∧ mayServe s copy9.req = true ∧ objGet s ((tget s.ctxFn 63).getD 0) copy9.source = some imageObj ∧ (serveGet imageAt 63).isSome = true)
    ∧ (let v := { serve0 with pegs := [peg9 none] }
       let s := serving (some v)
       Ready (.renew hd0 63 9 0) (fetched (.renew hd0 63 9 0) s) ∧ Ready (.unpeg hd0 63 9) (fetched (.unpeg hd0 63 9) s)
        ∧ openServe s 0 63 = some v ∧ pegOf v 9 = some (peg9 none) ∧ leaseOk 0 = true ∧ copying v 9 = false)
    ∧ (let v := { serve0 with pegs := [peg9 (some 0)] }
       let s := serving (some v)
       serveGet s 63 = some v ∧ pegOf v 9 = some (peg9 (some 0)) ∧ (peg9 (some 0)).expiry = some 0 ∧ 0 ≤ s.timeBase)
    ∧ (∀ h ∈ [none, some hd0],
        let p := { peg9 none with ending := true, hdr := h }
        let v := { serve0 with pegs := [p] }
        serveGet (serving (some v)) 63 = some v ∧ v.pegs.find? (fun p => p.slot == 0 && p.ending) = some p ∧ v.batches = []) := by
  unfold Ready
  refine ⟨?_, ?_, ?_, ?_, ?_, ?_, ?_⟩
  · decide +kernel
  · refine ⟨by decide +kernel, by decide +kernel, ?_, by decide +kernel⟩
    intro p hp e he
    simp only [List.mem_singleton] at hp
    subst hp
    simp [peg9] at he
  all_goals decide +kernel

/-- A batch of one request. -/
def batch1 : Batch := { hdr := hd0, seq := 0, requests := 1, slots := [none] }

/-- A staged version for target 100, that the context caches. -/
def caching (st : Tbl Nat) (t : Option CacheTurn) : Serve := { serve0 with a := serveA, staged := st, turn := t }

theorem witness_BatchesAndCache :
    (let c : Instr := .submitBatch hd0 24 (pageSize + 64)
     let b : Bytes := [63#8, 0#8, 1#8, 0#8] ++ List.replicate 12 0#8 ++ [0xFF#8, 0xFF#8, 0xFF#8, 0xFF#8, 1#8, 0#8, 0#8, 0#8]
     let s := fetched c { serving (some serve0) with near := mwrite [] (frameAddr 0 0 + 64) b }
     let r := devRead 0 (pageSize + 64) 24 (took c s)
     Ready c s ∧ r.2.1 = 0 ∧ r.2.2 = b ∧ r.1.power.rest ≠ .nap ∧ openServe r.1 0 63 = some serve0 ∧ serve0.pegs = []
      ∧ b.length = 16 + 8 * serve0.a.segments ∧ fieldAt b 0 1 = 63 ∧ zeroAt b 1 1 = true ∧ zeroAt b 4 4 = true
      ∧ (∀ i, i < serve0.a.segments → zeroAt b (16 + 8 * i + 6) 2 = true)
      ∧ (let segs := (List.range serve0.a.segments).map (segEntry b)
         badSegment serve0 segs = none ∧ fieldAt b 2 2 = (segs.map (·.2)).foldl (· + ·) 0 ∧ fieldAt b 2 2 ≠ 0
          ∧ unpeggedSegment serve0 segs = none)
      ∧ serve0.batches.length < 64)
    ∧ (let v := { serve0 with batches := [batch1] }
       let s := serving (some v)
       serveGet s 63 = some v ∧ ctxGet s 63 = some serveCtx ∧ v.batches.find? (fun b => b.seq == v.nextStart) = some batch1
        ∧ mayStart s 63 v = true ∧ healthy s = true ∧ awake s = true ∧ (serveCtx.tiles.map (·.1)).Nodup ∧ serveCtx.tiles = [(0, tile0)]
        ∧ tokGet tile0 30 < 255)
    ∧ (let v := { serve0 with batches := [batch1], nextStart := 1 }
       let x := { serveCtx with tiles := [(0, { tile0 with steps := 1 })] }
       let s := { serving (some v) with ctxs := [(63, x)] }
       serveGet s 63 = some v ∧ ctxGet s 63 = some x ∧ batch1.seq < v.nextStart ∧ v.base + batch1.seq < minSteps x ∧ s.faultSeq.phase = .none)
    ∧ (let v := caching [(100, 1)] none
       let s := serving (some v)
       ctxOf s 0 63 = some serveCtx ∧ openServe s 0 63 = some v ∧ objGet s 0 1 = some obj1
        ∧ Ready (.cacheDrop hd0 63 100) (fetched (.cacheDrop hd0 63 100) s) ∧ (tget v.staged 100).isSome = true
        ∧ Ready (.cacheCommit hd0 63) (fetched (.cacheCommit hd0 63) s) ∧ v.turn = none ∧ v.staged ≠ []
        ∧ (∀ e ∈ v.staged, farSource (took (.cacheCommit hd0 63) s) 0 e = false) ∧ (∀ e ∈ s.ctxs, e.1 = 63))
    ∧ (let o := { obj1 with size := 2097152 }
       let v := caching [] none
       let s := fetched (.cacheStage hd0 63 100 1) { serving (some v) with objs := [(objKey 0 1, o)] }
       Ready (.cacheStage hd0 63 100 1) s ∧ targetSize v serveCtx 100 = some o.size ∧ flagged o.oflags = false ∧ objGet s 0 1 = some o)
    ∧ (let t : CacheTurn := { hdr := hd0, seq := 0, began := 0 }
       let v := caching [(100, 2)] (some t)
       let so := { obj1 with handle := 2, first := 2, pages := [.near 0 1] }
       let s := { serving (some v) with objs := [(objKey 0 1, obj1), (objKey 0 2, so)] }
       serveGet s 63 = some v ∧ ctxGet s 63 = some serveCtx ∧ v.turn = some t ∧ drained v = true ∧ (∀ e ∈ s.serves, e.1 = 63)
        ∧ healthy s = true ∧ awake s = true ∧ v.staged = [(100, 2)] ∧ objGet s 0 2 = some so ∧ so.fn = serveCtx.fn
        ∧ (ctxObj s serveCtx 100).map (·.2) = some (some obj1) ∧ obj1.fn = serveCtx.fn ∧ obj1.handle ≠ 2
        ∧ (copyRegions serveCtx.fn v serveCtx s).2 = true)
    ∧ (let t : CacheTurn := { hdr := hd0, seq := 0, began := 0 }
       let v := { caching [(0xFFFFFFFF, 2)] (some t) with a := { serveA with regions := 1, regionsBase := 1 } }
       let so := { obj1 with handle := 2, first := 2, size := 0x400000, pages := [.near 0 1, .near 0 2] }
       let s := { serving (some v) with objs := [(objKey 0 1, obj1), (objKey 0 2, so)], poison := [frameAddr 0 1 / 64] }
       serveGet s 63 = some v ∧ ctxGet s 63 = some serveCtx ∧ v.turn = some t ∧ drained v = true ∧ (∀ e ∈ s.serves, e.1 = 63)
        ∧ healthy s = true ∧ awake s = true ∧ (copyRegions serveCtx.fn v serveCtx s).2 = false) := by
  unfold Ready
  refine ⟨?_, ?_, ?_, ?_, ?_, ?_, ?_⟩ <;> decide +kernel

/-! ### Media and decks -/

/-- A profile: one 8 by 8 patch of a picture of 8 by 8, FP16. -/
def profile1 : Bytes :=
  [0#8, 0#8, 0#8, 0#8, 8#8, 0#8, 8#8, 0#8, 8#8, 0#8, 8#8, 0#8, 8#8, 1#8, 1#8, 1#8, 0#8, 0#8, 1#8, 0#8] ++ List.replicate 12 0#8
    ++ [1#8, 0#8, 0#8, 0#8, 1#8, 0#8, 0#8, 0#8, 1#8, 0#8, 0#8, 0#8] ++ List.replicate 20 0#8

/-- MEDIA_OPEN of it on engine 0, with an MPEG transport stream. -/
def media1 : MediaArgs :=
  { ctx := 0xFF, input := 0, chroma := 0, dpb := 2, engine := 0, token := 0, postEvery := 0, program := 0xFFFF, pid := 0x1FFF, maxWidth := 64,
    maxHeight := 64, tile := 0, work := 2, pool := 3, firstSlot := 0, slotCount := 2, reportSize := 4096, profile := pageSize + 4096,
    reportAddr := pageSize }

/-- The channel as it opens. -/
def chan1 : Channel := Channel.fresh 0 media1 profile1

/-- A state with channel 4095 (or none), engine 0, and the objects that a channel needs. -/
def mediaState (ch : Option Channel) : State :=
  { store0 with
    regs := (Reg.DECODE_FITNESS 0, 0x40000000#64) :: (Reg.MAINT_HOLDERS, 0#64) :: (Reg.SAMPLES 4095, 1#64) :: (Reg.RELEASED 4095, 0#64)
      :: store0.regs
    objs := [(objKey 0 1, obj1), (objKey 0 2, { obj1 with handle := 2, first := 2, size := 10485760, pages := (List.range 5).map (PageLoc.near 0) }),
      (objKey 0 3, { obj1 with handle := 3, first := 7, size := 2097152, pages := [.near 0 6] })]
    near := mwrite [] (frameAddr 0 0 + 4096) profile1
    chans := (match ch with | some c => [(4095, c)] | none => []), chanFn := (match ch with | some _ => [(4095, 0)] | none => []) }

/-- A feed of 8 bytes to channel 4095. -/
def feed8 : Feed := { hdr := hd0, addr := pageSize, left := 8, flags := 0, begun := false }

/-- An engine that decodes a whole access unit of a channel. -/
def decodes (n : Nat) : Engine := { last := n, busy := true, whole := true }

theorem witness_ChannelsOpenFeedAndClose :
    (let c : Instr := .mediaOpen hd0 media1
     let s := fetched c (mediaState none)
     let r := devRead 0 media1.profile 64 (took c s)
     Ready c s ∧ r.2.1 = 0 ∧ mediaCheck 0 media1 r.2.2 r.1 = 0 ∧ chanGet r.1 0 = none)
    ∧ (let c : Instr := .mediaFeed hd0 4095 3 64 pageSize
       let s := fetched c (mediaState (some chan1))
       Ready c s ∧ chanOf s 0 4095 = some chan1 ∧ chan1.closing = none ∧ chan1.endFed = false ∧ chan1.feeds = []
        ∧ mapped s 0 pageSize 64 = true ∧ inTurn s c = true)
    ∧ (∀ room ∈ [8, 7],
        let ch := { chan1 with feeds := [feed8], raw := [] }
        let s := mediaState (some ch)
        s.faultSeq.phase = .none ∧ awake s = true ∧ fnActive s 0 = true ∧ feed8.flags.testBit 1 = false ∧ feed8.flags.testBit 0 = false
          ∧ ch.buffered < 0x800000 ∧ min (0x800000 - ch.buffered) feed8.left = 8
          ∧ (let r := devRead 0 feed8.addr room (passing 1 (spansOf s 0 feed8.addr room) s)
             r.2.1 = 0 ∧ (chanGet r.1 4095).isSome = true))
    ∧ (let big := { feed8 with left := 0x900000 }
       min (0x800000 - { chan1 with feeds := [big] }.buffered) big.left < big.left)
    ∧ (let s := mediaState (some chan1)
       chanOf s 0 4095 = some chan1 ∧ Ready (.mediaRelease hd0 4095 1) (fetched (.mediaRelease hd0 4095 1) s)
        ∧ getR s (Reg.RELEASED 4095) + 1 ≤ getR s (Reg.SAMPLES 4095)
        ∧ chan1.queue = [] ∧ spent chan1 = false
        ∧ Ready (.mediaClose hd0 4095 1) (fetched (.mediaClose hd0 4095 1) s) ∧ inTurn (fetched (.mediaClose hd0 4095 1) s) (.mediaClose hd0 4095 1) = true)
    ∧ (let c : Instr := .mediaClose hd0 4095 0
       let s := fetched c { mediaState (some chan1) with engines := [(0, decodes 4095)] }
       Ready c s ∧ inTurn s c = true ∧ decoding s 4095 = true ∧ chanOf s 0 4095 = some chan1) := by
  unfold Ready
  refine ⟨?_, ?_, ?_, ?_, ?_, ?_⟩ <;> decide +kernel

/-- A transport packet of PID 256 with payload only and counter 6. -/
def packet1 : Bytes := [0x47#8, 1#8, 0#8, 0x16#8] ++ List.replicate 184 5#8

/-- The channel in a stream whose video has PID 256 and counter 5 last. -/
def inStream : Channel :=
  { chan1 with raw := [(false, packet1)], demux := { Demux.fresh with synced := true, video := some (256, 1), cc := [(256, (5, false))] } }

/-- A picture's bytes before it. -/
def run8 : EsRun :=
  { data := [1#8, 2#8], header := [], openEnd := false, left := none, damaged := false, scrambled := false, disc := false, pts := some 9,
    codec := 1 }

/-- A sound MPEG-2 frame of 64 by 64, shown or not. -/
def frame1 (shown : Bool) : PicInfo :=
  { profile := .mpeg2Main, level := 1, highTier := false, tool := false, width := 64, height := 64, chroma := 1, depth := 8, need := none,
    refs := [], sound := true, hashOk := true, shown := shown, order := 0, form := .frame }

/-- The channel with those bytes, three buffers and an MPEG-2 stream. -/
def chan8 : Channel := { chan1 with a := { media1 with dpb := 3 }, es := [run8], codec := 1 }

/-- Engine 0 decodes for it. -/
def decoding8 : State := { mediaState (some chan8) with engines := [(0, decodes 4095)] }

theorem witness_PicturesBecomeSamples :
    (let s := mediaState (some inStream)
     s.faultSeq.phase = .none ∧ awake s = true ∧ inStream.demux.synced = true ∧ inStream.packet ≤ packet1.length ∧ inStream.a.input = 0
      ∧ byteAt packet1 0 = 0x47 ∧ be16 packet1 1 % 0x2000 = 256 ∧ byteAt packet1 3 % 16 = 6 ∧ (pmtPid inStream).map (·.2) ≠ some 256
      ∧ (byteAt packet1 1).testBit 7 = false ∧ (byteAt packet1 1).testBit 6 = false ∧ byteAt packet1 3 / 16 = 1
      ∧ tget inStream.demux.cc 256 = some (5, false) ∧ 6 = (5 + 1) % 16)
    ∧ (∀ last ∈ [4094, 4095],
        let s := { mediaState (some chan8) with engines := [(0, { decodes last with busy := false })] }
        let t := (chansOn s 0).foldl (fun s c => reachBreaks ([4095].contains c.1) c.1 c.2.es.length s) s
        let cs := (chansOn t 0).filter (servable t [4095])
        logicalOf s 0 = some 0 ∧ (engineGet s 0).busy = false ∧ healthy s = true ∧ awake s = true
          ∧ (cs.find? (fun x => (engineGet s 0).last < x.1) = some (4095, chan8)
            ∨ cs.find? (fun x => (engineGet s 0).last < x.1) = none ∧ cs.head? = some (4095, chan8)))
    ∧ (let s := decoding8
       let r := engineReads chan8 [] (engineFree 0 s)
       let x := takeEs 2 chan8.es
       engineGet s 0 = { last := 4095, busy := true, whole := true } ∧ awake s = true ∧ s.faultSeq.phase = .none ∧ s.errs = []
        ∧ chanGet s 4095 = some chan8 ∧ chan8.run = none ∧ inputOver chan8 = false ∧ chan8.held = []
        ∧ r.2 = false ∧ r.1.faultSeq.phase = .none ∧ chanGet r.1 4095 = some chan8 ∧ x.head = some (some 9, 1)
        ∧ dropReason chan8 x 1 true (frame1 true) [] = none ∧ dropReason chan8 x 1 true { frame1 true with hashOk := false } [] = some 8
        ∧ dropReason chan8 x 1 true { frame1 false with sound := false } [] = some 1)
    ∧ (let ch := { chan1 with ready := [[1#8]] }
       let s := mediaState (some ch)
       chanGet s 4095 = some ch ∧ s.faultSeq.phase = .none ∧ awake s = true ∧ ch.endFed = false ∧ (objGet s 0 ch.a.pool).isSome = true) := by
  refine ⟨?_, ?_, ?_, ?_⟩ <;> decide +kernel

/-- SHUFFLE_OPEN of channel 4095 alone, two samples deep, in batches of one. -/
def shuffle1 : ShuffleArgs :=
  { ctx := 63, token := 29, tile := 0, channels := 1, depth := 2, epochWindows := 1, batch := 1, feed := 1, feedSlots := 1,
    listAddr := pageSize + 8192, firstWindow := 1, startStep := 2 }

/-- Its deck. -/
def deck1 : Deck :=
  { fn := 0, a := shuffle1, chans := [{ num := 4095, pool := 3, first := 0, count := 4, closed := none }], slotBytes := 16, pos := 2, window := 1,
    begun := true, started := some 0, halted := false, starved := false }

/-- A state with a context and a deck, and a sample header of channel 4095 with this number in its pool's slots 0 and 1. -/
def decked (d : Option Deck) (n : Byte) : State :=
  { mediaState (some { chan1 with a := { media1 with slotCount := 4 } }) with
    regs := (Reg.DECODE_FITNESS 0, 0x40000000#64) :: (Reg.SAMPLES 4095, 2#64) :: (Reg.DECK_STATE 63, 0#64) :: store0.regs
    objs := [(objKey 0 1, { obj1 with size := 2097152 }), (objKey 0 3, { obj1 with handle := 3, first := 7, size := 2097152, pages := [.near 0 6] })]
    ctxs := [(63, ctxWith endPitch tile0)], ctxFn := [(63, 0)], decks := (match d with | some d => [(63, d)] | none => [])
    near := mwrite (mwrite (mwrite [] (frameAddr 0 0 + 8192) [0xFF#8, 0x0F#8]) (frameAddr 0 6) ([0x4A#8, 0x58#8, 0x4D#8, 0x53#8, 0xFF#8, 0x0F#8] ++ [0#8, 0#8, n]))
      (frameAddr 0 6 + 16) ([0x4A#8, 0x58#8, 0x4D#8, 0x53#8, 0xFF#8, 0x0F#8] ++ [0#8, 0#8, n]) }

/-- The number of the sample that the deck delivers next. -/
def wanted : Nat := ((deckTarget (ctxWith endPitch tile0) deck1).map (·.2)).getD 9

/-- The hypotheses of a copy, of a sample that is the one wanted or is not. -/
def deckMeets (good : Bool) : Bool :=
  let s := decked (some deck1) (BitVec.ofNat 8 (if good then wanted else 99))
  match deckTarget (ctxWith endPitch tile0) deck1 with
  | none => false
  | some (j, k) =>
    match objGet s 0 j.pool with
    | none => false
    | some pool =>
      let from_ := (j.first + k % j.count) * deck1.slotBytes
      let r := objRead true pool from_ deck1.slotBytes (passing 5 (objSpans s pool (deck1.slotBytes / pageSize + 2) from_ deck1.slotBytes) s)
      deckRuns s deck1 && deck1.begun && deckPhase s 63 deck1 == 2 && (objGet s 0 1).isSome && (deckGet r.1 63).isSome
        && r.2.map (fun b => slice b 0 4 == [0x4A#8, 0x58#8, 0x4D#8, 0x53#8] && fieldAt b 4 2 == j.num && fieldAt b 8 8 == k) == some good

theorem witness_DecksDeliverSamples :
    (let c : Instr := .shuffleOpen hd0 shuffle1
     let s := fetched c (decked none 0#8)
     let r := devRead 0 shuffle1.listAddr (2 * shuffle1.channels) (took c s)
     Ready c s ∧ ctxOf s 0 63 = some (ctxWith endPitch tile0) ∧ (ctxWith endPitch tile0).started = false ∧ deckGet s 63 = none ∧ r.2.1 = 0
      ∧ shuffleCheck 0 (ctxWith endPitch tile0) shuffle1 ((List.range shuffle1.channels).map (fun i => fieldAt r.2.2 (2 * i) 2)) r.1 = 0)
    ∧ (let s := fetched (.shuffleClose hd0 63) (decked (some deck1) 0#8)
       Ready (.shuffleClose hd0 63) s ∧ (ctxOf s 0 63).isSome = true ∧ deckGet s 63 = some deck1)
    ∧ (let d := { deck1 with begun := false }
       let s := decked (some d) 0#8
       deckRuns s d = true ∧ d.begun = false ∧ deckPhase s 63 d = 2 ∧ d.window % d.a.epochWindows = 0)
    ∧ deckMeets true = true ∧ deckMeets false = true := by
  unfold Ready
  refine ⟨?_, ?_, ?_, ?_, ?_⟩ <;> decide +kernel

/-! ### The fabric and recovery -/

/-- A fold that keeps a bound keeps it. -/
theorem foldl_lt {α : Type} (n : Nat) (f : Nat → α → Nat) (h : ∀ c a, c < n → f c a < n) (l : List α) (c : Nat) (g : c < n) :
    l.foldl f c < n := by
  induction l generalizing c with
  | nil => exact g
  | cons a t ih => exact ih _ (h c a g)

/-- A CRC-64 is 64 bits. -/
theorem crc64_lt (b : Bytes) : crc64 b < 2 ^ 64 := by
  refine Nat.xor_lt_two_pow (foldl_lt _ _ (fun c a h => foldl_lt _ _ (fun c _ h => ?_) _ _ (Nat.xor_lt_two_pow h (by omega))) _ _ (by decide))
    (by decide)
  unfold crc64Step
  split
  · exact Nat.xor_lt_two_pow (by omega) (by decide)
  · omega

/-- An unacknowledged flit of a class. -/
def txFlit (cls n : Nat) : TxFlit := { cls := cls, first := true, last := true, body := [1#8], fseq := n, sentAt := 0, replays := 16 }

/-- Port 7 up and enabled, port 0 up, with what waits on port 7. -/
def linked (x : FabPort) : State :=
  { svc with
    regs := [(Reg.PORT_STATUS 7, 0x40000000#64), (Reg.PORT_STATUS 0, 0x40000000#64), (Reg.PORT_CONTROL 7, 0x80000000#64), (Reg.FABRIC_ID, 9#64),
      (Reg.TILE_POWER 0, 0#64), (Reg.FWD_TABLE 0, 0xFFFFFFF0#64)] ++ svc.regs
    fab := [(7, x)], pins := { svc.pins with fabClk := true } }

/-- A data flit of 304 bytes that is a whole JOB message. -/
def dataWord : BitVec 64 := BitVec.ofNat 64 (2 ^ 37 + 2 ^ 34 + 2 ^ 33 + 304 * 2 ^ 12)

theorem witness_FlitsAreRetried :
    portUp (linked FabPort.fresh) 7 = true
    ∧ (∀ b : Bytes, ∃ c c' : BitVec 64, crc64 (natLe 8 dataWord.toNat ++ slice b 0 304) = c.toNat
        ∧ crc64 (natLe 8 dataWord.toNat ++ slice b 0 304) ≠ c'.toNat)
    ∧ (let h := readHdr dataWord.toNat
       h.type = 1 ∧ h.fseq = (portGet (linked FabPort.fresh) 7).rxNext ∧ (portGet (linked FabPort.fresh) 7).ahead = [] ∧ 1 ≤ h.bytes ∧ h.bytes = 304
        ∧ h.first = true ∧ h.last = true)
    ∧ (let s := { linked { FabPort.fresh with replay := [txFlit 0 0, txFlit 1 1] } with timeBase := 125 }
       portUp s 7 = true ∧ (portGet s 7).replay = [txFlit 0 0, txFlit 1 1] ∧ (txFlit 0 0).sentAt + 125 ≤ s.timeBase ∧ exhausted s 7 = true) := by
  refine ⟨by decide +kernel, fun b => ?_, by decide +kernel, by decide +kernel⟩
  have h := crc64_lt (natLe 8 dataWord.toNat ++ slice b 0 304)
  refine ⟨BitVec.ofNat 64 (crc64 (natLe 8 dataWord.toNat ++ slice b 0 304)),
    BitVec.ofNat 64 (crc64 (natLe 8 dataWord.toNat ++ slice b 0 304) + 1), ?_, ?_⟩
  · rw [BitVec.toNat_ofNat, Nat.mod_eq_of_lt h]
  · rw [BitVec.toNat_ofNat]
    omega

/-- What a peer told in training. -/
def peer1 : TrainInfo := { lanesPass := 0x1EF, signal := true, peerVersions := 0xFE, peerId := 65535, peerQuiet := true, credits := [] }

/-- Port 7 in training, or retraining. -/
def training7 (n : Nat) : State := setF (linked { FabPort.fresh with sentMask := 0x0E }) (Reg.PORT_STATUS 7) 31 29 n

theorem witness_PortsComeUp :
    (∀ n ∈ [1, 3],
      fabricOn (training7 n) = true ∧ bitR (training7 n) (Reg.PORT_CONTROL 7) 31 = true ∧ portState (training7 n) 7 = n
        ∧ commonVersion (portGet (training7 n) 7).sentMask peer1.peerVersions.val = some 3
        ∧ commonVersion (portGet (training7 n) 7).sentMask 0xF1 = none ∧ peer1.peerId % 65536 ≠ fabricId (training7 n) ∧ 9 = fabricId (training7 n))
    ∧ ({ peer1 with signal := false }.signal = false ∧ popcount 0x7F < 8 ∧ 8 ≤ popcount peer1.lanesPass.val)
    ∧ (let s := { linked { FabPort.fresh with quietBoth := true } with timeBase := 2500 }
       portState s 7 = 2 ∧ (portGet s 7).quietBoth = true ∧ (portGet s 7).lastData + 2500 ≤ s.timeBase ∧ votesOnPort s 7 = false) := by
  refine ⟨?_, ?_, ?_⟩ <;> decide +kernel

/-- A message of a pitch's identifier and a route, and one mesh flit. -/
def jobBody (id : Byte) : Bytes := [id, 0#8, 0#8, 0#8, 0#8, 0#8, 0#8, 0#8, 5#8, 0#8] ++ List.replicate 22 0#8 ++ List.replicate 32 3#8

/-- Context 63 takes route 5 from another part. -/
def takesJobs : State :=
  let p := { endPitch with routes := [{ route01 5 false with src := 0x8000 }] }
  { linked FabPort.fresh with ctxs := [(63, ctxWith p tile0)], ctxFn := [(63, 0)] }

/-- The router of site 24 works. -/
def onRow1 : State := setR takesJobs (Reg.TILE_POWER 24) 0

theorem witness_MessagesAndMeshFlits :
    (arrives takesJobs 7 (jobBody 1#8) = true ∧ takesJobs.errs = [] ∧ 9 % 65536 = fabricId takesJobs ∧ healthy takesJobs = true
      ∧ (jobBody 1#8).length % 32 = 0 ∧ jobTarget takesJobs (fieldAt (jobBody 1#8) 0 8) (fieldAt (jobBody 1#8) 8 2) = some 63
      ∧ jobTarget takesJobs (fieldAt (jobBody 2#8) 0 8) (fieldAt (jobBody 2#8) 8 2) = none)
    ∧ (let s := linked FabPort.fresh
       arrives s 7 [1#8] = true ∧ 0 % 65536 ≠ fabricId s ∧ fwdEntry s 0 = 0 ∧ portUp s 0 = true ∧ fwdEntry s 1 = 15 ∧ 1 % 65536 ≠ fabricId s)
    ∧ (routerOn takesJobs 0 = true ∧ MeshPort.n ≠ .e ∧ MeshPort.n ≠ .w ∧ takesJobs.faultSeq.phase = .none)
    ∧ (connected 24 .n = true ∧ connected 24 .s = true ∧ columnPort .n = true ∧ columnPort .e = false ∧ routerOn onRow1 24 = true
      ∧ outranked onRow1 5 [] = false
      ∧ outranked { onRow1 with uns := [{ late1 with group := 0 }, { late1 with id := 5 }] } 5 [4] = true)
    ∧ (∀ o ∈ [true, false],
        let q : StorePort := { openNow := o, at_ := 0, held := [.bar2Read 0 4], behind := [] }
        let s := { svc with ports := [(575, q)], cycle := 4096, bar2q := [] }
        tget s.ports 575 = some q ∧ q.at_ + 4096 ≤ s.cycle ∧ { q with held := [] }.held = []) := by
  refine ⟨?_, ?_, ?_, ?_⟩ <;> decide +kernel

/-- A self-test that finds a broken bypass in die 3. -/
def badTest : SelfTest :=
  { okTest with sites := [{ site := 575, router := true, bypass := false, caller := true, vector := true, store := true, arrays := 15, failBank := 0,
                            fused := false }] }

theorem witness_FaultSequenceAndRecovery :
    ((let s := { inPhase .sequence svc with timeBase := 25000 }
      s.faultSeq.phase = .sequence ∧ s.faultSeq.since + 25000 ≤ s.timeBase)
    ∧ (let s := { inPhase .quiesced (setR svc Reg.FAULT_CONTROL 1) with timeBase := 25000 }
       s.faultSeq.phase = .quiesced ∧ fld s Reg.FAULT_CONTROL 15 0 ≠ 0xFFFF
        ∧ s.faultSeq.since + fld s Reg.FAULT_CONTROL 15 0 * 25000 ≤ s.timeBase))
    ∧ (let s := inPhase .recovering svc
       s.faultSeq.phase = .recovering ∧ full s = true ∧ 48 ≤ fitEngines okTest
        ∧ (∀ st, st < 8 → stackFails (writeEngines okTest (writeDies okTest [0, 1, 2, 3] (recoverStores s))) okTest st = false))
    ∧ (∀ d, d < 4 → 128 ≤ fitCount okTest d) ∧ fitCount badTest 3 < 128 := by
  refine ⟨?_, ?_, ?_, ?_⟩ <;> decide +kernel

/-! ### Training -/

/-- The vote record of a device alone, of a root with a child on port 7, or of a child whose parent is on port 7. -/
def voteAlone : VoteRec := { id := 3, device := 0, jobDevices := 1, parent := 0, parentPort := 0, children := 0, timeout := 1 }
def voteRoot : VoteRec := { voteAlone with jobDevices := 2, children := 0x80 }
def voteChild : VoteRec := { voteAlone with jobDevices := 2, device := 1, parentPort := 7 }

/-- A plan of one group of 1,024 parameters under plain descent. -/
def plan1 : SweepPlan :=
  { lossScale := 0x3F800000, growth := 2, consts := List.replicate 32 0#8,
    recs := [{ group := 1, rule := 0, gflags := 0, params := 1024, objs := [11, 12, 13, 14, 0, 0], constIndex := 0, constSteps := 1 }] }

/-- A training pitch of one vote. -/
def trainP (v : VoteRec) : Pitch :=
  { pitchOf [.vote true 31 3, .endStep true 0] with
    flags := 1, votes := [v], sweep := some plan1
    objs := [{ page1 0 with id := 11, format := 1 }, { page1 0 with id := 12, format := 1 }, { page1 0 with id := 13, format := 0x13 },
      { page1 0 with id := 14, format := 0x13 }] }

/-- Its context, with what tile 0 holds. -/
def trainC (v : VoteRec) (t : TileCtx) : Ctx := { ctxWith (trainP v) t with started := true, handles := [1, 2, 3, 4] }

/-- The state of its training in a phase. -/
def inTraining (v : VoteRec) (t : TileCtx) (tr : Train) (phase : Nat) : State :=
  { linked FabPort.fresh with
    regs := [(Reg.STEP_STATE 63, BitVec.ofNat 64 (phase * 2 ^ 28)), (Reg.STEP 63, 0#64), (Reg.LOSS_SCALE 63, 0x3F800000#64), (Reg.GOOD_STEPS 63, 1#64),
      (Reg.SWEEP_STATUS 0, 0x80000000#64), (Reg.STACK_STATUS 0, 0x80000000#64), (Reg.CODEC_STATUS 0, 0x80000000#64),
      (Reg.RANDOM_STATUS, 0xC0000000#64)] ++ (linked FabPort.fresh).regs
    ctxs := [(63, trainC v t)], ctxFn := [(63, 0)], train := [(63, tr)], drbg := some { key := 0, v := 0 }
    objs := [(objKey 0 1, { obj1 with format := 1, size := 2097152 }),
      (objKey 0 2, { obj1 with handle := 2, first := 2, pages := [.near 0 1], format := 1, size := 2097152 }),
      (objKey 0 3, { obj1 with handle := 3, first := 3, pages := [.near 0 2], format := 0x13, size := 2097152 }),
      (objKey 0 4, { obj1 with handle := 4, first := 4, pages := [.near 0 3], format := 0x13, size := 2097152 })] }

/-- Tile 0 has issued its vote. -/
def voted : TileCtx := { tile0 with vote := some (3, some 31, true) }

/-- A vote message of kind 0 or 1 for step 0 of that pitch. -/
def voteBytes (kind flag : Byte) : Bytes :=
  [1#8] ++ List.replicate 15 0#8 ++ [3#8, 0#8, 0#8, 0#8, kind, flag] ++ List.replicate 10 0#8

/-- A vote result under way. -/
def flagged0 (ups : Tbl Bool) : Train := { Train.fresh with vote := { flag := some (true, 0), ups := ups } }

theorem witness_VotesResolve :
    (∀ v ∈ [voteAlone, voteRoot],
      let s := inTraining v voted Train.fresh 2
      let x := trainC v voted
      training s 63 = some x ∧ nextVote s 63 x = some (0, 3) ∧ tileFlags x 3 = some true ∧ voteRec x.pitch 3 = some v ∧ healthy s = true
        ∧ awake s = true ∧ (trainGet s 63).vote.flag = none)
    ∧ (childPorts voteAlone = [] ∧ isRoot voteAlone = true ∧ 7 ∈ childPorts voteRoot ∧ isRoot voteRoot = true)
    ∧ (let s := inTraining voteRoot voted Train.fresh 2
       let b := voteBytes 0#8 1#8
       arrives s 7 b = true ∧ s.errs = [] ∧ voteBody 9 0 b (takeMessage 7 1 b s) = some (63, trainC voteRoot voted, 0, voteRoot)
        ∧ tget (trainGet s 63).vote.ups 7 = none ∧ (trainGet s 63).vote.flag = none ∧ voteBody 8 0 b (takeMessage 7 1 b s) = none)
    ∧ (let s := inTraining voteChild voted (flagged0 []) 2
       let b := voteBytes 1#8 1#8
       arrives s 7 b = true ∧ voteBody 9 1 b (takeMessage 7 1 b s) = some (63, trainC voteChild voted, 0, voteChild) ∧ isRoot voteChild = false
        ∧ voteChild.parentPort = 7 ∧ (trainGet s 63).vote.flag.isSome = true ∧ voteBody 8 1 b (takeMessage 7 1 b s) = none)
    ∧ (let s := { inTraining voteRoot voted (flagged0 []) 2 with timeBase := 25 }
       training s 63 = some (trainC voteRoot voted) ∧ (trainGet s 63).vote.flag = some (true, 0)
        ∧ nextVote s 63 (trainC voteRoot voted) = some (0, 3) ∧ voteRec (trainC voteRoot voted).pitch 3 = some voteRoot ∧ healthy s = true
        ∧ 0 + voteRoot.timeout * 25 ≤ s.timeBase) := by
  refine ⟨?_, ?_, ?_, ?_, ?_⟩ <;> decide +kernel

/-- The vote has its result, and tile 0 stands at its END_STEP. -/
def stepDone (skip : Bool) : Train := { Train.fresh with votesDone := 1, result := some skip }

/-- The task of pack 0 on engine 0. -/
def task0 : SweepTask := { group := 0, pack := 0, pass := 0, engine := 0 }

/-- What the writes of a task come to. -/
def isDone : Wrote → Bool
  | .done _ => true
  | _ => false

theorem witness_SweepEndsTheStep :
    (let t := { tile0 with atEnd := true }
     let s := inTraining voteAlone t (stepDone false) 2
     let x := trainC voteAlone t
     training s 63 = some x ∧ healthy s = true ∧ awake s = true ∧ phaseOf s 63 = 2 ∧ stepReady s 63 x = true
      ∧ snapshotClear (trainGet s 63) = true)
    ∧ (let s := inTraining voteAlone tile0 { stepDone false with tasks := [task0] } 3
       let x := trainC voteAlone tile0
       let r := (planOf x.pitch).recs.headD { group := 9, rule := 4, gflags := 0, params := 0, objs := [], constIndex := 0, constSteps := 0 }
       let q := readForms x r 0 (passForms r 0) (nextTask s 63 0 x).1
       training s 63 = some x ∧ (nextTask s 63 0 x).2 = some task0 ∧ healthy s = true ∧ awake s = true ∧ phaseOf s 63 = 3
        ∧ bitR s (Reg.SWEEP_STATUS 0) 31 = true ∧ stagingFull s 63 x = false ∧ groupRec x.pitch 0 = some r ∧ r.rule ≠ 4 ∧ task0.pass ≠ 4
        ∧ s.errs = [] ∧ taskHeld (nextTask s 63 0 x).1 x r (taskReads (planOf x.pitch) r 0 0) = false ∧ q.2.isSome = true
        ∧ isDone (writeForms x r (sweepPlain (planOf x.pitch) r (getR s (Reg.STEP 63)) (invScale (getR s (Reg.LOSS_SCALE 63))) 0
            (q.2.getD [])).writes q.1) = true)
    ∧ (∀ skip ∈ [true, false],
        let s := inTraining voteAlone tile0 (stepDone skip) 3
        let x := trainC voteAlone tile0
        training s 63 = some x ∧ healthy s = true ∧ awake s = true ∧ phaseOf s 63 = 3 ∧ (trainGet s 63).tasks = [] ∧ tailStaged s 63 x = true ∧ (trainGet s 63).result = some skip
          ∧ getR s (Reg.GOOD_STEPS 63) + 1 = (planOf x.pitch).growth ∧ 0 < (planOf x.pitch).growth)
    ∧ (let s := inTraining voteAlone tile0 (stepDone false) 4
       let x := trainC voteAlone tile0
       training s 63 = some x ∧ healthy s = true ∧ awake s = true ∧ phaseOf s 63 = 4 ∧ mayComplete s 63 = true ∧ (x.tiles.map (·.1)).Nodup ∧ x.tiles = [(0, tile0)]
        ∧ tokGet tile0 31 < 255) := by
  refine ⟨?_, ?_, ?_, ?_⟩ <;> decide +kernel

/-- DELTA_ATTACH to a ring of 1 MiB, or to a part beyond port 7. -/
def attach1 (dest : Nat) : DeltaArgs :=
  { ctx := 63, dest := dest, lag := 3, verMinor := 1, verMajor := 1, port := 7, device := 4, ringAddr := 65536, ringSize := 2 ^ 20 }

/-- A stream whose first record is ready, with what it has sent. -/
def stream0 (dest : Nat) (sent : List (Nat × Nat × Nat × Nat)) : Stream :=
  { newStream (attach1 dest) 77 with snapOwed := false, jobs := [.start 0], sent := sent }

/-- A training state with that stream. -/
def streamed (dest : Nat) (sent : List (Nat × Nat × Nat × Nat)) : State :=
  inTraining voteAlone tile0 { Train.fresh with stream := some (stream0 dest sent) } 3

/-- A port that is down. -/
def downPort (s : State) : State := setF s (Reg.PORT_STATUS 7) 31 29 0

/-- An ACK of stream 77 up to SEQ 0. -/
def ackBytes : Bytes := [77#8] ++ List.replicate 31 0#8

theorem witness_DeltaStreams :
    (∀ d ∈ [1, 2],
      let st := stream0 d []
      let s := streamed d []
      let x := trainC voteAlone tile0
      let r := buildRecord x st (.start 0) s
      training s 63 = some x ∧ (trainGet s 63).stream = some st ∧ s.endings = [] ∧ healthy s = true ∧ awake s = true ∧ st.broken = false ∧ st.seq < 2 ^ 32 - 1
        ∧ st.jobs = [.start 0] ∧ jobReady (.start 0) = true ∧ (trainGet s 63).next = none ∧ r.2.map (·.length) = some 128 ∧ ringNeeds st 128 ≤ ringFree st
        ∧ portUp r.1 7 = true ∧ portUp (buildRecord x st (.start 0) (downPort s)).1 7 = false)
    ∧ (let s := { inTraining voteAlone tile0 { Train.fresh with wait := some (0, false) } 5 with timeBase := 25001 }
       (trainGet s 63).wait = some (0, false) ∧ 0 + 25000 < s.timeBase)
    ∧ (let st := stream0 2 [(0, 0, 128, 77)]
       let s := streamed 2 [(0, 0, 128, 77)]
       arrives s 7 ackBytes = true ∧ s.errs = [] ∧ 9 % 65536 = fabricId s ∧ ackBytes.length = 32 ∧ streamOf s (fieldAt ackBytes 0 8) = some (63, st)
        ∧ (∃ e ∈ st.sent, (e.2.2.2 == fieldAt ackBytes 0 8 && e.1 ≤ fieldAt ackBytes 8 8) = true)
        ∧ (let u := { s with timeBase := 2500000 }
           (trainGet u 63).stream = some st ∧ st.broken = false ∧ st.sent ≠ [] ∧ st.ackAt + 2500000 ≤ u.timeBase ∧ healthy u = true ∧ (trainGet u 63).next = none))
    ∧ (∀ d ∈ [0, 1, 2],
        let c : Instr := .deltaAttach hd0 (attach1 d)
        let s := fetched c (inTraining voteAlone tile0 Train.fresh 1)
        let x := trainC voteAlone tile0
        Ready c s ∧ (attach1 d).dest ≤ 2 ∧ (attach1 d).lag ≤ 3 ∧ ctxGet s 63 = some x ∧ x.fn = 0 ∧ x.pitch.flags.testBit 0 = true
          ∧ attachCode (took c s) x (attach1 d) (trainGet s 63).stream = 0 ∧ (trainGet s 63).stream = none
          ∧ (streamId (took c s)).2.isSome = true) := by
  unfold Ready
  refine ⟨?_, ?_, ?_, ?_⟩ <;> decide +kernel

/-! ### The tray bus -/

/-- An open round of number 5 that this node did, or did not, propose. -/
def round5 (mine : Bool) (w : Option Nat) : Round :=
  { num := 5, mine := mine, mask := 3, began := 0, vote := some mine, no := false, yes := 0, window := w }

/-- On the bus with a round open or not, and frames to send. -/
def inRound (r : Option Round) (q : List (Nat × Bytes)) : State := { onTray with tray := { onTray.tray with round := r, txq := q } }

theorem witness_RoundsOnTheTray :
    (onBus onTray = true ∧ mySlot onTray = 0 ∧ onTray.tray.round = none ∧ baseCamp onTray = false ∧ onTray.tray.mute = false
      ∧ bitR (setB onTray Reg.TRAY_CONTROL 29 false) Reg.TRAY_CONTROL 29 = false ∧ onTray.waiting = [] ∧ onTray.power.rest = .awake)
    ∧ (∀ m ∈ [true, false],
        let s := inRound (some (round5 m none)) []
        onBus s = true ∧ mySlot s = 0 ∧ s.tray.round = some (round5 m none) ∧ (round5 m none).num = 261 % 256 ∧ (round5 m none).window = none
          ∧ s.tray.mute = false)
    ∧ (let s := { resting .sleep onTray with timeBase := 125000 }
       onBus s = true ∧ mySlot s = 0 ∧ s.power.rest = .sleep ∧ s.power.restAt + 125000 ≤ s.timeBase)
    ∧ (let f := (4, slice (([5, 0] ++ two 3).map (BitVec.ofNat 8)) 0 8)
       let s := inRound none [f]
       onBus s = true ∧ (0 : Fin 16).val = mySlot s ∧ s.tray.mute = false ∧ f ∈ s.tray.txq)
    ∧ (let s := { inRound (some (round5 true none)) [] with timeBase := 2500000 }
       commitQueued s = false ∧ (round5 true none).began + 2500000 ≤ s.timeBase ∧ mayTransmit s = true)
    ∧ (let s := { inRound (some (round5 false none)) [] with timeBase := 5000000 }
       s.tray.round = some (round5 false none) ∧ (round5 false none).mine = false ∧ (round5 false none).began + 5000000 ≤ s.timeBase)
    ∧ (let s := { inRound (some (round5 false (some 0))) [] with timeBase := 500000 }
       s.tray.round = some (round5 false (some 0)) ∧ 0 + 500000 ≤ s.timeBase ∧ s.tray.txq = [] ∧ s.power.rest = .awake
        ∧ full s = true ∧ s.start.inReset = false ∧ full (setR s Reg.POWER_STATE 0) = false) := by
  refine ⟨?_, ?_, ?_, ?_, ?_, ?_, ?_⟩ <;> decide +kernel

/-- Slot 15 was last heard at cycle 0. -/
def heard15 : Member := { seen := 0, present := true, budget := none }

theorem witness_MembersBudgetAndErrors :
    (onBus onTray = true ∧ (15 : Fin 16).val ≠ mySlot onTray ∧ (0 : Fin 16).val = mySlot onTray ∧ onTray.tray.mute = false)
    ∧ (mySerial + 1) % 2 ^ 56 ≠ mySerial
    ∧ (onTray.tray.budgetAt ≤ onTray.timeBase ∧ onTray.tray.presenceAt ≤ onTray.timeBase)
    ∧ (let s := { onTray with timeBase := 75000000, tray := { onTray.tray with others := [(15, heard15)] } }
       (15, heard15) ∈ s.tray.others ∧ heard15.present = true ∧ heard15.seen + 75000000 ≤ s.timeBase)
    ∧ (let s := setF onTray Reg.TRAY_ERRORS 31 24 16
       onBus s = true ∧ 16 ≤ unacked s ∧ bitR s Reg.TRAY_STATUS 30 = false)
    ∧ (let s := setB (inRound none [(1, [])]) Reg.TRAY_STATUS 30 true
       onBus s = true ∧ s.tray.txq = [(1, [])] ∧ bitR s Reg.TRAY_STATUS 30 = true ∧ s.tray.retryAt ≤ s.timeBase)
    ∧ (256 ≤ tec (setF onTray Reg.TRAY_ERRORS 7 0 255) + 1)
    ∧ bitR (setB onTray Reg.TRAY_STATUS 28 true) Reg.TRAY_STATUS 28 = true := by
  refine ⟨?_, by omega, ?_, ?_, ?_, ?_, ?_, ?_⟩ <;> decide +kernel

/-! ### Randomness and the whole machine -/

/-- RANDOM_GET into the page of object 1. -/
def randomAsk (len : Nat) : Instr := .randomGet hd0 0 len pageSize

/-- The DRBG serves, and object 1 is there. -/
def randomReady (len : Nat) : State := fetched (randomAsk len) { random false with objs := [(objKey 0 1, obj1)] }

theorem witness_RandomGetAnswers :
    (∀ len ∈ [16, 4096],
      let s := randomReady len
      Ready (randomAsk len) s ∧ mapped s 0 pageSize len = true ∧ (draw false len (took (randomAsk len) s)).2.isSome = true)
    ∧ (match draw false 16 (took (randomAsk 16) (randomReady 16)) with
      | (v, some b) => (devWrite 0 pageSize b v).2
      | (_, none) => 9) = 0
    ∧ Ready (randomAsk 15) (randomReady 15) ∧ Ready (randomAsk 4112) (randomReady 4112)
    ∧ mapped (fetched (randomAsk 16) (random false)) 0 pageSize 16 = false
    ∧ (let s := fetched (randomAsk 16) { failedSource with objs := [(objKey 0 1, obj1)] }
       Ready (randomAsk 16) s ∧ mapped s 0 pageSize 16 = true ∧ (draw false 16 (took (randomAsk 16) s)).2 = none) := by
  unfold Ready
  refine ⟨?_, ?_, ?_, ?_, ?_, ?_⟩ <;> decide +kernel

theorem witness_StepRunsTheFrontCommand :
    { svc with pending := [.quiesced, .alone] }.pending = [.quiesced, .alone] ∧ svc.pending = [] ∧ svc.pins.aon = true := by decide

theorem witness_MemoriesStayCanonical :
    MemoriesWf State.reset ∧ MemoriesWf { State.reset with near := mwrite [] 5 [1#8, 2#8], host := mwrite [] 9 [3#8] } := by
  unfold MemoriesWf
  decide

theorem witness_ContextsStayInRange : ContextsWf (resident endPitch tile0) ∧ ContextsWf State.reset :=
  ⟨ctxsWf_of _ (by decide), ctxsWf_of _ (by decide)⟩

/-- A command changes what `f` picks of a state. -/
def changes {α : Type} [DecidableEq α] (f : State → α) (c : Instr) (s : State) : Bool :=
  match exec c s with
  | .next t => f t != f s
  | _ => false

theorem witness_KeysChangeOverTheNetwork :
    changes (·.pitchKeys) (.pitchKeySet 3 0 7 (4#8 :: List.replicate 96 1#8)) (ruled 3) = true
    ∧ changes (·.store.anchors) (.anchorClear 3 0 0xFF) (anchored (ruled 3)) = true
    ∧ changes (fun t => tget t.keys 255) (.keyLoad 3 0 255 1 (List.replicate 32 1#8)) (ruled 3) = true := by
  refine ⟨?_, ?_, ?_⟩ <;> decide +kernel

theorem witness_FiguresRoundTrip : Fig.ok (.endStep true 16383) = true ∧ decodeFig 0b10001100000000000011111111111111 = some (.endStep true 16383) := by
  decide

/-- The signs that the Lion rule names. -/
theorem witness_UpdateRules : (∃ e k, Fp.fin false 5 0 = .fin false (k + 1) e) ∧ (∃ e k, Fp.fin true 5 0 = .fin true (k + 1) e) :=
  ⟨⟨0, 4, rfl⟩, ⟨0, 4, rfl⟩⟩

/-! ### Figure words, bit by bit from the encodings of R118-R122 -/

theorem test_figure_words :
    decodeFig 0b00001111100010000000000000000001 = some (.set 15 0x80001)
    ∧ decodeFig 0b00010000100011111111111111111111 = some (.addg 1 0xFFFFF)
    ∧ decodeFig 0b00011000001000000000011100000000 = some (.repeatBody 2 7)
    ∧ decodeFig 0b00100100001100000000110100000000 = some (.load 2 0 true true 13)
    ∧ decodeFig 0b00101110000000000000011000000000 = some (.table 3 6)
    ∧ decodeFig 0b00110101010101100000001100000000 = some (.stream 10 true false true false true 4 3)
    ∧ decodeFig 0b00111000000101000010010001000000 = some (.vector 0 2 true 0 2 4 false true)
    ∧ decodeFig 0b01000010100000000000000100000010 = some (.send 5 0x102)
    ∧ decodeFig 0b01001011010111010000000000000111 = some (.receive 6 true 29 7)
    ∧ decodeFig 0b01010110010000111000000000000001 = some (.fetch 12 true 3 0x8001)
    ∧ decodeFig 0b01011000100000000000000000001001 = some (.store 1 false 0 9)
    ∧ decodeFig 0b01100000000111100000000011111111 = some (.wait 30 255)
    ∧ decodeFig 0b01101100000001010000000000000110 = some (.post true 5 6)
    ∧ decodeFig 0b01110100000000000000000000001010 = some (.sleep true 10)
    ∧ decodeFig 0b01111000000000010000000000000010 = some (.yieldToken 1 2)
    ∧ decodeFig 0b01111100000000000000000000000011 = some (.yieldTime 3)
    ∧ decodeFig 0b10000000001111110000000000000100 = some (.vote true 31 4)
    ∧ decodeFig 0b10001000000000000000000000000101 = some (.endStep false 5) := by
  decide

/-- Refused: an unused opcode (R115); a Reserved bit of SET (R118); LOAD with MODE 0b110 (R119); column scales in INT8 mode (R119); a STREAM to no array (R119); an unlisted operation (R120); MXIN and MXOUT at once (R120); ROUND with FP32 (R120); WAIT for 0 (R122); a route in a POST to this tile (R122). -/
theorem test_figure_words_refused :
    decodeFig 0b00000000000000000000000000000000 = none
    ∧ decodeFig 0b00001111100100000000000000000000 = none
    ∧ decodeFig 0b00100101100000000000000000000000 = none
    ∧ decodeFig 0b00100100010100000000000000000000 = none
    ∧ decodeFig 0b00110000000100000000001100000000 = none
    ∧ decodeFig 0b00111000111000000000000000000000 = none
    ∧ decodeFig 0b00111000000000010010000011000000 = none
    ∧ decodeFig 0b00111000000010000000000000000000 = none
    ∧ decodeFig 0b01100000000000000000000000000000 = none
    ∧ decodeFig 0b01101000000001010000000000000110 = none := by
  decide

/-- The words of those figures are encoded back (R118-R122). -/
theorem test_figure_encode :
    encodeFig (.set 15 0x80001) = 0b00001111100010000000000000000001
    ∧ encodeFig (.stream 10 true false true false true 4 3) = 0b00110101010101100000001100000000
    ∧ encodeFig (.vector 0 2 true 0 2 4 false true) = 0b00111000000101000010010001000000
    ∧ encodeFig (.store 1 false 0 9) = 0b01011000100000000000000000001001 := by
  decide

/-! ### Ill-formed terms -/

/-- A header whose queue pair, generation, CID or TAG does not fit its envelope is refused (R376). -/
theorem test_headers_refused :
    hd0.wf = true ∧ { hd0 with qp := 1024 }.wf = false ∧ { hd0 with gen := 65536 }.wf = false ∧ { hd0 with cid := 65536 }.wf = false
      ∧ { hd0 with tag := 2 ^ 64 }.wf = false := by decide

/-- No word spells a command: the table gives no bits. -/
theorem test_no_command_word : decodeTableWord 32 0 = none ∧ (State.reset.withFetchWord 32 0).pending = [] := by decide

end Sys2Proof.Tests
end

section
/-! SUPPORT. Accesses to a BAR0 (R5, R366, R367, R371): what a plain write stores, what a read answers, and what an unaligned access
records. -/

namespace Sys2Proof.Machine

/-! ### What brings an access to the registers -/

/-- An access to a part that is awake acts at once (R482, R485). -/
theorem access_of_awake {s : State} (h : s.power.rest = .awake) (i : Instr) (body : State → State) :
    access i body s = body s := by
  have hs : sleeping s = false := by simp [sleeping, h]
  have hd : leaveDoze s = s := by simp [leaveDoze, h]
  simp [access, hs, hd]

/-- REGISTER_WRITE to a part that is awake completes with what the write leaves. -/
theorem Goes.registerWrite {s u : State} {v : View} {off size be x : Nat} {P : State → Prop} (ha : s.power.rest = .awake)
    (hu : (barWrite v off size be x s).1 = u) (hP : P u) : Goes (.registerWrite v off size be x) s P :=
  Goes.of (congrArg (commit s) ((access_of_awake ha _ _).trans hu)) hP

/-- LOW_HALF_READ from a part that is awake completes with what the read leaves. -/
theorem Goes.lowHalfRead {s u : State} {v : View} {off size : Nat} {P : State → Prop} (ha : s.power.rest = .awake)
    (hu : barRead v off size s = u) (hP : P u) : Goes (.lowHalfRead v off size) s P :=
  Goes.of (congrArg (commit s) ((access_of_awake ha _ _).trans hu)) hP

/-- A word at a multiple of 4 is aligned: it cannot cross a 64-byte boundary. -/
theorem unaligned_word {off : Nat} (h : off % 4 = 0) : unaligned off 4 = false := by
  have : off % 64 ≤ 60 := by omega
  simp [unaligned, h]
  omega

theorem barWrite_unaligned {s : State} {v : View} {off size : Nat} (hr : reached s v = true) (hu : unaligned off size = true)
    (be x : Nat) : (barWrite v off size be x s).1 = viewError v 2 off s := by
  simp [barWrite, hr, hu]

theorem barRead_unaligned {s : State} {v : View} {off size : Nat} (hr : reached s v = true) (hu : unaligned off size = true) :
    barRead v off size s = emit (viewError v 1 off s) .completerAbort := by
  simp [barRead, hr, hu]

/-- An aligned 4-byte write is the write of one word. -/
theorem barWrite_word {s t : State} {v : View} {off be x : Nat} (hr : reached s v = true) (ha : off % 4 = 0)
    (hw : writeWord v off off (be % 16) (x % 2 ^ 32) s = some t) : (barWrite v off 4 be x s).1 = t := by
  simp [-Nat.reducePow, barWrite, hr, unaligned_word ha, ha, ceilDiv, writeWords, show 2 ^ 4 = 16 from rfl, hw]

/-- An aligned 4-byte read answers one word. -/
theorem barRead_word {s t : State} {v : View} {off w : Nat} (hr : reached s v = true) (ha : off % 4 = 0)
    (hw : readWord s v off = (t, w)) : barRead v off 4 s = emit t (.readData (natLe 4 w)) := by
  have hlo : off / 4 * 4 = off := by omega
  simp [barRead, hr, unaligned_word ha, hlo, ceilDiv, readWords, hw, slice, natLe]

/-! ### The bits of a plain write -/

theorem testBit_mergeBits (old x m b : Nat) :
    (mergeBits old x m).testBit b = if m.testBit b then x.testBit b else old.testBit b := by
  simp only [mergeBits, Nat.testBit_or, Nat.testBit_xor, Nat.testBit_and]
  cases m.testBit b <;> simp

/-- The mask of the enabled bytes covers bit `b` where byte `b / 8` is enabled. -/
theorem testBit_enMask (en : Nat) {b : Nat} (h : b < 32) : (enMask en).testBit b = en.testBit (b / 8) := by
  have table : ∀ (e0 e1 e2 e3 : Bool) (b : Fin 32),
      ((if e0 then 0xFF else 0) + (if e1 then 0xFF00 else 0) + (if e2 then 0xFF0000 else 0)
        + (if e3 then 0xFF000000 else 0)).testBit b.val = [e0, e1, e2, e3].getD (b.val / 8) false := by decide
  have mask : enMask en = (if en.testBit 0 then 0xFF else 0) + (if en.testBit 1 then 0xFF00 else 0)
      + (if en.testBit 2 then 0xFF0000 else 0) + (if en.testBit 3 then 0xFF000000 else 0) := by
    simp [enMask, List.range_succ]
  have byte : b / 8 = 0 ∨ b / 8 = 1 ∨ b / 8 = 2 ∨ b / 8 = 3 := by omega
  rw [mask, table _ _ _ _ ⟨b, h⟩]
  rcases byte with hb | hb | hb | hb <;> simp [hb]

/-- A bit of a 32-bit write under the byte enables: an RW bit of an enabled byte is taken, every other stays. -/
theorem testBit_plainValue (old x rw be : Nat) {b : Nat} (h : b < 32) :
    (mergeBits old (x % 2 ^ 32) (rw &&& enMask (be % 16))).testBit b
      = if rw.testBit b && be.testBit (b / 8) then x.testBit b else old.testBit b := by
  have hx : (x % 2 ^ 32).testBit b = x.testBit b := by
    rw [Nat.testBit_mod_two_pow, decide_eq_true h, Bool.true_and]
  have hbe : (be % 16).testBit (b / 8) = be.testBit (b / 8) := by
    rw [show 16 = 2 ^ 4 from rfl, Nat.testBit_mod_two_pow]
    simp [show b / 8 < 4 by omega]
  rw [testBit_mergeBits, Nat.testBit_and, testBit_enMask _ h, hx, hbe]

/-! ### What a plain write does to the state -/

/-- A register without W1C bits takes the RW bits of the mask, and no message follows (R5, R464). -/
theorem writeFields_of_w1c_zero {r : RegRow} (h : r.w1c = 0) (v : View) (k x m : Nat) (s : State) :
    writeFields v r k x m s = setR s k (mergeBits (getR s k) x (r.rw &&& m)) := by
  simp only [writeFields, h, Nat.and_zero, Nat.xor_zero, if_true]
  split <;> rfl

theorem writeLocked_of_rwl_zero {r : RegRow} (h : r.rwl = 0) (v : View) (off k x m : Nat) (s : State) :
    writeLocked v off r k x m s = s := by
  simp [writeLocked, h]

theorem plainWrite_not_excluded {v : View} {r : RegRow} {k : Nat} (h : plainWrite v r k = true) : excluded v k = false := by
  simp only [plainWrite, Bool.and_eq_true, Bool.not_eq_true'] at h
  obtain ⟨⟨⟨⟨⟨⟨-, hx⟩, -⟩, -⟩, -⟩, -⟩, -⟩ := h
  exact hx

/-- A register whose write is plain has its fields stored and nothing else done. -/
theorem writeReg_of_plain {v : View} {r : RegRow} {k : Nat} (h : plainWrite v r k = true) (off x m : Nat) (s : State) :
    writeReg v off r k x m s = setR s k (mergeBits (getR s k) x (r.rw &&& m)) := by
  simp only [plainWrite, Bool.and_eq_true, Bool.or_eq_true, beq_iff_eq, Bool.not_eq_true', List.contains_eq_mem,
    decide_eq_false_iff_not, List.mem_cons, List.not_mem_nil, or_false, not_or] at h
  obtain ⟨⟨⟨⟨⟨⟨⟨⟨hwo, hw1c⟩, hrwl⟩, -⟩, hk⟩, hport⟩, hmsix⟩, hqp⟩, hvec⟩ := h
  obtain ⟨hproto, hfault, hreport, hfctl, hpower, htctl, htcfg, hlimit⟩ := hk
  have hport' : ¬(decide (0x700100 ≤ k) && decide (k < 0x700500) && decide (k % 0x80 = 4)) = true := by
    simpa [Bool.and_eq_false_iff, beq_eq_decide] using hport
  have hmask : (if (decide (viewFn v ≠ 0) && decide (0x40 ≤ k % 0x1000) && decide (k % 0x1000 < 0x50)
      && decide (k / 0x1000 % 0x100000 = 1)) = true then x &&& 0x1F1F1F1F else x) = x := by
    rw [if_neg]
    rcases hvec with h | h
    · simp [h]
    · rw [Bool.and_assoc (decide _), h]
      simp
  have hstore : writeLocked v off r k x m (writeFields v r k x m s) = setR s k (mergeBits (getR s k) x (r.rw &&& m)) := by
    rw [writeLocked_of_rwl_zero hrwl, writeFields_of_w1c_zero hw1c]
  have hwo' : ¬r.wo ≠ 0 := not_not.mpr hwo
  have hw1c' : (decide (0x1000000 ≤ k) && decide (k < 0x4000000) && r.w1c != 0) = false := by simp [hw1c]
  simp only [writeReg, hwo', hproto, hfault, hreport, hfctl, hpower, htctl, htcfg, hlimit, hport', hmask, hstore, hmsix, hw1c',
    if_false, Bool.false_eq_true]
  split
  · rename_i heq
    simp [heq] at hqp
  · rfl

/-- The two offsets of the interrupt block that R507 keeps from all but the physical function name no register there (R470). -/
theorem keyOf_pfOnlyIrq {s : State} {v : View} {off : Nat} (hv : viewFn v ≠ 0) (h : off = 0x1004 ∨ off = 0x1024) :
    keyOf s v off = none := by
  rcases h with rfl | rfl <;> simp [keyOf, hv, instKey, pfOnlyIrq]

/-- A write of the word of a plain 32-bit register stores the enabled RW bits and leaves all else. -/
theorem writeWord_of_plain {s : State} {v : View} {off k : Nat} {r : RegRow} (hk : keyOf s v off = some k)
    (hw : wordAt k = some (r, k, false)) (h32 : r.width = 32) (hp : plainWrite v r k = true) (acc en x : Nat) :
    ∃ u, writeWord v acc off en x s = some u
      ∧ (∀ b, b < 32 → bitR u k b = (mergeBits (getR s k) x (r.rw &&& enMask en)).testBit b) ∧ Only s u [k] [] := by
  by_cases hm : enMask en = 0
  · refine ⟨s, by simp [writeWord, hm], fun b _ => ?_, Only.refl s _ _⟩
    simp [hm, testBit_mergeBits, bitR]
  · have hirq : ¬(decide (viewFn v ≠ 0) && (off == 0x1004 || off == 0x1024) && (keyOf s v 0x1000).isSome) = true := by
      simp only [Bool.and_eq_true, Bool.or_eq_true, decide_eq_true_eq, beq_iff_eq]
      rintro ⟨⟨hv, ho⟩, -⟩
      rw [keyOf_pfOnlyIrq hv ho] at hk
      cases hk
    refine ⟨setR s k (mergeBits (getR s k) x (r.rw &&& enMask en)), ?_, fun b hb => bitR_setR_same s k _ hb,
      (Only.refl s _ _).setR _ (by simp)⟩
    simp only [writeWord, hm, hirq, hk, hw, h32, plainWrite_not_excluded hp, writeReg_of_plain hp, if_false]
    simp

/-! ### Access errors (R366, R371) -/

theorem ACCESS_LOG_ne_FN_CAUSE (f : Nat) : Reg.ACCESS_LOG f ≠ Reg.FN_CAUSE f := by
  simp [Reg.ACCESS_LOG, Reg.FN_CAUSE]

/-- The cause bit is set in any case, and the capture is taken where none is held. -/
theorem accessError_eq (f kind off : Nat) (s : State) : accessError f kind off s =
    if bitR s (Reg.ACCESS_LOG f) 31 then orR s (Reg.FN_CAUSE f) 1
    else setR (orR s (Reg.FN_CAUSE f) 1) (Reg.ACCESS_LOG f) (2 ^ 31 + kind * 2 ^ 28 + off % 2 ^ 26) := by
  simp [accessError, ACCESS_LOG_ne_FN_CAUSE]

theorem bitR_accessError_cause (f kind off : Nat) (s : State) : bitR (accessError f kind off s) (Reg.FN_CAUSE f) 0 = true := by
  have hc : bitR (orR s (Reg.FN_CAUSE f) 1) (Reg.FN_CAUSE f) 0 = true := by simp
  rw [accessError_eq]
  split
  · exact hc
  · rw [bitR_setR_ne _ _ _ (ACCESS_LOG_ne_FN_CAUSE f).symm, hc]

theorem accessError_only (f kind off : Nat) (s : State) (ps : List Piece) :
    Only s (accessError f kind off s) [Reg.FN_CAUSE f, Reg.ACCESS_LOG f] ps := by
  have hc : Only s (orR s (Reg.FN_CAUSE f) 1) [Reg.FN_CAUSE f, Reg.ACCESS_LOG f] ps := (Only.refl s _ _).setR _ (by simp)
  rw [accessError_eq]
  split
  · exact hc
  · exact hc.setR _ (by simp)

/-- The word that a capture leaves: VALID, the kind and the offset. -/
theorem captureWord_fields {kind : Nat} (off : Nat) (hk : kind < 8) :
    (2 ^ 31 + kind * 2 ^ 28 + off % 2 ^ 26).testBit 31 = true ∧ bitsOf (2 ^ 31 + kind * 2 ^ 28 + off % 2 ^ 26) 30 28 = kind
      ∧ bitsOf (2 ^ 31 + kind * 2 ^ 28 + off % 2 ^ 26) 25 0 = off % 2 ^ 26 := by
  refine ⟨?_, ?_, ?_⟩
  · rw [Nat.testBit_eq_decide_div_mod_eq, decide_eq_true_eq]
    omega
  · simp only [bitsOf]
    omega
  · simp only [bitsOf]
    omega

theorem accessError_capture {s : State} {f kind : Nat} (h : bitR s (Reg.ACCESS_LOG f) 31 = false) (hk : kind < 8) (off : Nat) :
    bitR (accessError f kind off s) (Reg.ACCESS_LOG f) 31 = true ∧ fld (accessError f kind off s) (Reg.ACCESS_LOG f) 30 28 = kind
      ∧ fld (accessError f kind off s) (Reg.ACCESS_LOG f) 25 0 = off % 2 ^ 26 := by
  rw [accessError_eq, h, if_neg Bool.false_ne_true, bitR_setR_same _ _ _ (by omega), fld_setR_same _ _ _ (by omega),
    fld_setR_same _ _ _ (by omega)]
  exact captureWord_fields off hk

/-! ### The word that a read answers (R367) -/

theorem pbaPlace_off {p n off : Nat} (h : ¬(p ≤ off ∧ off < p + n)) : (decide (p ≤ off) && decide (off < p + n)) = false := by
  simpa using h

section Read

variable {s : State} {v : View} {off k key : Nat} {r : RegRow} {high : Bool}
  (hp : ¬((pbaPlace (viewFn v)).1 ≤ off ∧ off < (pbaPlace (viewFn v)).1 + (pbaPlace (viewFn v)).2))
  (hk : keyOf s v off = some k) (hw : wordAt k = some (r, key, high))
include hp hk hw

theorem readWord_narrow (h32 : r.width = 32) : readWord s v off = (s, regValue s v key % 2 ^ 32) := by
  simp [-Nat.reducePow, readWord, pbaPlace_off hp, hk, hw, h32]

/-- The low half loads the reader's latch with the high half. -/
theorem readWord_low (h64 : r.width = 64) (hl : high = false) :
    readWord s v off
      = ({ s with latch := tput s.latch (readerOf v) (key, regValue s v key / 2 ^ 32) }, regValue s v key % 2 ^ 32) := by
  simp [-Nat.reducePow, readWord, pbaPlace_off hp, hk, hw, h64, hl]

/-- The high half comes from the latch that holds this register. -/
theorem readWord_high {h : Nat} (h64 : r.width = 64) (hh : high = true) (hlatch : tget s.latch (readerOf v) = some (key, h)) :
    readWord s v off = (s, h) := by
  simp [-Nat.reducePow, readWord, pbaPlace_off hp, hk, hw, h64, hh, hlatch]

end Read

/-! ### The obligation -/

/-- Settles O5: a write is one word whose RW bits are merged under the byte enables, a read is one word of the register or the
latch, and an unaligned access is an access error of its kind. -/
theorem registerAccesses : Obligations.RegisterAccesses := by
  unfold Obligations.RegisterAccesses
  refine ⟨⟨?plainWrite, ?unalignedWrite⟩, ?read, ?unalignedRead⟩
  case plainWrite =>
    intro s v off be x r k hr hawake ha hk hw h32 hplain
    obtain ⟨u, hu, hbits, honly⟩ := writeWord_of_plain hk hw h32 hplain off (be % 16) (x % 2 ^ 32)
    refine Goes.registerWrite hawake (barWrite_word hr ha hu) ⟨fun b hb => ?_, honly⟩
    rw [hbits b hb, testBit_plainValue _ _ _ _ hb, bitR]
  case unalignedWrite =>
    intro s f off size be x hr hawake hun hfree
    obtain ⟨hvalid, hkind, hoff⟩ := accessError_capture hfree (show 2 < 8 by decide) off
    exact Goes.registerWrite hawake (barWrite_unaligned hr hun be x)
      ⟨bitR_accessError_cause f 2 off s, hvalid, hkind, hoff, accessError_only f 2 off s []⟩
  case read =>
    intro s v off k key r high hr hawake ha hp hk hw
    refine ⟨fun h32 => ?narrow, fun h64 hl => ?low, fun h h64 hh hlatch => ?high⟩
    case narrow =>
      exact Goes.lowHalfRead hawake (barRead_word hr ha (readWord_narrow hp hk hw h32)) ⟨rfl, (Only.refl s _ _).emit _ (by simp)⟩
    case low =>
      have honly : Only s { s with latch := tput s.latch (readerOf v) (key, regValue s v key / 2 ^ 32) } [] [.out, .latch] :=
        (Only.refl s _ _).latch _ (by simp)
      exact Goes.lowHalfRead hawake (barRead_word hr ha (readWord_low hp hk hw h64 hl))
        ⟨rfl, tget_tput_same _ _ _, fun w hne => tget_tput_ne _ _ hne, honly.emit _ (by simp)⟩
    case high =>
      exact Goes.lowHalfRead hawake (barRead_word hr ha (readWord_high hp hk hw h64 hh hlatch))
        ⟨rfl, (Only.refl s _ _).emit _ (by simp)⟩
  case unalignedRead =>
    intro s f off size hr hawake hun
    have hout : (accessError f 1 off s).out = s.out := (accessError_only f 1 off s []).2.1 .out (by simp)
    exact Goes.lowHalfRead hawake (barRead_unaligned hr hun)
      ⟨congrArg (· ++ [Output.completerAbort]) hout, bitR_accessError_cause f 1 off s,
        (accessError_only f 1 off s _).emit _ (by simp)⟩

end Sys2Proof.Machine
end

section
/-! SUPPORT. Sites, arrays and what a context holds on a tile: what a read of one gives after each of their updates, and what the
updates leave alone (R116, R124). -/

namespace Sys2Proof.Machine

/-! ### Sites -/

@[simp] theorem siteGet_setR (s : State) (k v i : Nat) : siteGet (setR s k v) i = siteGet s i := rfl
@[simp] theorem arrGet_setR (s : State) (k v i a : Nat) : arrGet (setR s k v) i a = arrGet s i a := rfl
@[simp] theorem tcGet_setR (s : State) (k v c i : Nat) : tcGet (setR s k v) c i = tcGet s c i := rfl

@[simp] theorem siteGet_sitePut_same (s : State) (i : Nat) (x : Site) : siteGet (sitePut s i x) i = x := by
  simp [siteGet, sitePut, tgetD]

@[simp] theorem siteGet_siteMod_same (s : State) (i : Nat) (f : Site → Site) : siteGet (siteMod i f s) i = f (siteGet s i) :=
  siteGet_sitePut_same s i _

@[simp] theorem getR_sitePut (s : State) (i : Nat) (x : Site) (k : Nat) : getR (sitePut s i x) k = getR s k := rfl
@[simp] theorem sitePut_cycle (s : State) (i : Nat) (x : Site) : (sitePut s i x).cycle = s.cycle := rfl
@[simp] theorem sitePut_errs (s : State) (i : Nat) (x : Site) : (sitePut s i x).errs = s.errs := rfl
@[simp] theorem sitePut_tileStore (s : State) (i : Nat) (x : Site) : (sitePut s i x).tileStore = s.tileStore := rfl

/-- An array's state lies in its site's. -/
theorem arrGet_of_siteGet {s u : State} {i : Nat} (h : (siteGet u i).arrs = (siteGet s i).arrs) (a : Nat) :
    arrGet u i a = arrGet s i a := by
  rw [arrGet, arrGet, h]

namespace Only

variable {s u : State} {ks : List Nat} {ps : List Piece}

theorem siteMod (h : Only s u ks ps) (i : Nat) (f : Site → Site) (hp : Piece.sites ∈ ps) : Only s (siteMod i f u) ks ps :=
  h.sites _ hp

theorem getR_eq (h : Only s u ks ps) {k : Nat} (hk : k ∉ ks) : getR u k = getR s k := h.1 k hk

theorem siteGet_eq (h : Only s u ks ps) (hp : Piece.sites ∉ ps) (i : Nat) : siteGet u i = siteGet s i := by
  have hsites : u.sites = s.sites := h.2.1 .sites hp
  rw [siteGet, siteGet, hsites]

theorem tcGet_eq (h : Only s u ks ps) (hp : Piece.ctxs ∉ ps) (c i : Nat) : tcGet u c i = tcGet s c i := by
  have hctxs : u.ctxs = s.ctxs := h.2.1 .ctxs hp
  rw [tcGet, tcGet, ctxGet, ctxGet, hctxs]

end Only

/-! ### Arrays -/

@[simp] theorem arrGet_arrMod_same (s : State) (i a : Nat) (f : Arr → Arr) : arrGet (arrMod i a f s) i a = f (arrGet s i a) := by
  simp [arrMod, arrPut, arrGet, tgetD]

theorem arrGet_arrMod_ne (s : State) (i : Nat) {a b : Nat} (f : Arr → Arr) (h : b ≠ a) :
    arrGet (arrMod i a f s) i b = arrGet s i b := by
  simp [arrMod, arrPut, arrGet, tgetD, tget_tput_ne _ _ h]

@[simp] theorem arrPut_errs (s : State) (i a : Nat) (x : Arr) : (arrPut s i a x).errs = s.errs := rfl
@[simp] theorem arrPut_tileStore (s : State) (i a : Nat) (x : Arr) : (arrPut s i a x).tileStore = s.tileStore := rfl
@[simp] theorem arrMod_errs (s : State) (i a : Nat) (f : Arr → Arr) : (arrMod i a f s).errs = s.errs := rfl
@[simp] theorem arrMod_tileStore (s : State) (i a : Nat) (f : Arr → Arr) : (arrMod i a f s).tileStore = s.tileStore := rfl

theorem Only.arrMod {s u : State} {ks : List Nat} {ps : List Piece} (h : Only s u ks ps) (i a : Nat) (f : Arr → Arr)
    (hp : Piece.sites ∈ ps) : Only s (arrMod i a f u) ks ps := h.sites _ hp

/-! ### What a context holds on a tile -/

/-- A change of what a context holds on a tile changes the contexts alone. -/
theorem tcMod_eq (c i : Nat) (f : TileCtx → TileCtx) (s : State) : ∃ x, tcMod c i f s = { s with ctxs := x } := by
  unfold tcMod ctxMod
  split
  · exact ⟨_, rfl⟩
  · exact ⟨s.ctxs, rfl⟩

section TcMod

variable (c i : Nat) (f : TileCtx → TileCtx) (s : State)

@[simp] theorem siteGet_tcMod (j : Nat) : siteGet (tcMod c i f s) j = siteGet s j := by
  obtain ⟨x, h⟩ := tcMod_eq c i f s; rw [h]; rfl
@[simp] theorem getR_tcMod (k : Nat) : getR (tcMod c i f s) k = getR s k := by
  obtain ⟨x, h⟩ := tcMod_eq c i f s; rw [h]; rfl
@[simp] theorem tcMod_cycle : (tcMod c i f s).cycle = s.cycle := by
  obtain ⟨x, h⟩ := tcMod_eq c i f s; rw [h]
@[simp] theorem tcMod_errs : (tcMod c i f s).errs = s.errs := by
  obtain ⟨x, h⟩ := tcMod_eq c i f s; rw [h]
@[simp] theorem tcMod_tileStore : (tcMod c i f s).tileStore = s.tileStore := by
  obtain ⟨x, h⟩ := tcMod_eq c i f s; rw [h]

end TcMod

theorem Only.tcMod {s u : State} {ks : List Nat} {ps : List Piece} (h : Only s u ks ps) (c i : Nat) (f : TileCtx → TileCtx)
    (hp : Piece.ctxs ∈ ps) : Only s (tcMod c i f u) ks ps := by
  obtain ⟨x, e⟩ := tcMod_eq c i f u
  rw [e]
  exact h.ctxs x hp

theorem tcGet_tcMod_same {c i : Nat} (f : TileCtx → TileCtx) {s : State} {t : TileCtx} (h : tcGet s c i = some t) :
    tcGet (tcMod c i f s) c i = some (f t) := by
  obtain ⟨x, hx, ht⟩ := Option.bind_eq_some_iff.mp h
  have hmod : tcMod c i f s = { s with ctxs := tput s.ctxs c { x with tiles := tput x.tiles i (f t) } } := by
    simp [tcMod, ctxMod, hx, ht]
  simp [hmod, tcGet, ctxGet]

theorem slotOf_of_tcGet {s : State} {c i : Nat} {t : TileCtx} (h : tcGet s c i = some t) : slotOf s c i = t.slot := by
  simp [slotOf, h]

/-! ### The tile store -/

theorem tsRead_congr {s u : State} (h : u.tileStore = s.tileStore) (l w n : Nat) : tsRead u l w n = tsRead s l w n := by
  rw [tsRead, tsRead, h]

/-- Writes of words change the tile store alone. -/
theorem tsWrites_eq (l : Nat) (ws : List (Nat × Bytes)) (s : State) : ∃ m, tsWrites l ws s = { s with tileStore := m } := by
  induction ws generalizing s with
  | nil => exact ⟨s.tileStore, rfl⟩
  | cons w ws ih =>
    obtain ⟨m, h⟩ := ih (tsWrite s l w.1 w.2)
    exact ⟨m, h⟩

theorem Only.tsWrites {s u : State} {ks : List Nat} {ps : List Piece} (h : Only s u ks ps) (l : Nat) (ws : List (Nat × Bytes))
    (hp : Piece.tileStore ∈ ps) : Only s (tsWrites l ws u) ks ps := by
  obtain ⟨m, e⟩ := tsWrites_eq l ws u
  rw [e]
  exact h.tileStore m hp

end Sys2Proof.Machine
end

section
/-! SUPPORT. The issue of a figure and its completion (R124-R126): what each leaves of the registers, the site and the context, and what
a command must show to complete with them. -/

namespace Sys2Proof.Machine

/-! ### The status words (R66, R141) -/

theorem CALLER_STATUS_mem_statusRegs (i : Nat) : Reg.CALLER_STATUS i ∈ statusRegs i := by simp [statusRegs]

theorem ARR_STATUS_mem_statusRegs (i : Nat) {a : Nat} (h : a < 4) : Reg.ARR_STATUS i a ∈ statusRegs i := by
  have ha : a = 0 ∨ a = 1 ∨ a = 2 ∨ a = 3 := by omega
  rcases ha with rfl | rfl | rfl | rfl <;> simp [statusRegs]

theorem statusRegs_subset_issueRegs (e : Env) : ∀ k ∈ statusRegs e.site, k ∈ issueRegs e := by
  simp [statusRegs, issueRegs]

/-- The status of an array is one register's. -/
theorem syncArr_eq_setR (i : Nat) (s : State) (a : Nat) : ∃ v, syncArr i s a = setR s (Reg.ARR_STATUS i a) v := by
  unfold syncArr
  cases (arrGet s i a).latch <;> exact ⟨_, rfl⟩

theorem syncArrs_tileStore (i : Nat) (as : List Nat) (s : State) : (as.foldl (syncArr i) s).tileStore = s.tileStore := by
  induction as generalizing s with
  | nil => rfl
  | cons a as ih =>
    obtain ⟨v, h⟩ := syncArr_eq_setR i s a
    rw [List.foldl_cons, ih, h, setR_tileStore]

theorem syncArrs_only (i : Nat) {as : List Nat} (ha : ∀ a ∈ as, a < 4) {s u : State} (h : Only s u (statusRegs i) []) :
    Only s (as.foldl (syncArr i) u) (statusRegs i) [] := by
  induction as generalizing u with
  | nil => exact h
  | cons a as ih =>
    obtain ⟨v, e⟩ := syncArr_eq_setR i u a
    rw [List.foldl_cons, e]
    exact ih (fun b hb => ha b (List.mem_cons_of_mem _ hb)) (h.setR v (ARR_STATUS_mem_statusRegs i (ha a List.mem_cons_self)))

/-- The caller's status is one register's, and those of its arrays follow it. -/
theorem syncSite_eq_foldl (i : Nat) (s : State) : ∃ a b c, syncSite i s = (List.range 4).foldl (syncArr i)
    (setR (setR (setR s (Reg.CALLER_STATUS i) a) (Reg.CALLER_STATUS i) b) (Reg.CALLER_STATUS i) c) := by
  simp only [syncSite, setF_eq]
  exact ⟨_, _, _, rfl⟩

theorem syncSite_only (i : Nat) (s : State) : Only s (syncSite i s) (statusRegs i) [] := by
  have hk := CALLER_STATUS_mem_statusRegs i
  obtain ⟨a, b, c, h⟩ := syncSite_eq_foldl i s
  rw [h]
  exact syncArrs_only i (fun _ ha => List.mem_range.mp ha) ((((Only.refl s _ _).setR a hk).setR b hk).setR c hk)

section SyncSite

variable (i : Nat) (s : State)

@[simp] theorem siteGet_syncSite (j : Nat) : siteGet (syncSite i s) j = siteGet s j := (syncSite_only i s).siteGet_eq (by simp) j
@[simp] theorem arrGet_syncSite (j a : Nat) : arrGet (syncSite i s) j a = arrGet s j a :=
  arrGet_of_siteGet (by rw [siteGet_syncSite]) a
@[simp] theorem tcGet_syncSite (c j : Nat) : tcGet (syncSite i s) c j = tcGet s c j := (syncSite_only i s).tcGet_eq (by simp) c j
@[simp] theorem syncSite_errs : (syncSite i s).errs = s.errs :=
  (syncSite_only i s).2.1 .errs (by simp)
@[simp] theorem syncSite_tileStore : (syncSite i s).tileStore = s.tileStore := by
  obtain ⟨a, b, c, h⟩ := syncSite_eq_foldl i s
  rw [h, syncArrs_tileStore, setR_tileStore, setR_tileStore, setR_tileStore]

end SyncSite

theorem Only.syncSite {s u : State} {ks : List Nat} {ps : List Piece} (h : Only s u ks ps) (i : Nat)
    (hk : ∀ k ∈ statusRegs i, k ∈ ks) : Only s (syncSite i u) ks ps :=
  h.trans ((syncSite_only i u).weaken hk (by simp))

/-! ### The width of a site's registers (R140) -/

theorem rowsOf_tile {k : Nat} (h : 0x1000000 ≤ k) (hk : k < 0x100000000) : rowsOf k = (rows_tile, k) := by
  have hranger : ¬Reg.rangerBase ≤ k := by rw [Reg.rangerBase]; omega
  rw [rowsOf, if_neg hranger, if_neg (by omega), if_pos h]

theorem rowAt_eq_find? (k : Nat) : rowAt k = (rowsOf k).1.find? (fun r => r.covers 0 (rowsOf k).2) := rfl

/-- A row of the tile blocks, one copy for each site, whose first copy may hold the key `o` of site 0's block. -/
def SiteRow (o : Nat) (r : RegRow) : Prop := r.cnt1 = 0x240 ∧ r.str1 = 0x10000 ∧ r.base ≤ o ∧ o < r.base + 0x10000

/-- Such a row covers a key of a site's block where it covers the same key of site 0's. -/
theorem covers_site {o i : Nat} {r : RegRow} (h : SiteRow o r) (hi : i < 0x240) : r.covers 0 (o + i * 0x10000) = r.covers 0 o := by
  obtain ⟨hcnt, hstr, hlo, hhi⟩ := h
  have hd : o + i * 0x10000 - r.base = (o - r.base) + i * 0x10000 := by omega
  have hq : ((o - r.base) + i * 0x10000) / 0x10000 = i := by omega
  have h0 : (o - r.base) / 0x10000 = 0 := by omega
  simp [RegRow.covers, hcnt, hstr, hd, hq, h0, hi, show ¬o < r.base by omega, show ¬o + i * 0x10000 < r.base by omega]

/-- The width of a site's register is that of site 0's, found among the first rows. -/
theorem widthOf_site {o i w : Nat} (n : Nat) (hi : i < 0x240) (ho : 0x1000000 ≤ o ∧ o < 0x1010000)
    (hrows : ∀ r ∈ rows_tile.take n, SiteRow o r)
    (hw : ((rows_tile.take n).find? (fun r => r.covers 0 o)).map (·.width) = some w) : widthOf (o + i * 0x10000) = w := by
  obtain ⟨r, hr, rfl⟩ := Option.map_eq_some_iff.mp hw
  have hfind : (rows_tile.take n).find? (fun r => r.covers 0 (o + i * 0x10000)) = some r := by
    rw [← hr]
    exact List.find?_congr (fun r hr => covers_site (hrows r hr) hi)
  have hrow : rowAt (o + i * 0x10000) = some r := by
    rw [rowAt_eq_find?, rowsOf_tile (by omega) (by omega), ← List.take_append_drop n rows_tile, List.find?_append, hfind,
      Option.some_or]
  rw [widthOf, hrow, Option.map_some, Option.getD_some]

/-- FIGURES_ISSUED is a 64-bit counter at every site (R140): the 18th row of the tile blocks. -/
theorem widthOf_FIGURES_ISSUED (i : SiteId) : widthOf (Reg.FIGURES_ISSUED i) = 64 :=
  widthOf_site 18 i.isLt (by decide) (by unfold SiteRow; decide) (by decide)

/-! ### The figure that issues -/

/-- The site of an issue, and what the context holds there. -/
theorem nextIssue_some {s : State} {i : Nat} {e : Env} (h : nextIssue s i = some e) :
    e.site = i ∧ ctxGet s e.c = some e.x ∧ tget e.x.tiles e.site = some e.t := by
  simp only [nextIssue, Option.bind_eq_bind, Option.bind_eq_some_iff] at h
  obtain ⟨l, -, c, -, x, hx, t, ht, w, -, f, -, hcond⟩ := h
  split at hcond
  · cases hcond
    exact ⟨rfl, hx, ht⟩
  · cases hcond

namespace Issues

variable {s : State} {site : SiteId} {e : Env}

theorem site_eq (h : Issues s site e) : e.site = site.val := (nextIssue_some h.1).1

theorem tcGet_eq (h : Issues s site e) : tcGet s e.c e.site = some e.t := by
  obtain ⟨-, hx, ht⟩ := nextIssue_some h.1
  rw [tcGet, hx]
  exact ht

theorem slot_lt (h : Issues s site e) : e.t.slot < 4 := h.2.2.1

theorem inFlight_lt (h : Issues s site e) : inFlight s e.site < 16 := h.2.2.2.1

theorem errs_nil (h : Issues s site e) : s.errs = [] := h.2.2.2.2

end Issues

/-! ### What every issue does (R124, R139) -/

/-- What a context holds on the tile once the figure has issued: its loops have moved on, and it stands inside its step (R118, R124). -/
def issuedCtx (e : Env) (t : TileCtx) : TileCtx := { t with loops := (advanceLoops e.t.loops (e.index + 1)).1, atEnd := false }

@[simp] theorem issuedCtx_slot (e : Env) (t : TileCtx) : (issuedCtx e t).slot = t.slot := rfl

theorem advance_eq (e : Env) (s : State) : advance e s = setNext e.c e.site (advanceLoops e.t.loops (e.index + 1)).2
    (tcMod e.c e.site (issuedCtx e) (addR (holdOff e.site s) (Reg.FIGURES_ISSUED e.site) 1)) := rfl

/-- The end of a hold counts its cycles and changes the site alone. -/
theorem holdOff_eq (i : Nat) (s : State) : holdOff i s = s
    ∨ holdOff i s = setR (sitePut s i { siteGet s i with hold := none }) (Reg.HOLD_CYCLES i)
        (getR s (Reg.HOLD_CYCLES i) + holdTime s i) := by
  cases h : (siteGet s i).hold with
  | none => exact .inl (by simp only [holdOff, h])
  | some x => exact .inr (by simp only [holdOff, h]; rfl)

@[simp] theorem holdOff_cycle (i : Nat) (s : State) : (holdOff i s).cycle = s.cycle := by
  rcases holdOff_eq i s with h | h <;> simp [h]
@[simp] theorem holdOff_errs (i : Nat) (s : State) : (holdOff i s).errs = s.errs := by
  rcases holdOff_eq i s with h | h <;> simp [h]
@[simp] theorem holdOff_tileStore (i : Nat) (s : State) : (holdOff i s).tileStore = s.tileStore := by
  rcases holdOff_eq i s with h | h <;> simp [h]

theorem siteGet_holdOff (i : Nat) (s : State) : siteGet (holdOff i s) i = { siteGet s i with hold := none } := by
  cases h : (siteGet s i).hold with
  | none => simp only [holdOff, h]; rw [← h]
  | some x => simp [holdOff, h]

@[simp] theorem siteGet_advance (e : Env) (s : State) : siteGet (advance e s) e.site = { siteGet s e.site with hold := none } := by
  rw [advance_eq, setNext, setF_eq, siteGet_setR, siteGet_tcMod, addR_eq, siteGet_setR, siteGet_holdOff]

section Advance

variable (e : Env) (s : State)

@[simp] theorem advance_cycle : (advance e s).cycle = s.cycle := by
  rw [advance_eq, setNext, setF_eq, setR_cycle, tcMod_cycle, addR_eq, setR_cycle, holdOff_cycle]
@[simp] theorem advance_errs : (advance e s).errs = s.errs := by
  rw [advance_eq, setNext, setF_eq, setR_errs, tcMod_errs, addR_eq, setR_errs, holdOff_errs]
@[simp] theorem advance_tileStore : (advance e s).tileStore = s.tileStore := by
  rw [advance_eq, setNext, setF_eq, setR_tileStore, tcMod_tileStore, addR_eq, setR_tileStore, holdOff_tileStore]

end Advance

theorem HOLD_CYCLES_ne_FIGURES_ISSUED (i : Nat) : Reg.HOLD_CYCLES i ≠ Reg.FIGURES_ISSUED i := by
  simp [Reg.HOLD_CYCLES, Reg.FIGURES_ISSUED]

theorem FIGURES_ISSUED_ne_CTX_ID (i j : Nat) : Reg.FIGURES_ISSUED i ≠ Reg.CTX_ID i j := by
  simp only [Reg.FIGURES_ISSUED, Reg.CTX_ID]
  omega

theorem getR_holdOff_ne {i k : Nat} (s : State) (h : k ≠ Reg.HOLD_CYCLES i) : getR (holdOff i s) k = getR s k := by
  rcases holdOff_eq i s with e | e
  · rw [e]
  · rw [e, getR_setR_ne _ _ h, getR_sitePut]

theorem holdOff_only (i : Nat) (s : State) : Only s (holdOff i s) [Reg.HOLD_CYCLES i] [.sites] := by
  rcases holdOff_eq i s with e | e
  · rw [e]; exact Only.refl s _ _
  · rw [e]; exact ((Only.refl s _ _).sites _ (by simp)).setR _ (by simp)

section AdvanceOf

variable {s : State} {e : Env} (ht : tcGet s e.c e.site = some e.t)
include ht

theorem tcGet_counted : tcGet (addR (holdOff e.site s) (Reg.FIGURES_ISSUED e.site) 1) e.c e.site = some e.t := by
  rw [addR_eq, tcGet_setR, (holdOff_only e.site s).tcGet_eq (by simp), ht]

theorem tcGet_advance : tcGet (advance e s) e.c e.site = some (issuedCtx e e.t) := by
  rw [advance_eq, setNext, setF_eq, tcGet_setR]
  exact tcGet_tcMod_same _ (tcGet_counted ht)

theorem slotOf_advance : slotOf (advance e s) e.c e.site = e.t.slot := by
  rw [slotOf_of_tcGet (tcGet_advance ht), issuedCtx_slot]

/-- NEXT is written at the slot of the context. -/
theorem advance_eq_setR : ∃ u, Only s u [Reg.FIGURES_ISSUED e.site, Reg.HOLD_CYCLES e.site] [.ctxs, .sites]
    ∧ getR u (Reg.FIGURES_ISSUED e.site) = (getR s (Reg.FIGURES_ISSUED e.site) + 1) % 2 ^ widthOf (Reg.FIGURES_ISSUED e.site)
    ∧ advance e s = setR u (Reg.CTX_ID e.site e.t.slot)
        (setBits (getR u (Reg.CTX_ID e.site e.t.slot)) 13 0 (advanceLoops e.t.loops (e.index + 1)).2) := by
  have hslot := (slotOf_of_tcGet (tcGet_tcMod_same (issuedCtx e) (tcGet_counted ht))).trans (issuedCtx_slot e e.t)
  refine ⟨tcMod e.c e.site (issuedCtx e) (addR (holdOff e.site s) (Reg.FIGURES_ISSUED e.site) 1), ?_, ?_, ?_⟩
  · rw [addR_eq]
    exact (((holdOff_only e.site s).weaken (by simp) (by simp)).setR _ (by simp)).tcMod _ _ _ (by simp)
  · rw [getR_tcMod, addR_eq, getR_setR_same, getR_holdOff_ne s (HOLD_CYCLES_ne_FIGURES_ISSUED _).symm]
  · rw [advance_eq, setNext, hslot, setF_eq]

theorem advance_only : Only s (advance e s) (issueRegs e) [.ctxs, .sites] := by
  obtain ⟨u, hu, -, h⟩ := advance_eq_setR ht
  rw [h]
  exact (hu.weaken (by simp [issueRegs]) (by simp)).setR _ (by simp [issueRegs])

end AdvanceOf

theorem FIGURES_ISSUED_not_mem_statusRegs (i : Nat) : Reg.FIGURES_ISSUED i ∉ statusRegs i := by
  simp only [statusRegs, Reg.FIGURES_ISSUED, Reg.CALLER_STATUS, Reg.ARR_STATUS, List.mem_cons, List.not_mem_nil, or_false]
  omega

theorem CTX_ID_not_mem_statusRegs (i : Nat) {slot : Nat} (h : slot < 4) : Reg.CTX_ID i slot ∉ statusRegs i := by
  simp only [statusRegs, Reg.CTX_ID, Reg.CALLER_STATUS, Reg.ARR_STATUS, List.mem_cons, List.not_mem_nil, or_false]
  omega

section Issued

variable {s u : State} {site : SiteId} {e : Env} {ks : List Nat} {ps : List Piece} (hi : Issues s site e)
  (ho : Only (advance e s) u (ks ++ statusRegs e.site) ps)
include hi ho

/-- A figure counts as issued where its effect leaves the count, NEXT and the context's slot. -/
theorem Issued.of_only (hcount : Reg.FIGURES_ISSUED e.site ∉ ks) (hnext : Reg.CTX_ID e.site e.t.slot ∉ ks)
    (hslot : slotOf u e.c e.site = e.t.slot) : Issued s u e := by
  obtain ⟨v, -, hv, h⟩ := advance_eq_setR hi.tcGet_eq
  have hw : widthOf (Reg.FIGURES_ISSUED e.site) = 64 := by rw [hi.site_eq]; exact widthOf_FIGURES_ISSUED site
  have hcount' : Reg.FIGURES_ISSUED e.site ∉ ks ++ statusRegs e.site := by
    simp [hcount, FIGURES_ISSUED_not_mem_statusRegs]
  have hnext' : Reg.CTX_ID e.site e.t.slot ∉ ks ++ statusRegs e.site := by
    simp [hnext, CTX_ID_not_mem_statusRegs e.site hi.slot_lt]
  refine ⟨?count, ?next⟩
  case count => rw [ho.getR_eq hcount', h, getR_setR_ne _ _ (FIGURES_ISSUED_ne_CTX_ID _ _), hv, hw]
  case next =>
    rw [nextFig, hslot, fld, ho.getR_eq hnext', ← fld, h, fld_setR_same _ _ _ (by omega), bitsOf_setBits_same _ _ _ _ (by omega)]

/-- The frame of an issue: what every issue may write, and what its figure does. -/
theorem Issues.only (hctxs : Piece.ctxs ∈ ps) (hsites : Piece.sites ∈ ps) : Only s u (ks ++ issueRegs e) ps :=
  ((advance_only hi.tcGet_eq).weaken (by simp +contextual) (by simp [hctxs, hsites])).trans
    (ho.weaken (fun k hk => List.mem_append.mpr ((List.mem_append.mp hk).imp_right (statusRegs_subset_issueRegs e k))) (by simp))

end Issued

/-! ### A figure in flight (R126) -/

section Fly

variable (e : Env) (w : Work) (dur : Nat) (reads writes : List (Nat × Nat)) (post : Option Nat) (s : State)

theorem flies_syncSite_fly : Flies s (syncSite e.site (fly e w dur reads writes post s)) e w dur reads writes post := by
  rw [Flies, siteGet_syncSite, fly, siteGet_siteMod_same]

@[simp] theorem fly_tileStore : (fly e w dur reads writes post s).tileStore = s.tileStore := rfl
@[simp] theorem tcGet_fly (c i : Nat) : tcGet (fly e w dur reads writes post s) c i = tcGet s c i := rfl

end Fly

theorem Only.fly {s u : State} {ks : List Nat} {ps : List Piece} (h : Only s u ks ps) (e : Env) (w : Work) (dur : Nat)
    (reads writes : List (Nat × Nat)) (post : Option Nat) (hp : Piece.sites ∈ ps) : Only s (fly e w dur reads writes post u) ks ps :=
  h.siteMod _ _ hp

/-- What flies from a state flies from one with the same flights, the same next number and the same time. -/
theorem Flies.of_eq {s t u : State} {e : Env} {w : Work} {dur : Nat} {reads writes : List (Nat × Nat)} {post : Option Nat}
    (h : Flies t u e w dur reads writes post) (hfs : (siteGet t e.site).flights = (siteGet s e.site).flights)
    (hid : (siteGet t e.site).nextId = (siteGet s e.site).nextId) (hc : t.cycle = s.cycle) : Flies s u e w dur reads writes post := by
  rwa [Flies, hfs, hid, hc] at h

/-- What a figure leaves that flies once its effect took the issued state to `t`. -/
theorem issued_fly {s t : State} {site : SiteId} {e : Env} {ks : List Nat} {ps : List Piece} (hi : Issues s site e)
    (ho : Only (advance e s) t ks ps) (hctxs : Piece.ctxs ∈ ps) (hsites : Piece.sites ∈ ps) (hcount : Reg.FIGURES_ISSUED e.site ∉ ks)
    (hnext : Reg.CTX_ID e.site e.t.slot ∉ ks) (hslot : slotOf t e.c e.site = e.t.slot)
    (hfs : (siteGet t e.site).flights = (siteGet s e.site).flights) (hid : (siteGet t e.site).nextId = (siteGet s e.site).nextId)
    (hc : t.cycle = s.cycle) (w : Work) (dur : Nat) (reads writes : List (Nat × Nat)) (post : Option Nat) :
    Issued s (syncSite e.site (fly e w dur reads writes post t)) e
      ∧ Flies s (syncSite e.site (fly e w dur reads writes post t)) e w dur reads writes post
      ∧ Only s (syncSite e.site (fly e w dur reads writes post t)) (ks ++ issueRegs e) ps := by
  have hu : Only (advance e s) (syncSite e.site (fly e w dur reads writes post t)) (ks ++ statusRegs e.site) ps :=
    ((ho.fly e w dur reads writes post hsites).weaken (fun _ => List.mem_append_left _) (fun _ hp => hp)).syncSite _
      (fun _ => List.mem_append_right _)
  have hslot' : slotOf (syncSite e.site (fly e w dur reads writes post t)) e.c e.site = e.t.slot := by
    rw [slotOf, tcGet_syncSite, tcGet_fly, ← slotOf, hslot]
  exact ⟨Issued.of_only hi hu hcount hnext hslot', (flies_syncSite_fly e w dur reads writes post t).of_eq hfs hid hc,
    hi.only hu hctxs hsites⟩

/-! ### A figure that meets nothing issues (R124, R125) -/

/-- An issue that no condition holds back: the count, the figure's effect, the status words. -/
theorem issue_of_clear {s : State} {e : Env} {p : Plan} (hunit : p.unit = true) (hown : p.own = true) (hassert : p.asserts = [])
    (hroom : inFlight s e.site < 16) (hfly : MayFly s e p.reads p.writes) (herrs : s.errs = []) :
    issue e [] p s = syncSite e.site (p.act (advance e s)) := by
  obtain ⟨hmarks, hranges⟩ := hfly
  have hcodes : rangeCodes e p = [] := hranges
  have hfetch : fetchCheck e s = (s, true) := by simp [fetchCheck, herrs]
  simp [issue, hunit, hown, hassert, hmarks, hcodes, hfetch, herrs, show ¬16 ≤ inFlight s e.site by omega]

/-- A command that issues a figure of its kind completes with what the issue leaves. -/
theorem Goes.of_issue {c : Instr} {s : State} {site : SiteId} {e : Env} {plan : Env → State → Option (List Nat × Plan)} {p : Plan}
    {P : State → Prop} (hexec : exec c s = commit s (issueIf site.val plan s)) (hi : Issues s site e) (hplan : plan e s = some ([], p))
    (hunit : p.unit = true) (hown : p.own = true) (hassert : p.asserts = []) (hfly : MayFly s e p.reads p.writes)
    (hP : P (syncSite e.site (p.act (advance e s)))) : Goes c s P := by
  have hissue : issueIf site.val plan s = syncSite e.site (p.act (advance e s)) := by
    simp only [issueIf, hi.1, hplan]
    exact issue_of_clear hunit hown hassert hi.inFlight_lt hfly hi.errs_nil
  exact Goes.of (hexec.trans (by rw [hissue])) hP

/-! ### A figure that completes (R126) -/

@[simp] theorem siteGet_landFlight (i id : Nat) (s : State) : siteGet (landFlight i id s) i
    = { siteGet s i with flights := (siteGet s i).flights.filter (fun f => f.id != id) } :=
  siteGet_siteMod_same s i _

@[simp] theorem arrGet_landFlight (i id : Nat) (s : State) (a : Nat) : arrGet (landFlight i id s) i a = arrGet s i a :=
  arrGet_of_siteGet (by rw [siteGet_landFlight]) a

@[simp] theorem getR_landFlight (i id : Nat) (s : State) (k : Nat) : getR (landFlight i id s) k = getR s k := rfl
@[simp] theorem landFlight_errs (i id : Nat) (s : State) : (landFlight i id s).errs = s.errs := rfl
@[simp] theorem landFlight_tileStore (i id : Nat) (s : State) : (landFlight i id s).tileStore = s.tileStore := rfl

/-- A flight that has landed is not in flight. -/
theorem flightOf_landed (i id : Nat) (s : State) : flightOf (syncSite i (landFlight i id s)) i id = none := by
  simp [flightOf, List.find?_eq_none]

/-- The frame of a completion: the frame of its effect, the status words and the site. -/
theorem landed_only {s u : State} {ks : List Nat} {ps : List Piece} (h : Only s u ks ps) (i id : Nat)
    (hk : ∀ k ∈ statusRegs i, k ∈ ks) (hp : Piece.sites ∈ ps) : Only s (syncSite i (landFlight i id u)) ks ps :=
  (h.siteMod i _ hp).syncSite i hk

/-- A flight that is due and posts no token lands with the effect of its kind. -/
theorem completeIf_of_due {s : State} {site : SiteId} {id : Nat} {f : Flight} {done : Flight → Option (State → State)}
    {g : State → State} (hd : Due s site id f) (hpost : f.post = none) (hdone : done f = some g) :
    completeIf site.val id done s = syncSite site (landFlight site id (g s)) := by
  obtain ⟨hf, hhealthy, hdue⟩ := hd
  have hid : f.id = id := by simpa using List.find?_some hf
  simp [completeIf, hf, hhealthy, hdue, hdone, completeFlight, hpost, hid]

/-- A command that completes a flight of its kind completes with what the landing leaves. -/
theorem Goes.of_completion {c : Instr} {s : State} {site : SiteId} {id : Nat} {f : Flight} {done : Flight → Option (State → State)}
    {g : State → State} {P : State → Prop} (hexec : exec c s = commit s (completeIf site.val id done s)) (hd : Due s site id f)
    (hpost : f.post = none) (hdone : done f = some g) (hP : P (syncSite site (landFlight site id (g s)))) : Goes c s P :=
  Goes.of (hexec.trans (by rw [completeIf_of_due hd hpost hdone])) hP

end Sys2Proof.Machine
end

section
/-! SUPPORT. LOAD and TABLE (R44-R46, R55-R57, R119): the block that a completed load leaves in the array, the rescale entries that a
completed table load leaves, and what flies until then. -/

namespace Sys2Proof.Machine

/-! ### The rescale entries (R55, R57) -/

/-- An array lists the entries that are not both 0, so one that is set reads as it was set. -/
theorem tgetD_setEntry (x : Arr) (k j : Nat) (v : Nat × Nat) :
    tgetD (setEntry x k v).entries j (0, 0) = if j = k then v else tgetD x.entries j (0, 0) := by
  by_cases hv : v = (0, 0)
  · by_cases hj : j = k
    · simp [setEntry, tgetD, hv, hj, tget_tdel_same]
    · simp [setEntry, tgetD, hv, hj, tget_tdel_ne _ hj]
  · by_cases hj : j = k
    · simp [setEntry, tgetD, hv, hj]
    · simp [setEntry, tgetD, hv, hj, tget_tput_ne _ _ hj]

theorem setEntries_cons (x : Arr) (first : Nat) (v : Nat × Nat) (vals : List (Nat × Nat)) :
    setEntries x first (v :: vals) = setEntries (setEntry x first v) (first + 1) vals := by
  simp [setEntries, List.range_succ_eq_map, List.zip_map_left, List.foldl_map, Nat.add_assoc, Nat.add_comm 1]

/-- An entry outside the run that is set stays. -/
theorem tgetD_setEntries_out (x : Arr) {first k : Nat} {vals : List (Nat × Nat)} (h : k < first ∨ first + vals.length ≤ k) :
    tgetD (setEntries x first vals).entries k (0, 0) = tgetD x.entries k (0, 0) := by
  induction vals generalizing x first with
  | nil => rfl
  | cons v vals ih =>
    rw [List.length_cons] at h
    rw [setEntries_cons, ih _ (by omega), tgetD_setEntry, if_neg (by omega)]

/-- The run reads as the values that were set. -/
theorem tgetD_setEntries_in (x : Arr) (first : Nat) {k : Nat} {vals : List (Nat × Nat)} (h : k < vals.length) :
    tgetD (setEntries x first vals).entries (first + k) (0, 0) = vals.getD k (0, 0) := by
  induction vals generalizing x first k with
  | nil => cases h
  | cons v vals ih =>
    rw [setEntries_cons]
    cases k with
    | zero => rw [tgetD_setEntries_out _ (.inl (by omega)), tgetD_setEntry, if_pos (Nat.add_zero first), List.getD_cons_zero]
    | succ k =>
      have hk : k < vals.length := Nat.lt_of_succ_lt_succ h
      rw [show first + (k + 1) = first + 1 + k by omega, ih _ _ hk, List.getD_cons_succ]

/-! ### What a completed load writes (R45, R47, R57, R68) -/

section LatchBlock

variable (i a : Nat) (b : Latch) (s : State)

@[simp] theorem arrGet_latchBlock_same : arrGet (latchBlock i a b s) i a = { arrGet s i a with latch := some b } := by
  rw [latchBlock, addR_eq, arrGet_setR, arrGet_arrMod_same]
  rfl

theorem arrGet_latchBlock_ne {x : Nat} (h : x ≠ a) : arrGet (latchBlock i a b s) i x = arrGet s i x := by
  rw [latchBlock, addR_eq, arrGet_setR, arrGet_arrMod_ne _ _ _ h]
  rfl

@[simp] theorem getR_latchBlock : getR (latchBlock i a b s) (Reg.ARR_LOADS i a)
    = (getR s (Reg.ARR_LOADS i a) + 1) % 2 ^ widthOf (Reg.ARR_LOADS i a) := by
  rw [latchBlock, addR_eq, getR_setR_same]
  rfl

@[simp] theorem latchBlock_errs : (latchBlock i a b s).errs = s.errs.filter (fun e => e.1 != .weight i a) := rfl

theorem latchBlock_only : Only s (latchBlock i a b s) [Reg.ARR_LOADS i a] [.sites, .errs] :=
  (((Only.refl s _ _).errs _ (by simp)).arrMod _ _ _ (by simp)).setR _ (by simp)

end LatchBlock

section LoadEntries

variable (i a first : Nat) (vals : List (Nat × Nat)) (s : State)

@[simp] theorem arrGet_loadEntries : arrGet (loadEntries i a first vals s) i a = setEntries (arrGet s i a) first vals := by
  rw [loadEntries, arrGet_arrMod_same]
  rfl

/-- The entries that were written hold no soft error. -/
theorem entry_not_mem_loadEntries_errs {k : Nat} (bad : Bool) (h : first ≤ k) (hk : k < first + vals.length) :
    (ErrPlace.entry i a k, bad) ∉ (loadEntries i a first vals s).errs := by
  simp [loadEntries, h, hk]

theorem loadEntries_only : Only s (loadEntries i a first vals s) [] [.sites, .errs] :=
  ((Only.refl s _ _).errs _ (by simp)).arrMod _ _ _ (by simp)

end LoadEntries

/-! ### What flies (R44, R119) -/

theorem loadLatch_congr {s u : State} (h : u.tileStore = s.tileStore) (c l : Nat) (r : LoadRec) :
    loadLatch u c l r = loadLatch s c l r := by
  simp only [loadLatch, tsRead_congr h]

/-- What a LOAD figure names: the mode and the forms of its word, the addresses of its frame (R119). -/
def loadRecOf (e : Env) (m : Nat) (wv sc : Bool) : LoadRec :=
  { mode := m, wvar := wv, scales := sc, pack1 := nth (frame e.t e.fig) 0, pack2 := nth (frame e.t e.fig) 1,
    scaleAddr := nth (frame e.t e.fig) 2 }

/-- The array's 32 cycles are counted, and the load is recorded for restores (R65, R136). -/
def recordLoad (e : Env) (a : Nat) (r : LoadRec) (s : State) : State :=
  tcMod e.c e.site (fun t => { t with loads := tput t.loads a r }) (addR s (Reg.ARR_BUSY e.site a) 32)

theorem recordLoad_only (e : Env) (a : Nat) (r : LoadRec) (s : State) :
    Only s (recordLoad e a r s) [Reg.ARR_BUSY e.site a] [.ctxs, .sites] :=
  ((Only.refl s _ _).setR _ (by simp)).tcMod _ _ _ (by simp)

@[simp] theorem siteGet_recordLoad (e : Env) (a : Nat) (r : LoadRec) (s : State) (i : Nat) :
    siteGet (recordLoad e a r s) i = siteGet s i := by
  rw [recordLoad, siteGet_tcMod, addR_eq, siteGet_setR]

@[simp] theorem recordLoad_cycle (e : Env) (a : Nat) (r : LoadRec) (s : State) : (recordLoad e a r s).cycle = s.cycle := by
  rw [recordLoad, tcMod_cycle, addR_eq, setR_cycle]

@[simp] theorem recordLoad_tileStore (e : Env) (a : Nat) (r : LoadRec) (s : State) :
    (recordLoad e a r s).tileStore = s.tileStore := by
  rw [recordLoad, tcMod_tileStore, addR_eq, setR_tileStore]

theorem tcGet_recordLoad {e : Env} {s : State} {t : TileCtx} (h : tcGet s e.c e.site = some t) (a : Nat) (r : LoadRec) :
    tcGet (recordLoad e a r s) e.c e.site = some { t with loads := tput t.loads a r } := by
  have hcounted : tcGet (addR s (Reg.ARR_BUSY e.site a) 32) e.c e.site = some t := by rw [addR_eq, tcGet_setR, h]
  exact tcGet_tcMod_same _ hcounted

theorem planLoad_of_listed {s : State} {e : Env} {a m b : Nat} {wv sc : Bool} {q : ArrRec} (hfig : e.fig = .load a m wv sc b)
    (hq : arrRec e.x.pitch e.l a = some q) (hm : q.modes.testBit m = true) :
    planLoad e s = some ([], {
      unit := feederFree s e.site a && !loaderBusy (siteGet s e.site) a, reads := loadReads (loadRecOf e m wv sc),
      act := fun s => let t := recordLoad e a (loadRecOf e m wv sc) s
        fly e (.load a (loadLatch t e.c e.l (loadRecOf e m wv sc))) 32 (loadReads (loadRecOf e m wv sc)) [] none t }) := by
  simp only [planLoad, hfig, hq, hm, if_true, loadRecOf]
  rfl

theorem planTable_of_covered {s : State} {e : Env} {a b n first w : Nat} {q : ArrRec} (hfig : e.fig = .table a b)
    (hw : nth (frame e.t e.fig) 0 = w) (hfirst : nth (frame e.t e.fig) 1 = first) (hn : nth (frame e.t e.fig) 2 = n)
    (hq : arrRec e.x.pitch e.l a = some q) (hlo : q.chBase ≤ first) (hhi : first + n ≤ q.chBase + q.chCount)
    (hpos : n ≠ 0) (hmax : first + n ≤ 4096)
    (hsafe : streamHazard (siteGet s e.site) a first n s.cycle (s.cycle + ceilDiv n 4) = false) :
    planTable e s = some ([], {
      unit := !loaderBusy (siteGet s e.site) a, reads := [(w, ceilDiv n 4)],
      act := fun s => fly e (.table a first (entriesOf (tsRead s e.l w (ceilDiv n 4)) n)) (ceilDiv n 4) [(w, ceilDiv n 4)] [] none s })
    := by
  have hcount : (n == 0 || decide (4096 < first + n)) = false := by simp [hpos, hmax]
  rw [hfig] at hw hfirst hn
  simp [planTable, hfig, hw, hfirst, hn, hq, hlo, hhi, hcount, hsafe]

theorem FIGURES_ISSUED_ne_ARR_BUSY (i a : Nat) : Reg.FIGURES_ISSUED i ≠ Reg.ARR_BUSY i a := by
  simp only [Reg.FIGURES_ISSUED, Reg.ARR_BUSY]
  omega

theorem CTX_ID_ne_ARR_BUSY (i a : Nat) {slot : Nat} (h : slot < 4) : Reg.CTX_ID i slot ≠ Reg.ARR_BUSY i a := by
  simp only [Reg.CTX_ID, Reg.ARR_BUSY]
  omega

theorem ARR_LOADS_not_mem_statusRegs (i a : Nat) : Reg.ARR_LOADS i a ∉ statusRegs i := by
  simp only [statusRegs, Reg.ARR_LOADS, Reg.CALLER_STATUS, Reg.ARR_STATUS, List.mem_cons, List.not_mem_nil, or_false]
  omega

/-- Settles O23: a LOAD flies with the block that it read and a TABLE with its entries; the completion of each writes them. -/
theorem loadAndTableFigures : Obligations.LoadAndTableFigures := by
  unfold Obligations.LoadAndTableFigures
  refine ⟨fun s site e hi => ⟨?load, ?table⟩, fun s site id f hd hpost => ⟨?loaded, ?tabled⟩⟩
  case load =>
    intro a m wv sc b hfig fr r hlisted _ hfree hidle hfly
    obtain ⟨q, hq, hm⟩ := hlisted
    refine Goes.of_issue rfl hi (planLoad_of_listed hfig hq hm) (by simp [hfree, hidle]) rfl rfl hfly ?_
    have hrec := tcGet_recordLoad (tcGet_advance hi.tcGet_eq) a r
    have hread : loadLatch (recordLoad e a (loadRecOf e m wv sc) (advance e s)) e.c e.l (loadRecOf e m wv sc)
        = loadLatch s e.c e.l (loadRecOf e m wv sc) := loadLatch_congr (by simp) _ _ _
    have hslot := (slotOf_of_tcGet hrec).trans (issuedCtx_slot e e.t)
    obtain ⟨hissued, hflies, honly⟩ := issued_fly hi (recordLoad_only e a r (advance e s)) (by simp) (by simp)
      (by simp [FIGURES_ISSUED_ne_ARR_BUSY]) (by simp [CTX_ID_ne_ARR_BUSY _ _ hi.slot_lt]) hslot (by simp) (by simp)
      (by simp) (.load a (loadLatch s e.c e.l r)) 32 (loadReads r) [] none
    dsimp only
    rw [hread]
    exact ⟨hissued, hflies, ⟨_, by rw [tcGet_syncSite, tcGet_fly]; exact hrec, tget_tput_same _ _ _⟩, honly⟩
  case table =>
    intro a b hfig fr rd hcovered hpos hmax hidle hfly hsafe
    obtain ⟨q, hq, hlo, hhi⟩ := hcovered
    refine Goes.of_issue rfl hi (planTable_of_covered hfig rfl rfl rfl hq hlo hhi hpos hmax hsafe) (by simp [hidle]) rfl rfl hfly ?_
    dsimp only
    rw [tsRead_congr (advance_tileStore e s)]
    exact issued_fly hi (Only.refl _ [] _) (by simp) (by simp) (by simp) (by simp) (slotOf_advance hi.tcGet_eq) (by simp) (by simp)
      (by simp) _ _ _ _ _
  case loaded =>
    intro a b hwork _
    refine Goes.of_completion rfl hd hpost (show _ = some (latchBlock site a b) by simp only [hwork])
      ⟨flightOf_landed _ _ _, by simp, fun x hx => by simp [arrGet_latchBlock_ne _ _ _ _ hx], ?_, by simp,
        landed_only ((latchBlock_only site a b s).weaken (by simp) (by simp)) _ _ (by simp +contextual) (by simp)⟩
    rw [(syncSite_only site.val _).getR_eq (ARR_LOADS_not_mem_statusRegs site.val a), getR_landFlight, getR_latchBlock]
  case tabled =>
    intro a first vals hwork
    refine Goes.of_completion rfl hd hpost (show _ = some (loadEntries site a first vals) by simp only [hwork])
      ⟨flightOf_landed _ _ _, fun k hk => by simp [tgetD_setEntries_in _ _ hk], fun k hk => by simp [tgetD_setEntries_out _ hk], ?_,
        landed_only ((loadEntries_only site a first vals s).weaken (by simp) (by simp)) _ _ (by simp) (by simp)⟩
    intro k bad h hk
    rw [syncSite_errs, landFlight_errs]
    exact entry_not_mem_loadEntries_errs _ _ _ _ _ bad h hk

end Sys2Proof.Machine
end

section
/-! SUPPORT. STREAM (R42-R59, R119, R127): what the issue of a stream reads and runs through its arrays, and the writes that wait for its
completion. -/

namespace Sys2Proof.Machine

/-! ### What a stream reads of the state that it issues in -/

theorem withLoads_congr {st st' : Site} (h : st'.flights = st.flights) (a : Nat) (x : Arr) : withLoads st' a x = withLoads st a x := by
  rw [withLoads, withLoads, h]

/-- The rescale entries that a stream uses are those of the arrays and of the table loads in flight (R61). -/
theorem entsNow_congr {s u : State} {i : Nat} (hfs : (siteGet u i).flights = (siteGet s i).flights)
    (harrs : (siteGet u i).arrs = (siteGet s i).arrs) (as : List Nat) : entsNow u i as = entsNow s i as := by
  simp only [entsNow, withLoads_congr hfs, arrGet_of_siteGet harrs]

@[simp] theorem entsNow_advance (e : Env) (s : State) (as : List Nat) : entsNow (advance e s) e.site as = entsNow s e.site as :=
  entsNow_congr (by simp) (by simp) as

/-- The mode of the first named array that has a block of the context. -/
def streamMode (s : State) (e : Env) (m : Nat) : Option Nat := ((arraysOf m).filterMap (fun a => (blockFor s e a).map (·.mode))).head?

/-- No named array meets an assertion of R67. -/
def StreamClear (s : State) (e : Env) (m : Nat) : Prop :=
  ∀ ka ∈ List.zip (List.range (arraysOf m).length) (arraysOf m),
    streamCode s e (streamMode s e m) (streamArgs e.fig (frame e.t e.fig) ka.1) (streamBeats (frame e.t e.fig)) ka.2 = none

theorem streamAsserts_nil (i : Nat) : streamAsserts i [] = [] := rfl

/-- The beats of a stream whose data stand in the tile store. -/
def storeBeats (s : State) (e : Env) (m md : Nat) : Beats :=
  let fr := frame e.t e.fig
  let n := streamBeats fr
  { first := 0, at_ := s.cycle, ents := entsNow s e.site (arraysOf m),
    data := beatsOf md (tsRead s e.l (nth fr 0) n) (tsRead s e.l (nth fr 3) (scaleWords md n)) n }

theorem storeBeats_advance (s : State) (e : Env) (m md : Nat) : storeBeats (advance e s) e m md = storeBeats s e m md := by
  simp only [storeBeats, advance_cycle, entsNow_advance, tsRead_congr (advance_tileStore e s)]

/-- A stream from the tile store runs all of its beats as it issues, and flies with its writes. -/
def storeStreamAct (e : Env) (m md : Nat) (s : State) : State :=
  let fr := frame e.t e.fig
  let r := streamAll e.c e.site e.fig fr (storeBeats s e m md) s
  fly e (.stream (arraysOf m) (streamBeats fr) r.2 (streamUses e.fig fr md)) (streamBeats fr - 1 + streamTail e.fig)
    (streamReads e.fig fr md) (streamDests e.fig fr md) none r.1

/-- What flies once the beats have run and left a state and writes. -/
theorem storeStreamAct_advance {s t : State} {e : Env} {m md : Nat} {ws : List (Nat × Bytes)}
    (h : streamAll e.c e.site e.fig (frame e.t e.fig) (storeBeats s e m md) (advance e s) = (t, ws)) :
    storeStreamAct e m md (advance e s) = fly e (.stream (arraysOf m) (streamBeats (frame e.t e.fig)) ws
      (streamUses e.fig (frame e.t e.fig) md)) (streamBeats (frame e.t e.fig) - 1 + streamTail e.fig)
      (streamReads e.fig (frame e.t e.fig) md) (streamDests e.fig (frame e.t e.fig) md) none t := by
  simp only [storeStreamAct, storeBeats_advance]
  rw [h]

/-- A stream from the LOCAL port takes the flits that wait for it, and flies. -/
def portStreamAct (e : Env) (m md : Nat) (s : State) : State :=
  let fr := frame e.t e.fig
  let n := streamBeats fr
  let got := (bufferedFlits (siteGet s e.site) e.c (nth fr 0)).take n
  let s := claimFlits e.site e.c (nth fr 0) got.length s
  let (p, s) := feedBeats e.l e.c e.site got s.cycle (portStreamOf s e fr (nth fr 0) n md (arraysOf m)) s
  fly e (.portStream p) (n - 1 + streamTail e.fig) (streamReads e.fig fr md) (streamDests e.fig fr md) none s

section Plan

variable {s : State} {e : Env} {m o b : Nat} {xv st em rs : Bool} (hclear : StreamClear s e m)
  (hbase : nth (frame e.t e.fig) 1 < 2 ^ 18) (hch : nth (frame e.t e.fig) 2 < 2 ^ 12)

include hclear in
/-- A stream that is clear raises no assertion. -/
theorem streamAsserts_of_clear : streamAsserts e.site ((List.zip (List.range (arraysOf m).length) (arraysOf m)).filterMap (fun ka =>
    (streamCode s e (streamMode s e m) (streamArgs e.fig (frame e.t e.fig) ka.1) (streamBeats (frame e.t e.fig)) ka.2).map (ka.2, ·)))
    = [] := by
  rw [List.filterMap_eq_nil_iff.mpr (fun ka hka => by rw [hclear ka hka, Option.map_none]), streamAsserts_nil]

include hbase hch in
theorem streamCounts_of_lt : (decide (2 ^ 18 ≤ nth (frame e.t e.fig) 1) || decide (2 ^ 12 ≤ nth (frame e.t e.fig) 2)) = false := by
  rw [Bool.or_eq_false_iff, decide_eq_false_iff_not, decide_eq_false_iff_not]
  exact ⟨Nat.not_le.mpr hbase, Nat.not_le.mpr hch⟩

include hclear hbase hch

theorem planStream_store (hfig : e.fig = .stream m false xv st em rs o b) : planStream e s = some ([], {
    unit := (arraysOf m).all (fun a => feederFree s e.site a && !blockLoading (siteGet s e.site) a),
    reads := streamReads e.fig (frame e.t e.fig) ((streamMode s e m).getD 0),
    writes := streamDests e.fig (frame e.t e.fig) ((streamMode s e m).getD 0),
    act := storeStreamAct e m ((streamMode s e m).getD 0) }) := by
  have hasserts := streamAsserts_of_clear hclear
  have hcounts := streamCounts_of_lt hbase hch
  obtain ⟨i, l, c, x, t, fig, w, ix⟩ := e
  obtain rfl : fig = .stream m false xv st em rs o b := hfig
  simp only [streamMode] at hasserts
  simp only [planStream, hasserts, hcounts, Bool.false_and, Bool.not_false, Bool.true_and, Bool.false_eq_true, if_false, List.append_nil]
  rfl

theorem planStream_port {r : Route} (hfig : e.fig = .stream m true xv st em rs o b)
    (hroute : routeOf e.x.pitch (nth (frame e.t e.fig) 0) = some r) (hdst : endsAt r.dst e.l = true)
    (hport : ∀ f ∈ (siteGet s e.site).flights, portMask f.work = 0) : planStream e s = some ([], {
    unit := (arraysOf m).all (fun a => feederFree s e.site a && !blockLoading (siteGet s e.site) a),
    reads := streamReads e.fig (frame e.t e.fig) ((streamMode s e m).getD 0),
    writes := streamDests e.fig (frame e.t e.fig) ((streamMode s e m).getD 0),
    act := portStreamAct e m ((streamMode s e m).getD 0) }) := by
  have hasserts := streamAsserts_of_clear hclear
  have hcounts := streamCounts_of_lt hbase hch
  have htaken : (siteGet s e.site).flights.any (fun f => portMask f.work != 0) = false := by
    simpa [List.any_eq_false] using hport
  obtain ⟨i, l, c, x, t, fig, w, ix⟩ := e
  obtain rfl : fig = .stream m true xv st em rs o b := hfig
  simp only [streamMode] at hasserts
  simp only [planStream, hasserts, hcounts, hroute, hdst, htaken, Bool.not_true, Bool.and_false, Bool.not_false, Bool.true_and,
    Bool.false_eq_true, if_false, List.append_nil]
  rfl

end Plan

/-! ### What the beats leave alone -/

section Counts

variable (s : State)

theorem addR_errs (k n : Nat) : (addR s k n).errs = s.errs := by rw [addR_eq, setR_errs]
theorem satR_errs (k n : Nat) : (satR s k n).errs = s.errs := by rw [satR_eq, setR_errs]
theorem orR_errs (k m : Nat) : (orR s k m).errs = s.errs := by rw [orR_eq, setR_errs]
theorem addR_tileStore (k n : Nat) : (addR s k n).tileStore = s.tileStore := by rw [addR_eq, setR_tileStore]
theorem satR_tileStore (k n : Nat) : (satR s k n).tileStore = s.tileStore := by rw [satR_eq, setR_tileStore]
theorem orR_tileStore (k m : Nat) : (orR s k m).tileStore = s.tileStore := by rw [orR_eq, setR_tileStore]
theorem setNonfinite_errs (c i : Nat) : (setNonfinite c i s).errs = s.errs := by rw [setNonfinite, setB_eq, setR_errs]
theorem setNonfinite_tileStore (c i : Nat) : (setNonfinite c i s).tileStore = s.tileStore := by
  rw [setNonfinite, setB_eq, setR_tileStore]

theorem countLanes_errs (c i a : Nat) (n : LaneCounts) : (countLanes c i a n s).errs = s.errs := by
  simp only [countLanes, apply_ite State.errs, addR_errs, satR_errs, orR_errs, setNonfinite_errs, arrPut_errs, ite_self]

theorem countLanes_tileStore (c i a : Nat) (n : LaneCounts) : (countLanes c i a n s).tileStore = s.tileStore := by
  simp only [countLanes, apply_ite State.tileStore, addR_tileStore, satR_tileStore, orR_tileStore, setNonfinite_tileStore,
    arrPut_tileStore, ite_self]

end Counts

/-- Where no soft error stands, the beats of a stream meet none and leave the tile store: their writes wait (R56, R68). -/
theorem streamArray_keeps (c i : Nat) (f : Fig) (fr : List Nat) (q : Beats) (ka : Nat × Nat) {acc : State × List (Nat × Bytes)}
    (h : acc.1.errs = []) : (streamArray c i f fr q ka acc).1.errs = []
      ∧ (streamArray c i f fr q ka acc).1.tileStore = acc.1.tileStore := by
  simp only [streamArray]
  split
  · exact ⟨h, rfl⟩
  · simp only [h, List.foldl_nil, countLanes_errs, countLanes_tileStore, addR_errs, addR_tileStore, arrMod_errs, arrMod_tileStore,
      and_self]

theorem streamArrays_keeps (c i : Nat) (f : Fig) (fr : List Nat) (q : Beats) (kas : List (Nat × Nat))
    {acc : State × List (Nat × Bytes)} (h : acc.1.errs = []) :
    (kas.foldl (fun acc ka => streamArray c i f fr q ka acc) acc).1.tileStore = acc.1.tileStore := by
  induction kas generalizing acc with
  | nil => rfl
  | cons ka kas ih =>
    obtain ⟨herrs, hstore⟩ := streamArray_keeps c i f fr q ka h
    rw [List.foldl_cons, ih herrs, hstore]

theorem streamAll_tileStore (c i : Nat) (f : Fig) (fr : List Nat) (q : Beats) {s : State} (h : s.errs = []) :
    (streamAll c i f fr q s).1.tileStore = s.tileStore := by
  unfold streamAll
  split
  · exact streamArrays_keeps c i _ fr q _ h
  · rfl

/-! ### The stream that waits for its flits (R127) -/

@[simp] theorem siteGet_claimFlits (i c r n : Nat) (s : State) : siteGet (claimFlits i c r n s) i
    = { siteGet s i with buffer := unbuffer c r n (siteGet s i).buffer,
                         draining := (siteGet s i).draining.filter (s.cycle ≤ ·) ++ upFrom s.cycle n } :=
  siteGet_siteMod_same s i _

@[simp] theorem claimFlits_cycle (i c r n : Nat) (s : State) : (claimFlits i c r n s).cycle = s.cycle := rfl

theorem claimFlits_only (i c r n : Nat) (s : State) : Only s (claimFlits i c r n s) [] [.ctxs, .sites] :=
  (Only.refl s _ _).siteMod _ _ (by simp)

/-- A stream for which no flit waits flies without a beat, with the rescale entries of its issue. -/
theorem portStreamAct_of_no_flit {s : State} {e : Env} {m md : Nat}
    (h : bufferedFlits (siteGet s e.site) e.c (nth (frame e.t e.fig) 0) = []) :
    portStreamAct e m md (advance e s)
      = fly e (.portStream (portStreamOf s e (frame e.t e.fig) (nth (frame e.t e.fig) 0) (streamBeats (frame e.t e.fig)) md (arraysOf m)))
          (streamBeats (frame e.t e.fig) - 1 + streamTail e.fig) (streamReads e.fig (frame e.t e.fig) md)
          (streamDests e.fig (frame e.t e.fig) md) none (claimFlits e.site e.c (nth (frame e.t e.fig) 0) 0 (advance e s)) := by
  have hbuf : bufferedFlits (siteGet (advance e s) e.site) e.c (nth (frame e.t e.fig) 0) = [] := by rw [siteGet_advance]; exact h
  have hents : entsNow (claimFlits e.site e.c (nth (frame e.t e.fig) 0) 0 (advance e s)) e.site (arraysOf m)
      = entsNow s e.site (arraysOf m) := entsNow_congr (by simp) (by simp) _
  simp only [portStreamAct, hbuf, List.take_nil, List.length_nil, feedBeats, portStreamOf, hents]

/-! ### The writes of a stream that completes (R56, R129) -/

/-- The writes of a stream go into the tile store of the logical tile that its site holds. -/
def performWrites (i : Nat) (ws : List (Nat × Bytes)) (s : State) : State :=
  match tileOfSite s i with
  | some l => tsWrites l ws s
  | none => s

/-- What the completion of a stream leaves: its flight gone, its writes in the tile store, all else as before. -/
theorem stream_landed {s : State} {i l : Nat} (id : Nat) (hl : tileOfSite s i = some l) (ws : List (Nat × Bytes)) :
    flightOf (syncSite i (landFlight i id (performWrites i ws s))) i id = none
      ∧ (syncSite i (landFlight i id (performWrites i ws s))).tileStore = (tsWrites l ws s).tileStore
      ∧ Only s (syncSite i (landFlight i id (performWrites i ws s))) (statusRegs i) [.sites, .tileStore] := by
  have hws : performWrites i ws s = tsWrites l ws s := by simp only [performWrites, hl]
  rw [hws]
  exact ⟨flightOf_landed _ _ _, by rw [syncSite_tileStore, landFlight_tileStore],
    landed_only ((Only.refl s _ _).tsWrites _ _ (by simp)) _ _ (fun _ hk => hk) (by simp)⟩

/-- Settles O24: a stream from the tile store runs its beats at its issue and flies with its writes, one from the LOCAL port flies and
waits; the completion of each performs its writes. -/
theorem streamFigures : Obligations.StreamFigures := by
  unfold Obligations.StreamFigures
  refine ⟨?store, ?port, fun s site id l f hd hpost hl => ⟨?completed, ?portCompleted⟩⟩
  case store =>
    intro s site e m xv st em rs o b hi hfig fr as n mode0 md data hclear hbase hch hfree hfly t ws hrun
    have hbeats : streamAll e.c e.site e.fig (frame e.t e.fig) (storeBeats s e m ((streamMode s e m).getD 0)) (advance e s) = (t, ws) :=
      hrun
    have hstore : t.tileStore = s.tileStore := by
      have hkept := streamAll_tileStore e.c e.site e.fig (frame e.t e.fig) (storeBeats s e m ((streamMode s e m).getD 0))
        ((advance_errs e s).trans hi.errs_nil)
      rwa [hbeats, advance_tileStore] at hkept
    refine Goes.of_issue rfl hi (planStream_store hclear hbase hch hfig) (by simpa using hfree) rfl rfl hfly ?_
    dsimp only
    rw [storeStreamAct_advance hbeats]
    exact ⟨rfl, by rw [syncSite_tileStore, fly_tileStore, hstore], flies_syncSite_fly e _ _ _ _ _ t⟩
  case port =>
    intro s site e m xv st em rs o b r hi hfig fr as n mode0 md hclear hroute hdst hbase hch hfree hport hbuf hfly
    refine Goes.of_issue rfl hi (planStream_port hclear hbase hch hfig hroute hdst hport) (by simpa using hfree) rfl rfl hfly ?_
    dsimp only
    rw [portStreamAct_of_no_flit hbuf]
    exact issued_fly hi (claimFlits_only _ _ _ _ _) (by simp) (by simp) (by simp) (by simp) (slotOf_advance hi.tcGet_eq) (by simp)
      (by simp) (by simp) _ _ _ _ _
  case completed =>
    intro as n ws us hwork
    exact Goes.of_completion rfl hd hpost (show _ = some (performWrites site ws) by simp only [hwork]; rfl) (stream_landed id hl ws)
  case portCompleted =>
    intro p hwork hgot hpast
    have hdone : (decide (p.got = p.need) && decide (p.fed.getLast?.getD 0 + streamTail p.fig ≤ s.cycle)) = true := by
      simp [hgot, hpast]
    exact Goes.of_completion rfl hd hpost (show _ = some (performWrites site p.writes) by simp only [hwork, hdone, if_true]; rfl)
      (stream_landed id hl p.writes)

end Sys2Proof.Machine
end

section
/-! SUPPORT. VECTOR (R76-R86, R120, R129): the rows of its operations, what its issue reads, counts and occupies, and the results that
wait for its completion. -/

namespace Sys2Proof.Machine

/-! ### The rows (R120) -/

/-- Each row of the VECTOR operations issues the figure that stands next where the figure's OP is the row's. -/
theorem exec_of_vectorRows {c : SiteId → Instr} {op : Nat} (h : (c, op) ∈ vectorRows) (site : SiteId) (s : State) :
    exec (c site) s = commit s (issueIf site.val (planVector (· == op)) s) := by
  have hrows : ∀ r ∈ vectorRows, exec (r.1 site) s = commit s (issueIf site.val (planVector (· == r.2)) s) := by
    simp only [vectorRows, List.forall_mem_cons, List.not_mem_nil, false_implies, implies_true, and_true]
    and_intros <;> rfl
  exact hrows _ h

/-! ### What a vector operation reads (R77, R78, R82) -/

section Congr

variable {s u : State} (h : u.tileStore = s.tileStore) (l : Nat)
include h

theorem sourceVals_congr (f : Elem) (w n : Nat) (scales : Option Nat) : sourceVals u l f w n scales = sourceVals s l f w n scales := by
  simp only [sourceVals, tsRead_congr h]

theorem runQuant_congr (p : VecArgs) : runQuant u l p = runQuant s l p := by
  simp only [runQuant, sourceVals_congr h, tsRead_congr h]

theorem runVector_congr (p : VecArgs) (rnd : Nat → Nat → Rnd) : runVector u l p rnd = runVector s l p rnd := by
  simp only [runVector, runQuant_congr h, sourceVals_congr h, tsRead_congr h]

end Congr

/-- The STEP of a context lies below the blocks of the sites, where an issue writes. -/
theorem STEP_not_mem_issueRegs {e : Env} {c : Nat} (h : c < 64) : Reg.STEP c ∉ issueRegs e := by
  simp only [issueRegs, Reg.STEP, Reg.FIGURES_ISSUED, Reg.HOLD_CYCLES, Reg.CTX_ID, Reg.CALLER_STATUS, Reg.ARR_STATUS, List.mem_cons,
    List.not_mem_nil, or_false]
  omega

/-- The results are those of the state in which the figure stands next: its issue changes neither its sources nor its random streams. -/
theorem runVector_advance {s : State} {site : SiteId} {e : Env} (hi : Issues s site e) (p : VecArgs) :
    runVector (advance e s) e.l p (laneRnd (advance e s) e p.round) = runVector s e.l p (laneRnd s e p.round) := by
  have hstep : stepNumber (advance e s) e = stepNumber s e := by
    simp only [stepNumber, (advance_only hi.tcGet_eq).getR_eq (STEP_not_mem_issueRegs hi.2.1)]
  have hrnd : laneRnd (advance e s) e p.round = laneRnd s e p.round := by
    funext v lane
    simp only [laneRnd, hstep]
  rw [runVector_congr (advance_tileStore e s), hrnd]

/-! ### The counts of an operation (R83, R140) -/

/-- Saturated lanes and non-finite results count, and a non-finite result sets the context's flag. -/
def countResults (c i : Nat) (r : VecResult) (s : State) : State :=
  let t := satR (satR s (Reg.VEC_SAT i) r.sat) (Reg.VEC_NONFINITE i) r.bad
  if r.bad = 0 then t else setNonfinite c i t

/-- The registers that the counts may write, where the context stands in a slot. -/
def countRegs (i slot : Nat) : List Nat := [Reg.VEC_SAT i, Reg.VEC_NONFINITE i, Reg.CTX_FLAGS i slot]

theorem VEC_NONFINITE_ne_VEC_SAT (i : Nat) : Reg.VEC_NONFINITE i ≠ Reg.VEC_SAT i := by simp [Reg.VEC_NONFINITE, Reg.VEC_SAT]

theorem VEC_SAT_ne_CTX_FLAGS (i slot : Nat) : Reg.VEC_SAT i ≠ Reg.CTX_FLAGS i slot := by
  simp only [Reg.VEC_SAT, Reg.CTX_FLAGS]
  omega

theorem VEC_NONFINITE_ne_CTX_FLAGS (i slot : Nat) : Reg.VEC_NONFINITE i ≠ Reg.CTX_FLAGS i slot := by
  simp only [Reg.VEC_NONFINITE, Reg.CTX_FLAGS]
  omega

theorem countRegs_not_mem_issueRegs {e : Env} (h : e.t.slot < 4) : ∀ k ∈ countRegs e.site e.t.slot, k ∉ issueRegs e := by
  simp only [countRegs, issueRegs, Reg.VEC_SAT, Reg.VEC_NONFINITE, Reg.CTX_FLAGS, Reg.FIGURES_ISSUED, Reg.HOLD_CYCLES, Reg.CTX_ID,
    Reg.CALLER_STATUS, Reg.ARR_STATUS, List.mem_cons, List.not_mem_nil, or_false]
  omega

/-- A count that stays at its maximum fits its register. -/
theorem getR_satR_same (s : State) (k n : Nat) : getR (satR s k n) k = min (getR s k + n) 0xFFFFFFFF := by
  rw [satR_eq, getR_setR_same]
  refine Nat.mod_eq_of_lt (lt_of_lt_of_le ?_ (Nat.pow_le_pow_right (by decide) (widthOf_ge k)))
  omega

section CountResults

variable (c i : Nat) (r : VecResult) (s : State)

theorem countResults_eq : countResults c i r s = satR (satR s (Reg.VEC_SAT i) r.sat) (Reg.VEC_NONFINITE i) r.bad
    ∨ ∃ v, countResults c i r s
        = setR (satR (satR s (Reg.VEC_SAT i) r.sat) (Reg.VEC_NONFINITE i) r.bad) (Reg.CTX_FLAGS i (slotOf s c i)) v := by
  unfold countResults
  split
  · exact .inl rfl
  · exact .inr ⟨_, rfl⟩

theorem countResults_only : Only s (countResults c i r s) (countRegs i (slotOf s c i)) [] := by
  have hcounts : Only s (satR (satR s (Reg.VEC_SAT i) r.sat) (Reg.VEC_NONFINITE i) r.bad) (countRegs i (slotOf s c i)) [] :=
    ((Only.refl s _ _).setR _ (by simp [countRegs])).setR _ (by simp [countRegs])
  rcases countResults_eq c i r s with h | ⟨v, h⟩
  · rw [h]; exact hcounts
  · rw [h]; exact hcounts.setR v (by simp [countRegs])

@[simp] theorem siteGet_countResults (j : Nat) : siteGet (countResults c i r s) j = siteGet s j :=
  (countResults_only c i r s).siteGet_eq (by simp) j

@[simp] theorem tcGet_countResults (d j : Nat) : tcGet (countResults c i r s) d j = tcGet s d j :=
  (countResults_only c i r s).tcGet_eq (by simp) d j

@[simp] theorem countResults_cycle : (countResults c i r s).cycle = s.cycle :=
  (countResults_only c i r s).2.1 .cycle (by simp)

theorem getR_countResults {k : Nat} (hk : k ≠ Reg.CTX_FLAGS i (slotOf s c i)) :
    getR (countResults c i r s) k = getR (satR (satR s (Reg.VEC_SAT i) r.sat) (Reg.VEC_NONFINITE i) r.bad) k := by
  rcases countResults_eq c i r s with h | ⟨v, h⟩
  · rw [h]
  · rw [h, getR_setR_ne _ _ hk]

theorem getR_countResults_sat :
    getR (countResults c i r s) (Reg.VEC_SAT i) = min (getR s (Reg.VEC_SAT i) + r.sat) 0xFFFFFFFF := by
  rw [getR_countResults c i r s (VEC_SAT_ne_CTX_FLAGS _ _), satR_eq _ (Reg.VEC_NONFINITE i),
    getR_setR_ne _ _ (VEC_NONFINITE_ne_VEC_SAT i).symm, getR_satR_same]

theorem getR_countResults_nonfinite :
    getR (countResults c i r s) (Reg.VEC_NONFINITE i) = min (getR s (Reg.VEC_NONFINITE i) + r.bad) 0xFFFFFFFF := by
  rw [getR_countResults c i r s (VEC_NONFINITE_ne_CTX_FLAGS _ _), getR_satR_same, satR_eq, getR_setR_ne _ _ (VEC_NONFINITE_ne_VEC_SAT i)]

theorem bitR_countResults_flag (h : r.bad ≠ 0) : bitR (countResults c i r s) (Reg.CTX_FLAGS i (slotOf s c i)) 0 = true := by
  have hflag : countResults c i r s = setNonfinite c i (satR (satR s (Reg.VEC_SAT i) r.sat) (Reg.VEC_NONFINITE i) r.bad) := if_neg h
  have hslot : slotOf (satR (satR s (Reg.VEC_SAT i) r.sat) (Reg.VEC_NONFINITE i) r.bad) c i = slotOf s c i := rfl
  rw [hflag, setNonfinite, hslot, setB_eq, bitR_setR_same _ _ _ (by decide), testBit_setBits _ _ _ _ _ (le_refl 0)]
  simp

end CountResults

/-! ### The unit that an operation occupies (R78, R124, R129) -/

/-- The context's next operation stands one further in the random streams (R78). -/
def countOp (t : TileCtx) : TileCtx := { t with opIndex := t.opIndex + 1 }

/-- A stochastic operation takes its place in the random streams, and the vector unit is busy. -/
def occupyVector (e : Env) (p : VecArgs) (s : State) : State :=
  let t := if p.round = 2 then tcMod e.c e.site countOp s else s
  siteMod e.site (fun st => { st with vecUntil := t.cycle + vecBusy p }) t

section OccupyVector

variable (e : Env) (p : VecArgs) (s : State)

theorem occupyVector_only : Only s (occupyVector e p s) [] [.ctxs, .sites] := by
  unfold occupyVector
  split
  · exact ((Only.refl s _ _).tcMod _ _ _ (by simp)).siteMod _ _ (by simp)
  · exact (Only.refl s _ _).siteMod _ _ (by simp)

@[simp] theorem siteGet_occupyVector :
    siteGet (occupyVector e p s) e.site = { siteGet s e.site with vecUntil := s.cycle + vecBusy p } := by
  unfold occupyVector
  split <;> simp

@[simp] theorem occupyVector_cycle : (occupyVector e p s).cycle = s.cycle :=
  (occupyVector_only e p s).2.1 .cycle (by simp)

theorem slotOf_occupyVector {t : TileCtx} (h : tcGet s e.c e.site = some t) : slotOf (occupyVector e p s) e.c e.site = t.slot := by
  unfold occupyVector
  split
  · have hcounted := slotOf_of_tcGet (tcGet_tcMod_same countOp h)
    exact hcounted
  · exact slotOf_of_tcGet h

end OccupyVector

/-! ### The issue (R124, R129) -/

/-- What a VECTOR figure leaves that flies: its results counted, its unit occupied. -/
def vectorAct (e : Env) (s : State) : State :=
  let p := vecArgs e
  let r := runVector s e.l p (laneRnd s e p.round)
  fly e (.vector r.writes) (vecDue p) (vecReads p) (vecDests p) none (occupyVector e p (countResults e.c e.site r s))

theorem planVector_of_op {e : Env} {op r i o b : Nat} {fin mi mo : Bool} (hfig : e.fig = .vector op r fin i o b mi mo)
    (hn : (vecArgs e).n ≤ 65536) (s : State) : planVector (· == op) e s = some ([], {
      unit := decide ((siteGet s e.site).vecUntil ≤ s.cycle), reads := vecReads (vecArgs e), writes := vecDests (vecArgs e),
      act := vectorAct e }) := by
  simp only [planVector, hfig, beq_self_eq_true, if_true, if_neg (Nat.not_lt.mpr hn)]
  rfl

/-- Registers beside the status words read after the issue as the figure's effect left them. -/
theorem getR_syncSite_fly {e : Env} {k : Nat} (hk : k ∉ statusRegs e.site) (w : Work) (dur : Nat) (reads writes : List (Nat × Nat))
    (post : Option Nat) (t : State) : getR (syncSite e.site (fly e w dur reads writes post t)) k = getR t k :=
  (((Only.refl t (statusRegs e.site) [.sites]).fly e w dur reads writes post (by simp)).syncSite _ (fun _ h => h)).getR_eq hk

/-- A flight leaves alone until when its site's vector unit is busy. -/
theorem vecUntil_fly (e : Env) (w : Work) (dur : Nat) (reads writes : List (Nat × Nat)) (post : Option Nat) (t : State) :
    (siteGet (fly e w dur reads writes post t) e.site).vecUntil = (siteGet t e.site).vecUntil := by
  rw [fly, siteGet_siteMod_same]

section VectorAct

variable {s : State} {site : SiteId} {e : Env} (hi : Issues s site e)
include hi

/-- The effect of a VECTOR figure on the issued state, with the results of the state in which it stood next. -/
theorem vectorAct_advance {p : VecArgs} {r : VecResult} (hp : vecArgs e = p) (hr : runVector s e.l p (laneRnd s e p.round) = r) :
    vectorAct e (advance e s) = fly e (.vector r.writes) (vecDue p) (vecReads p) (vecDests p) none
      (occupyVector e p (countResults e.c e.site r (advance e s))) := by
  subst hp hr
  simp only [vectorAct, runVector_advance hi]

theorem occupied_only (p : VecArgs) (r : VecResult) : Only (advance e s) (occupyVector e p (countResults e.c e.site r (advance e s)))
    (countRegs e.site e.t.slot) [.ctxs, .sites] := by
  have hcounted := countResults_only e.c e.site r (advance e s)
  rw [slotOf_advance hi.tcGet_eq] at hcounted
  exact (hcounted.weaken (fun _ h => h) (by simp)).trans ((occupyVector_only e p _).weaken (by simp) (fun _ h => h))

/-- Registers of the counts read, once the figure has issued, as the counts left them. -/
theorem getR_issued_vector {k : Nat} (hk : k ∈ countRegs e.site e.t.slot) (p : VecArgs) (r : VecResult) (w : Work) (dur : Nat)
    (reads writes : List (Nat × Nat)) (post : Option Nat) :
    getR (syncSite e.site (fly e w dur reads writes post (occupyVector e p (countResults e.c e.site r (advance e s))))) k
      = getR (countResults e.c e.site r (advance e s)) k := by
  have hstatus : k ∉ statusRegs e.site :=
    fun h => countRegs_not_mem_issueRegs hi.slot_lt k hk (statusRegs_subset_issueRegs e k h)
  rw [getR_syncSite_fly hstatus, (occupyVector_only e p _).getR_eq (by simp)]

theorem getR_advance_count {k : Nat} (hk : k ∈ countRegs e.site e.t.slot) : getR (advance e s) k = getR s k :=
  (advance_only hi.tcGet_eq).getR_eq (countRegs_not_mem_issueRegs hi.slot_lt k hk)

/-- A VECTOR figure flies once its results are counted and its unit is occupied. -/
theorem vector_issued_fly (p : VecArgs) (r : VecResult) (w : Work) (dur : Nat) (reads writes : List (Nat × Nat)) (post : Option Nat) :
    let u := syncSite e.site (fly e w dur reads writes post (occupyVector e p (countResults e.c e.site r (advance e s))))
    Issued s u e ∧ Flies s u e w dur reads writes post ∧ Only s u (countRegs e.site e.t.slot ++ issueRegs e) [.ctxs, .sites] := by
  have hslot : slotOf (occupyVector e p (countResults e.c e.site r (advance e s))) e.c e.site = (issuedCtx e e.t).slot :=
    slotOf_occupyVector e p _ (by rw [tcGet_countResults, tcGet_advance hi.tcGet_eq])
  have hissue : ∀ k ∈ issueRegs e, k ∉ countRegs e.site e.t.slot :=
    fun k hk hcount => countRegs_not_mem_issueRegs hi.slot_lt k hcount hk
  exact issued_fly hi (occupied_only hi p r) (by simp) (by simp) (hissue _ (by simp [issueRegs])) (hissue _ (by simp [issueRegs]))
    hslot (by simp) (by simp) (by simp) w dur reads writes post

end VectorAct

/-- Settles O25: each row issues a VECTOR that flies with the results of its operation and counts them, and the completion puts them into
the tile store. -/
theorem vectorFigures : Obligations.VectorFigures := by
  unfold Obligations.VectorFigures
  refine ⟨?issued, ?completed⟩
  case issued =>
    rintro c op hrow s site e hi ⟨r, fin, i, o, b, mi, mo, hfig⟩ p res hn hfree hfly
    refine Goes.of_issue (exec_of_vectorRows hrow site s) hi (planVector_of_op hfig hn s) (decide_eq_true hfree) rfl rfl hfly ?_
    dsimp only
    rw [vectorAct_advance hi rfl rfl]
    obtain ⟨hissued, hflies, honly⟩ := vector_issued_fly hi p res (.vector res.writes) (vecDue p) (vecReads p) (vecDests p) none
    refine ⟨hissued, hflies, ?busy, ?sat, ?nonfinite, fun hbad => ?flag, honly⟩
    case busy =>
      rw [siteGet_syncSite, vecUntil_fly, siteGet_occupyVector, countResults_cycle, advance_cycle]
    case sat =>
      rw [getR_issued_vector hi (by simp [countRegs]), getR_countResults_sat, getR_advance_count hi (by simp [countRegs])]
    case nonfinite =>
      rw [getR_issued_vector hi (by simp [countRegs]), getR_countResults_nonfinite, getR_advance_count hi (by simp [countRegs])]
    case flag =>
      have hset := bitR_countResults_flag e.c e.site res (advance e s) hbad
      rwa [slotOf_advance hi.tcGet_eq, bitR, ← getR_issued_vector hi (by simp [countRegs])] at hset
  case completed =>
    intro s site id l f ws hd hpost hl hwork
    exact Goes.of_completion rfl hd hpost (show _ = some (performWrites site ws) by simp only [hwork]; rfl) (stream_landed id hl ws)

end Sys2Proof.Machine
end

section
/-! SUPPORT. The words of caller format 1 (R114-R122) as rows of fields, lowest first: a word is the sum of its fields in their places, and
the fields read back. -/

namespace Sys2Proof.Machine

/-! ### Words as rows of fields -/

/-- The sum of fields in their places: each is given with its highest bit, and the first stands from bit `lo` on. -/
def wordOf : Nat → List (Nat × Nat) → Nat
  | _, [] => 0
  | lo, (hi, v) :: fs => v * 2 ^ lo + wordOf (hi + 1) fs

/-- A word reads as these fields from bit `lo` on. -/
def Spells (w : Nat) : Nat → List (Nat × Nat) → Prop
  | _, [] => True
  | lo, (hi, v) :: fs => bitsOf w hi lo = v ∧ Spells w (hi + 1) fs

/-- Every field fits its bits, and the fields from bit `lo` on fill 32 bits. -/
def Fits : Nat → List (Nat × Nat) → Prop
  | lo, [] => lo = 32
  | lo, (hi, v) :: fs => lo ≤ hi ∧ v < 2 ^ (hi + 1 - lo) ∧ Fits (hi + 1) fs

theorem two_pow_field {lo hi : Nat} (h : lo ≤ hi) : 2 ^ (hi + 1) = 2 ^ lo * 2 ^ (hi + 1 - lo) := by
  rw [← pow_add, show lo + (hi + 1 - lo) = hi + 1 by omega]

theorem wordOf_lt {lo : Nat} {fs : List (Nat × Nat)} (h : Fits lo fs) : wordOf lo fs + 2 ^ lo ≤ 2 ^ 32 := by
  induction fs generalizing lo with
  | nil => rw [wordOf, show lo = 32 from h, Nat.zero_add]
  | cons p fs ih =>
    obtain ⟨hle, hv, hfs⟩ := h
    have hrest := ih hfs
    have hplace : (p.2 + 1) * 2 ^ lo ≤ 2 ^ (p.1 + 1) := by
      rw [two_pow_field hle, Nat.mul_comm]
      exact Nat.mul_le_mul_left _ hv
    rw [Nat.add_mul, Nat.one_mul] at hplace
    rw [wordOf]
    omega

/-- Fields from bit `lo` on sum to a multiple of its weight. -/
theorem two_pow_dvd_wordOf {lo : Nat} {fs : List (Nat × Nat)} (h : Fits lo fs) : 2 ^ lo ∣ wordOf lo fs := by
  induction fs generalizing lo with
  | nil => exact Nat.dvd_zero _
  | cons p fs ih =>
    obtain ⟨hle, -, hfs⟩ := h
    exact Nat.dvd_add (Nat.dvd_mul_left _ _) ((Nat.pow_dvd_pow 2 (by omega)).trans (ih hfs))

/-- A sum of fields over lower bits reads as those fields. -/
theorem spells_wordOf {lo r : Nat} {fs : List (Nat × Nat)} (h : Fits lo fs) (hr : r < 2 ^ lo) : Spells (r + wordOf lo fs) lo fs := by
  induction fs generalizing lo r with
  | nil => trivial
  | cons p fs ih =>
    obtain ⟨hle, hv, hfs⟩ := h
    obtain ⟨a, ha⟩ := two_pow_dvd_wordOf hfs
    have hpow := two_pow_field hle
    have hlow : r + p.2 * 2 ^ lo < 2 ^ (p.1 + 1) := by
      rw [hpow]
      calc r + p.2 * 2 ^ lo < (p.2 + 1) * 2 ^ lo := by rw [Nat.add_mul]; omega
        _ ≤ 2 ^ lo * 2 ^ (p.1 + 1 - lo) := by rw [Nat.mul_comm]; exact Nat.mul_le_mul_left _ hv
    refine ⟨?_, ?_⟩
    · have hsum : r + wordOf lo (p :: fs) = r + 2 ^ lo * (p.2 + 2 ^ (p.1 + 1 - lo) * a) := by
        rw [wordOf, ha, hpow]; ring
      rw [hsum, bitsOf, Nat.add_mul_div_left _ _ (by positivity), Nat.div_eq_of_lt hr, Nat.zero_add, Nat.add_mul_mod_self_left,
        Nat.mod_eq_of_lt hv]
    · have hsum : r + wordOf lo (p :: fs) = (r + p.2 * 2 ^ lo) + wordOf (p.1 + 1) fs := by rw [wordOf, Nat.add_assoc]
      rw [hsum]
      exact ih hfs hlow

/-- A word of 32 bits is the sum of its fields: no bit is dropped. -/
theorem wordOf_of_spells {w lo : Nat} {fs : List (Nat × Nat)} (hw : w < 2 ^ 32) (h : Fits lo fs) (hs : Spells w lo fs) :
    wordOf lo fs = w / 2 ^ lo * 2 ^ lo := by
  induction fs generalizing lo with
  | nil => rw [wordOf, show lo = 32 from h, Nat.div_eq_of_lt hw, Nat.zero_mul]
  | cons p fs ih =>
    obtain ⟨hle, -, hfs⟩ := h
    obtain ⟨hv, hrest⟩ := hs
    have hpow := two_pow_field hle
    have hcut := Nat.div_add_mod (w / 2 ^ lo) (2 ^ (p.1 + 1 - lo))
    rw [wordOf, ih hfs hrest, ← hv, bitsOf, hpow, ← Nat.div_div_eq_div_mul]
    calc w / 2 ^ lo % 2 ^ (p.1 + 1 - lo) * 2 ^ lo + w / 2 ^ lo / 2 ^ (p.1 + 1 - lo) * (2 ^ lo * 2 ^ (p.1 + 1 - lo))
        = (2 ^ (p.1 + 1 - lo) * (w / 2 ^ lo / 2 ^ (p.1 + 1 - lo)) + w / 2 ^ lo % 2 ^ (p.1 + 1 - lo)) * 2 ^ lo := by ring
      _ = w / 2 ^ lo * 2 ^ lo := by rw [hcut]

/-! ### The fields of the figures (R114, R118-R122) -/

theorem b2n_le (b : Bool) : b2n b ≤ 1 := by
  cases b <;> decide

theorem b2n_testBit (w k : Nat) : b2n (w.testBit k) = bitsOf w k k := by
  rw [bitsOf, Nat.add_sub_cancel_left, pow_one, Nat.testBit_eq_decide_div_mod_eq]
  rcases Nat.mod_two_eq_zero_or_one (w / 2 ^ k) with h | h <;> simp [b2n, h]

theorem bitsOf_eq_b2n {w k : Nat} {b : Bool} : bitsOf w k k = b2n b ↔ w.testBit k = b := by
  rw [← b2n_testBit]
  cases w.testBit k <;> cases b <;> decide

/-- The fields of a figure's word, each with its highest bit: Reserved bits are 0, and the opcode stands on top. -/
def figLayout : Fig → List (Nat × Nat)
  | .set i v => [(19, v), (22, 0), (26, i), (31, 1)]
  | .addg i v => [(19, v), (22, 0), (26, i), (31, 2)]
  | .repeatBody bd c => [(7, 0), (19, c), (26, bd), (31, 3)]
  | .load a m wv sc b => [(7, 0), (11, b), (19, 0), (20, b2n sc), (21, b2n wv), (24, m), (26, a), (31, 4)]
  | .table a b => [(7, 0), (11, b), (24, 0), (26, a), (31, 5)]
  | .stream a s x st em rs o b => [(7, 0), (11, b), (14, 0), (17, o), (18, b2n rs), (19, b2n em), (20, b2n st), (21, b2n x), (22, b2n s),
      (26, a), (31, 6)]
  | .vector op r fin i o b mi mo => [(5, 0), (6, b2n mo), (7, b2n mi), (11, b), (14, o), (17, i), (18, b2n fin), (20, r), (26, op), (31, 7)]
  | .send b r => [(15, r), (22, 0), (26, b), (31, 8)]
  | .receive b p t r => [(15, r), (20, t), (21, 0), (22, b2n p), (26, b), (31, 9)]
  | .fetch b p t o => [(15, o), (20, t), (21, 0), (22, b2n p), (26, b), (31, 10)]
  | .store b p t o => [(15, o), (20, t), (21, 0), (22, b2n p), (26, b), (31, 11)]
  | .wait t c => [(7, c), (15, 0), (20, t), (26, 0), (31, 12)]
  | .post rm t r => [(15, r), (20, t), (25, 0), (26, b2n rm), (31, 13)]
  | .sleep fi c => [(25, c), (26, b2n fi), (31, 14)]
  | .yieldToken t c => [(7, c), (15, 0), (20, t), (25, 0), (26, b2n false), (31, 15)]
  | .yieldTime c => [(25, c), (26, b2n true), (31, 15)]
  | .vote p t v => [(15, v), (20, t), (21, b2n p), (26, 0), (31, 16)]
  | .endStep fin n => [(13, n), (25, 0), (26, b2n fin), (31, 17)]

theorem encodeFig_eq_wordOf (f : Fig) : encodeFig f = wordOf 0 (figLayout f) := by
  cases f <;> simp only [encodeFig, figLayout, wordOf, b2n, if_true, Bool.false_eq_true, if_false] <;> omega

theorem vecOp_lt {op : Nat} (h : vecOpOk op = true) : op < 64 := by
  simp only [vecOpOk, Bool.or_eq_true, Bool.and_eq_true, decide_eq_true_eq, beq_iff_eq] at h
  omega

/-- The static rules keep every field within its bits. -/
theorem fits_figLayout {f : Fig} (h : f.ok = true) : Fits 0 (figLayout f) := by
  cases f <;> simp only [Fig.ok, Bool.and_eq_true, decide_eq_true_eq] at h <;>
    simp only [figLayout, Fits, b2n_le, Nat.lt_succ_iff, Nat.reduceAdd, Nat.reduceSub, Nat.reducePow, and_true, true_and]
  case vector op r fin i o b mi mo =>
    have hop : op < 64 := vecOp_lt (by simp only [h])
    omega
  all_goals omega

/-- The decoder reads a figure exactly where the word reads as the figure's fields. -/
theorem figFields_of_spells {w : Nat} {f : Fig} (h : Spells w 0 (figLayout f)) : figFields w = some f := by
  cases f <;> simp only [figLayout, Spells, Nat.reduceAdd, bitsOf_eq_b2n, and_true] at h <;> simp [figFields, h]

theorem spells_of_figFields {w : Nat} {f : Fig} (h : figFields w = some f) : Spells w 0 (figLayout f) := by
  simp only [figFields] at h
  repeat' split at h
  all_goals cases h
  all_goals simp_all [figLayout, Spells, bitsOf_eq_b2n]

theorem figFields_eq_some_iff {w : Nat} {f : Fig} : figFields w = some f ↔ Spells w 0 (figLayout f) :=
  ⟨spells_of_figFields, figFields_of_spells⟩

theorem decodeFig_eq_some_iff {w : Nat} {f : Fig} : decodeFig w = some f ↔ f.ok = true ∧ w < 2 ^ 32 ∧ Spells w 0 (figLayout f) := by
  unfold decodeFig
  constructor
  · intro h
    split at h
    · rename_i g hg
      split_ifs at h with hok
      cases h
      simp only [Bool.and_eq_true, decide_eq_true_eq] at hok
      exact ⟨hok.1, hok.2, figFields_eq_some_iff.mp hg⟩
    · cases h
  · rintro ⟨hok, hw, hs⟩
    simp only [figFields_eq_some_iff.mpr hs, hok, hw, decide_true, Bool.and_self, if_true]

/-- Settles O60: a word is the sum of its figure's fields, and reads back as them. -/
theorem figuresRoundTrip : Obligations.FiguresRoundTrip := by
  unfold Obligations.FiguresRoundTrip
  refine ⟨fun f hok => ?encoded, fun w f hdec => ?decoded⟩
  case encoded =>
    have hfits := fits_figLayout hok
    have hlt : encodeFig f < 2 ^ 32 := by
      have := wordOf_lt hfits
      rw [encodeFig_eq_wordOf]
      omega
    have hspells := spells_wordOf hfits (r := 0) (by decide)
    rw [Nat.zero_add, ← encodeFig_eq_wordOf] at hspells
    exact ⟨hlt, decodeFig_eq_some_iff.mpr ⟨hok, hlt, hspells⟩⟩
  case decoded =>
    obtain ⟨hok, hw, hspells⟩ := decodeFig_eq_some_iff.mp hdec
    refine ⟨hok, ?_⟩
    rw [encodeFig_eq_wordOf, wordOf_of_spells hw (fits_figLayout hok) hspells, pow_zero, Nat.div_one, Nat.mul_one]

end Sys2Proof.Machine
end

section
/-! SUPPORT. Argument registers, token counters, posts and holds (R116, R128, R139, R141): what a read of one gives after each of their
updates, what the updates leave alone, and what a figure leaves that takes effect as it issues. -/

namespace Sys2Proof.Machine

/-! ### Pieces that a frame keeps -/

namespace Only

variable {s u : State} {ks : List Nat} {ps : List Piece}

theorem cycle_eq (h : Only s u ks ps) (hp : Piece.cycle ∉ ps) : u.cycle = s.cycle := h.2.1 .cycle hp
theorem ctxs_eq (h : Only s u ks ps) (hp : Piece.ctxs ∉ ps) : u.ctxs = s.ctxs := h.2.1 .ctxs hp
theorem ptab_eq (h : Only s u ks ps) (hp : Piece.ptab ∉ ps) (a : Nat) : mget u.ptab a = mget s.ptab a := h.2.1 .ptab hp a
theorem tileStore_eq (h : Only s u ks ps) (hp : Piece.tileStore ∉ ps) (a : Nat) : mget u.tileStore a = mget s.tileStore a :=
  h.2.1 .tileStore hp a

end Only

@[simp] theorem tcGet_siteMod (s : State) (i : Nat) (f : Site → Site) (c j : Nat) : tcGet (siteMod i f s) c j = tcGet s c j := rfl
@[simp] theorem getR_siteMod (s : State) (i : Nat) (f : Site → Site) (k : Nat) : getR (siteMod i f s) k = getR s k := rfl

/-! ### Argument registers and token counters (R116) -/

/-- A table that lists the values that are not 0 reads as it was set. -/
theorem tgetD_set (t : Tbl Nat) (k v j : Nat) :
    tgetD (if v = 0 then tdel t k else tput t k v) j 0 = if j = k then v else tgetD t j 0 := by
  by_cases hv : v = 0 <;> by_cases hj : j = k
  · simp [tgetD, hv, hj, tget_tdel_same]
  · simp [tgetD, hv, hj, tget_tdel_ne _ hj]
  · simp [tgetD, hv, hj]
  · simp [tgetD, hv, hj, tget_tput_ne _ _ hj]

theorem gReg_gSet (t : TileCtx) (i v j : Nat) : gReg (gSet t i v) j = if j = i then v % 2 ^ 20 else gReg t j :=
  tgetD_set t.g i (v % 2 ^ 20) j

theorem tokGet_tokSet (t : TileCtx) (i v j : Nat) : tokGet (tokSet t i v) j = if j = i then v else tokGet t j :=
  tgetD_set t.t i v j

/-! ### Posts (R27, R128, R483) -/

/-- A post ends NAP at most: one register's write. -/
theorem napPost_eq (c i : Nat) (s : State) : napPost c i s = s ∨ ∃ v, napPost c i s = setR s Reg.POWER_CONTROL v := by
  unfold napPost endNap
  split
  · split_ifs
    · exact .inl rfl
    · exact .inr ⟨_, rfl⟩
    · exact .inl rfl
  · exact .inl rfl

theorem napPost_only (c i : Nat) (s : State) : Only s (napPost c i s) [Reg.POWER_CONTROL] [] := by
  rcases napPost_eq c i s with h | ⟨v, h⟩
  · rw [h]; exact Only.refl s _ _
  · rw [h]; exact (Only.refl s _ _).setR v (by simp)

theorem tokenWake_only (i : Nat) (s : State) : Only s (tokenWake i s) [Reg.TILE_POWER i] [.sites] := by
  unfold tokenWake
  split
  · exact (((Only.refl s _ _).setR _ (by simp)).setR _ (by simp)).siteMod _ _ (by simp)
  · exact Only.refl s _ _

theorem tokenWake_of_awake {i : Nat} {s : State} (h : tileState s i ≠ 1) : tokenWake i s = s := if_neg h

/-- A token of a context on a tile gains 1 (R128). -/
def gainToken (k : Nat) (t : TileCtx) : TileCtx := tokSet t k (tokGet t k + 1)


theorem tokGet_gainToken (k : Nat) (t : TileCtx) (j : Nat) : tokGet (gainToken k t) j = if j = k then tokGet t k + 1 else tokGet t j :=
  tokGet_tokSet t k _ j

section PostToken

variable {s : State} {c i k : Nat} {t : TileCtx} (ht : tcGet s c i = some t) (hroom : tokGet t k < 255)
include ht hroom

theorem postToken_eq : postToken c i k s = tokenWake i (napPost c i (tcMod c i (gainToken k) s)) := by
  simp only [postToken, ht, if_neg (show ¬tokGet t k + 1 > 255 by omega)]
  unfold tcMod ctxMod
  obtain ⟨x, hx, hx'⟩ := Option.bind_eq_some_iff.mp ht
  simp [hx, hx', gainToken]

theorem postToken_only : Only s (postToken c i k s) [Reg.POWER_CONTROL, Reg.TILE_POWER i] [.ctxs, .sites] := by
  rw [postToken_eq ht hroom]
  exact (((Only.refl s _ _).tcMod c i _ (by simp)).trans ((napPost_only c i _).weaken (by simp) (by simp))).trans
    ((tokenWake_only i _).weaken (by simp) (by simp))

theorem tcGet_postToken : tcGet (postToken c i k s) c i = some (gainToken k t) := by
  rw [postToken_eq ht hroom, (tokenWake_only i _).tcGet_eq (by simp), (napPost_only c i _).tcGet_eq (by simp), tcGet_tcMod_same _ ht]

/-- A post to a tile that does not doze wakes nothing. -/
theorem postToken_only_of_awake (hawake : tileState s i ≠ 1) :
    Only s (postToken c i k s) [Reg.POWER_CONTROL] [.ctxs] := by
  have hne : Reg.TILE_POWER i ≠ Reg.POWER_CONTROL := by simp only [Reg.TILE_POWER, Reg.POWER_CONTROL]; omega
  have honly : Only s (napPost c i (tcMod c i (gainToken k) s)) [Reg.POWER_CONTROL] [.ctxs] :=
    ((Only.refl s _ _).tcMod c i _ (by simp)).trans ((napPost_only c i _).weaken (by simp) (by simp))
  rw [postToken_eq ht hroom, tokenWake_of_awake (by rwa [tileState, fld, honly.getR_eq (by simp [hne])])]
  exact honly

end PostToken

/-! ### Holds (R139, R141) -/

theorem ARR_STATUS_ne_CALLER_STATUS (i a : Nat) : Reg.ARR_STATUS i a ≠ Reg.CALLER_STATUS i := by
  simp only [Reg.ARR_STATUS, Reg.CALLER_STATUS]
  omega

theorem getR_syncArrs (i : Nat) {k : Nat} (hk : ∀ a, k ≠ Reg.ARR_STATUS i a) (as : List Nat) (s : State) :
    getR (as.foldl (syncArr i) s) k = getR s k := by
  induction as generalizing s with
  | nil => rfl
  | cons a as ih =>
    obtain ⟨v, h⟩ := syncArr_eq_setR i s a
    rw [List.foldl_cons, ih, h, getR_setR_ne _ _ (hk a)]

/-- The caller's status shows the kind of its hold. -/
theorem fld_syncSite_hold {i : Nat} {s : State} {h : Hold} (hh : (siteGet s i).hold = some h) :
    fld (syncSite i s) (Reg.CALLER_STATUS i) 15 12 = h.kind % 16 := by
  simp only [syncSite, setF_eq, hh]
  rw [fld, getR_syncArrs i (fun a => (ARR_STATUS_ne_CALLER_STATUS i a).symm), ← fld, fld_setR_same _ _ _ (by decide),
    bitsOf_setBits_same _ _ _ _ (by decide)]
  rfl

/-- A hold begins. -/
def beginHold (kind now : Nat) (st : Site) : Site := { st with hold := some { kind := kind, since := now, raised := false } }

theorem holdOff_of_none {i : Nat} {s : State} (h : (siteGet s i).hold = none) : holdOff i s = s := by
  simp only [holdOff, h]

theorem holdOn_of_none {i : Nat} {s : State} (kind : Nat) (h : (siteGet s i).hold = none) :
    holdOn kind i s = syncSite i (siteMod i (beginHold kind s.cycle) s) := by
  simp only [holdOn, h, holdOff_of_none h, Option.any_none, Bool.false_eq_true, if_false]
  rfl

section BeginHold

variable {s t : State} {e : Env} {kind : Nat} (hk : kind < 16) (hc : t.cycle = s.cycle)
include hk hc

theorem holds_syncSite {u : State} (hu : siteGet u e.site = beginHold kind t.cycle (siteGet t e.site)) :
    Holds s (syncSite e.site u) e kind := by
  have hhold : (siteGet u e.site).hold = some { kind := kind, since := s.cycle, raised := false } := by rw [hu, beginHold, hc]
  refine ⟨by rw [siteGet_syncSite, hhold], ?_⟩
  rw [fld_syncSite_hold hhold]
  exact Nat.mod_eq_of_lt hk

theorem holds_holdOn (h : (siteGet t e.site).hold = none) : Holds s (holdOn kind e.site t) e kind := by
  rw [holdOn_of_none kind h]
  exact holds_syncSite hk hc (siteGet_siteMod_same _ _ _)

theorem holds_syncSite_holdOn (h : (siteGet t e.site).hold = none) : Holds s (syncSite e.site (holdOn kind e.site t)) e kind := by
  rw [holdOn_of_none kind h]
  exact holds_syncSite hk hc (by rw [siteGet_syncSite, siteGet_siteMod_same])

end BeginHold

theorem holdOn_only {i : Nat} {s : State} (kind : Nat) (h : (siteGet s i).hold = none) :
    Only s (holdOn kind i s) (statusRegs i) [.sites] := by
  rw [holdOn_of_none kind h]
  exact ((Only.refl s _ _).siteMod _ _ (by simp)).syncSite i (fun _ hk => hk)

/-- A figure whose own condition fails holds its caller (R124, R141). -/
theorem issue_of_own {s : State} {e : Env} {codes : List Nat} {p : Plan} (hunit : p.unit = true) (hroom : inFlight s e.site < 16)
    (hmarks : marksClash (siteGet s e.site).flights p.reads p.writes = false) (hown : p.own = false) :
    issue e codes p s = holdOn p.ownHold e.site s := by
  simp [issue, hunit, hmarks, hown, show ¬16 ≤ inFlight s e.site by omega]

theorem marksClash_nil (fs : List Flight) : marksClash fs [] [] = false := by
  simp [marksClash]

/-- A figure without ranges may fly. -/
theorem mayFly_nil (s : State) (e : Env) : MayFly s e [] [] := ⟨marksClash_nil _, rfl⟩

/-- A command whose figure's own condition fails, and which has no ranges, leaves the caller in a hold. -/
theorem Goes.of_hold {c : Instr} {s : State} {site : SiteId} {e : Env} {plan : Env → State → Option (List Nat × Plan)} {p : Plan}
    {P : State → Prop} (hexec : exec c s = commit s (issueIf site.val plan s)) (hi : Issues s site e) (hplan : plan e s = some ([], p))
    (hunit : p.unit = true) (hreads : p.reads = []) (hwrites : p.writes = []) (hown : p.own = false)
    (hP : P (holdOn p.ownHold e.site s)) : Goes c s P := by
  have hissue : issueIf site.val plan s = holdOn p.ownHold e.site s := by
    simp only [issueIf, hi.1, hplan]
    exact issue_of_own hunit hi.inFlight_lt (by rw [hreads, hwrites]; exact marksClash_nil _) hown
  exact Goes.of (hexec.trans (by rw [hissue])) hP

/-! ### Figures that take effect as they issue (R124) -/

/-- What a figure leaves whose effect took the issued state to `t`. -/
theorem issued_effect {s t : State} {site : SiteId} {e : Env} {ks : List Nat} {ps : List Piece} {tc : TileCtx} (hi : Issues s site e)
    (ho : Only (advance e s) t ks ps) (hctxs : Piece.ctxs ∈ ps) (hsites : Piece.sites ∈ ps) (hcount : Reg.FIGURES_ISSUED e.site ∉ ks)
    (hnext : Reg.CTX_ID e.site e.t.slot ∉ ks) (htc : tcGet t e.c e.site = some tc) (hslot : tc.slot = e.t.slot) :
    Issued s (syncSite e.site t) e ∧ tcGet (syncSite e.site t) e.c e.site = some tc
      ∧ Only s (syncSite e.site t) (ks ++ issueRegs e) ps := by
  have hu : Only (advance e s) (syncSite e.site t) (ks ++ statusRegs e.site) ps :=
    (ho.weaken (fun _ => List.mem_append_left _) (fun _ hp => hp)).syncSite _ (fun _ => List.mem_append_right _)
  have htc' : tcGet (syncSite e.site t) e.c e.site = some tc := by rw [tcGet_syncSite, htc]
  exact ⟨Issued.of_only hi hu hcount hnext (by rw [slotOf_of_tcGet htc', hslot]), htc', hi.only hu hctxs hsites⟩

/-- What a figure leaves that changes what its context holds on the tile, and no more. -/
theorem issued_tcMod {s : State} {site : SiteId} {e : Env} (hi : Issues s site e) (f : TileCtx → TileCtx)
    (hslot : (f (issuedCtx e e.t)).slot = e.t.slot) :
    Issued s (syncSite e.site (tcMod e.c e.site f (advance e s))) e
      ∧ tcGet (syncSite e.site (tcMod e.c e.site f (advance e s))) e.c e.site = some (f (issuedCtx e e.t))
      ∧ Only s (syncSite e.site (tcMod e.c e.site f (advance e s))) (issueRegs e) [.ctxs, .sites] :=
  issued_effect (ks := []) hi ((Only.refl _ [] [.ctxs, .sites]).tcMod _ _ _ (by simp)) (by simp) (by simp) (by simp) (by simp)
    (tcGet_tcMod_same f (tcGet_advance hi.tcGet_eq)) hslot

/-- The tile of a figure that issues is in RUN. -/
theorem Issues.tileState_eq {s : State} {site : SiteId} {e : Env} (hi : Issues s site e) : tileState s e.site = 0 := by
  have h := hi.1
  simp only [nextIssue, Option.bind_eq_bind, Option.bind_eq_some_iff] at h
  obtain ⟨l, -, c, -, x, -, t, -, w, -, f, -, hcond⟩ := h
  split at hcond
  case isTrue hrun =>
    cases hcond
    simp only [Bool.and_eq_true, beq_iff_eq] at hrun
    simp [hrun]
  case isFalse => cases hcond

end Sys2Proof.Machine
end


section
/-! SUPPORT. SET, ADDG, REPEAT, WAIT and POST (R116, R118, R122, R128). -/

namespace Sys2Proof.Machine

theorem FIGURES_ISSUED_ne_POWER_CONTROL (i : Nat) : Reg.FIGURES_ISSUED i ≠ Reg.POWER_CONTROL := by
  simp only [Reg.FIGURES_ISSUED, Reg.POWER_CONTROL]
  omega

theorem CTX_ID_ne_POWER_CONTROL (i slot : Nat) : Reg.CTX_ID i slot ≠ Reg.POWER_CONTROL := by
  simp only [Reg.CTX_ID, Reg.POWER_CONTROL]
  omega

/-- The power state of a tile lies outside what an issue writes. -/
theorem tileState_advance {s : State} {site : SiteId} {e : Env} (hi : Issues s site e) : tileState (advance e s) e.site = 0 := by
  have hk : Reg.TILE_POWER e.site ∉ issueRegs e := by
    simp only [issueRegs, Reg.TILE_POWER, Reg.FIGURES_ISSUED, Reg.HOLD_CYCLES, Reg.CTX_ID, Reg.CALLER_STATUS, Reg.ARR_STATUS,
      List.mem_cons, List.not_mem_nil, or_false]
    omega
  rw [tileState, fld, (advance_only hi.tcGet_eq).getR_eq hk]
  exact hi.tileState_eq

/-- A figure that changes what its context holds on the tile, and no more, issues. -/
theorem Goes.of_tcMod {c : Instr} {s : State} {site : SiteId} {e : Env} {plan : Env → State → Option (List Nat × Plan)} {own : Bool}
    {ownHold : Nat} {f : TileCtx → TileCtx} {P : State → Prop} (hexec : exec c s = commit s (issueIf site.val plan s))
    (hi : Issues s site e) (hplan : plan e s = some ([], { own := own, ownHold := ownHold, act := tcMod e.c e.site f }))
    (hown : own = true) (hslot : (f (issuedCtx e e.t)).slot = e.t.slot)
    (hP : ∀ u, Issued s u e → tcGet u e.c e.site = some (f (issuedCtx e e.t)) → Only s u (issueRegs e) [.ctxs, .sites] → P u) :
    Goes c s P := by
  obtain ⟨hissued, htc, honly⟩ := issued_tcMod hi f hslot
  exact Goes.of_issue hexec hi hplan rfl hown rfl (mayFly_nil s e) (hP _ hissued htc honly)

theorem postToken_issued {s : State} {site : SiteId} {e : Env} {k : Nat} (hi : Issues s site e) (hroom : tokGet e.t k < 255) :
    Issued s (syncSite e.site (postToken e.c e.site k (advance e s))) e
      ∧ tcGet (syncSite e.site (postToken e.c e.site k (advance e s))) e.c e.site = some (gainToken k (issuedCtx e e.t))
      ∧ Only s (syncSite e.site (postToken e.c e.site k (advance e s))) (Reg.POWER_CONTROL :: issueRegs e) [.ctxs, .sites] := by
  have htc := tcGet_advance hi.tcGet_eq
  have honly := postToken_only_of_awake htc hroom (by rw [tileState_advance hi]; decide)
  exact issued_effect (ks := [Reg.POWER_CONTROL]) hi (honly.weaken (fun _ h => h) (by simp)) (by simp) (by simp)
    (by simp [FIGURES_ISSUED_ne_POWER_CONTROL]) (by simp [CTX_ID_ne_POWER_CONTROL]) (tcGet_postToken htc hroom) rfl

@[simp] theorem tcGet_landFlight (i id : Nat) (s : State) (c j : Nat) : tcGet (landFlight i id s) c j = tcGet s c j := rfl

/-- A post that has crossed the mesh reaches the tile at which its route ends (R128). -/
def deliverPost (c rt k : Nat) (s : State) : State :=
  match (ctxGet s c).bind (fun x => routeOf x.pitch rt) with
  | some r => postTile c (r.dst % 512) k s
  | none => s

theorem deliverPost_eq {s : State} {c rt k dst : Nat} {x : Ctx} {r : Route} (hx : ctxGet s c = some x)
    (hr : routeOf x.pitch rt = some r) (hdst : tget s.siteMap (r.dst % 512) = some dst) :
    deliverPost c rt k s = postToken c dst k s := by
  simp only [deliverPost, hx, hr, Option.bind_some, postTile, hdst]

/-- Settles O20: each figure takes its one effect on what the context holds on the tile, or holds its caller, or flies; a post that has
flown counts at its destination. -/
theorem argumentAndTokenFigures : Obligations.ArgumentAndTokenFigures := by
  unfold Obligations.ArgumentAndTokenFigures
  refine ⟨fun s site e hi => ⟨?set, ?addg, ?repeated⟩, fun s site e hi => ⟨?wait, ?short, ?post, ?remote⟩, ?delivered⟩
  case set =>
    intro i v hfig
    exact Goes.of_tcMod (ownHold := 0) (f := fun t => gSet t i v) rfl hi (by simp only [planSet, hfig]) rfl rfl
      fun u hissued htc honly => ⟨hissued, ⟨_, htc, rfl, gReg_gSet _ i v⟩, honly⟩
  case addg =>
    intro i v hfig
    exact Goes.of_tcMod (ownHold := 0) (f := fun t => gSet t i (gReg t i + v)) rfl hi (by simp only [planAddg, hfig]) rfl rfl
      fun u hissued htc honly => ⟨hissued, ⟨_, htc, rfl, gReg_gSet _ i _⟩, honly⟩
  case repeated =>
    intro b n hfig
    exact Goes.of_tcMod (ownHold := 0) (f := fun t => { t with loops := (e.index + 1, e.index + 2 + b, n) :: t.loops }) rfl hi
      (by simp only [planRepeat, hfig]) rfl rfl fun u hissued htc honly => ⟨hissued, ⟨_, htc, rfl⟩, honly⟩
  case wait =>
    intro k n hfig hn
    exact Goes.of_tcMod (f := fun t => tokSet t k (tokGet t k - n)) rfl hi (by simp only [planWait, hfig]; rfl) (decide_eq_true hn) rfl
      fun u hissued htc honly => ⟨hissued, ⟨_, htc, rfl, tokGet_tokSet _ k _⟩, honly⟩
  case short =>
    intro k n hfig hn hhold
    refine Goes.of_hold rfl hi (by simp only [planWait, hfig]; rfl) rfl rfl rfl (decide_eq_false (Nat.not_le.mpr hn)) ?_
    have honly := holdOn_only 4 hhold
    exact ⟨holds_holdOn (show 4 < 16 by decide) rfl hhold, honly.ctxs_eq (by simp), honly⟩
  case post =>
    intro k r hfig hroom
    obtain ⟨hissued, htc, honly⟩ := postToken_issued hi hroom
    have hplan : planPost e s = some ([], { act := postToken e.c e.site k }) := by simp only [planPost, hfig]
    exact Goes.of_issue rfl hi hplan rfl rfl rfl (mayFly_nil s e) ⟨hissued, ⟨_, htc, rfl, tokGet_gainToken k _⟩, honly⟩
  case remote =>
    intro k id r hfig hr hsrc hdst
    have hplan : planPost e s = some ([], { act := fly e (.remotePost id k) 0 [] [] none }) := by
      simp [planPost, hfig, hr, hsrc, hdst]
    exact Goes.of_issue rfl hi hplan rfl rfl rfl (mayFly_nil s e) (issued_fly hi (Only.refl _ [] _) (by simp) (by simp) (by simp) (by simp)
      (slotOf_advance hi.tcGet_eq) (by simp) (by simp) (by simp) _ _ _ _ _)
  case delivered =>
    intro s site id f rt k x r dst t hd hwork hpost hx hr hdst ht hroom
    have htc : tcGet s f.ctx dst = some t := by rw [tcGet, hx]; exact ht
    have honly := postToken_only htc hroom
    refine Goes.of_completion (g := deliverPost f.ctx rt k) rfl hd hpost (by simp only [hwork]; rfl) ?_
    rw [deliverPost_eq hx hr hdst]
    refine ⟨flightOf_landed _ _ _, ⟨gainToken k t, ?_, rfl, tokGet_gainToken k t⟩, ?_⟩
    · rw [tcGet_syncSite, tcGet_landFlight]
      exact tcGet_postToken htc hroom
    · exact landed_only (honly.weaken (by simp) (by simp)) site id (by simp +contextual) (by simp)

end Sys2Proof.Machine
end

section
/-! SUPPORT. Chip faults, and the reads and writes of objects (R149, R154, R159, R465): what each leaves alone. -/

namespace Sys2Proof.Machine

/-! ### What a fault or a read may change -/

/-- The state differs at most in what a read that meets an error may change: registers, the rest state, the fault sequence, latent errors
and poison. -/
def ReadLeaves (s u : State) : Prop :=
  ∃ rs pw fs es po, u = { s with regs := rs, power := pw, faultSeq := fs, errs := es, poison := po }

namespace ReadLeaves

variable {s u w : State}

theorem refl (s : State) : ReadLeaves s s := ⟨_, _, _, _, _, rfl⟩

theorem trans (a : ReadLeaves s u) (b : ReadLeaves u w) : ReadLeaves s w := by
  obtain ⟨_, _, _, _, _, rfl⟩ := a
  obtain ⟨rs, pw, fs, es, po, rfl⟩ := b
  exact ⟨rs, pw, fs, es, po, rfl⟩

theorem setR (a : ReadLeaves s u) (k v : Nat) : ReadLeaves s (setR u k v) := a.trans ⟨_, _, _, _, _, rfl⟩

theorem ite {c : Prop} [Decidable c] (a : ReadLeaves s u) (b : ReadLeaves s w) : ReadLeaves s (if c then u else w) := by
  split_ifs
  · exact a
  · exact b

theorem foldl {α : Type} {f : State → α → State} (hf : ∀ u a, ReadLeaves u (f u a)) (as : List α) (s : State) :
    ReadLeaves s (as.foldl f s) := by
  induction as generalizing s with
  | nil => exact refl s
  | cons a as ih => exact (hf s a).trans (ih _)

theorem ptab_eq (a : ReadLeaves s u) : u.ptab = s.ptab := by
  obtain ⟨_, _, _, _, _, rfl⟩ := a; rfl

theorem tileStore_eq (a : ReadLeaves s u) : u.tileStore = s.tileStore := by
  obtain ⟨_, _, _, _, _, rfl⟩ := a; rfl

end ReadLeaves

theorem leaveDoze_leaves (s : State) : ReadLeaves s (leaveDoze s) :=
  ReadLeaves.ite (ReadLeaves.setR ⟨_, _, _, _, _, rfl⟩ _ _) (ReadLeaves.refl s)

theorem ungate_leaves (s : State) : ReadLeaves s (ungate s) := by
  exact ReadLeaves.foldl (fun u _ => ((ReadLeaves.refl u).setR _ _).ite (ReadLeaves.refl u)) _ s

theorem wakeForFault_leaves (s : State) : ReadLeaves s (wakeForFault s) := by
  unfold wakeForFault
  split_ifs
  · exact leaveDoze_leaves s
  · refine ReadLeaves.trans (ReadLeaves.setR (ReadLeaves.setR ?_ _ _) _ _) (ungate_leaves _)
    exact ⟨_, _, _, _, _, rfl⟩
  · exact ReadLeaves.refl s

theorem chipFault_leaves (code detail : Nat) (s : State) : ReadLeaves s (chipFault code detail s) := by
  have hwake : ReadLeaves s (wakeForFault (satR s Reg.FAULT_COUNT 1)) := ((ReadLeaves.refl s).setR _ _).trans (wakeForFault_leaves _)
  unfold chipFault
  dsimp only
  split_ifs
  · exact ((((hwake.setR _ _).setR _ _).setR _ _).setR _ _).trans ⟨_, _, _, _, _, rfl⟩
  · exact ((hwake.setR _ _).setR _ _).setR _ _
  · exact hwake.setR _ _

/-! ### Objects lie in pages of the near and the far store (R147) -/

/-- A place that a page of an object reaches: near store, far store, or none. -/
def PageDev : Dev → Prop
  | .near _ => True
  | .far _ _ => True
  | .unmapped => True
  | .table _ _ => False
  | .tile _ _ => False

theorem pageDev_of_objSpans (s : State) (o : Obj) (k off n : Nat) : ∀ p ∈ objSpans s o k off n, PageDev p.1 := by
  induction k generalizing off n with
  | zero => simp [objSpans]
  | succ k ih =>
    unfold objSpans
    split_ifs
    · simp
    · refine List.forall_mem_cons.mpr ⟨?_, ih _ _⟩
      dsimp only
      split
      · rename_i p _
        cases p <;> trivial
      · trivial

/-! ### Reads of objects -/

theorem sectorMeet_leaves (lo hi : Nat) (s : State) (e : ErrPlace × Bool) : ReadLeaves s (sectorMeet lo hi s e) := by
  unfold sectorMeet
  split
  · exact ReadLeaves.ite (ReadLeaves.ite (ReadLeaves.setR (ReadLeaves.setR ⟨_, _, _, _, _, rfl⟩ _ _) _ _)
      (ReadLeaves.setR (ReadLeaves.setR ⟨_, _, _, _, _, rfl⟩ _ _) _ _)) (ReadLeaves.refl s)
  · exact ReadLeaves.refl s

theorem nearRead_leaves (ctx : Bool) (a n : Nat) (s : State) : ReadLeaves s (nearRead ctx a n s).1 := by
  have hmeet : ReadLeaves s (meetSectors (a / 64) ((a + n - 1) / 64) s) := ReadLeaves.foldl (sectorMeet_leaves _ _) _ s
  unfold nearRead
  dsimp only
  split
  · exact hmeet
  · split_ifs
    · exact (hmeet.setR _ _).trans (chipFault_leaves _ _ _)
    · exact hmeet.setR _ _

theorem farError_leaves (ctx : Bool) (f : Nat) (s : State) : ReadLeaves s (farError ctx f s) := by
  have hcause : ReadLeaves s (orR s Reg.MEM_CAUSE 0x20) := (ReadLeaves.refl s).setR _ _
  exact (hcause.trans (chipFault_leaves _ _ _)).ite hcause

theorem pieceRead_leaves (ctx : Bool) {d : Dev} (hd : PageDev d) (n : Nat) (s : State) : ReadLeaves s (pieceRead ctx d n s).1 := by
  cases d with
  | near a => exact nearRead_leaves ctx a n s
  | far f a =>
    unfold pieceRead
    dsimp only
    split_ifs
    · exact ReadLeaves.refl s
    · exact farError_leaves ctx f s
  | unmapped => exact (ReadLeaves.refl s).setR _ _
  | table f off => exact hd.elim
  | tile l off => exact hd.elim

theorem piecesRead_leaves (ctx : Bool) {ps : List (Dev × Nat)} (hps : ∀ p ∈ ps, PageDev p.1) (s : State) :
    ReadLeaves s (piecesRead ctx ps s).1 := by
  induction ps generalizing s with
  | nil => exact ReadLeaves.refl s
  | cons p ps ih =>
    obtain ⟨hp, hps⟩ := List.forall_mem_cons.mp hps
    have hfirst := pieceRead_leaves ctx hp p.2 s
    unfold piecesRead
    dsimp only
    split
    · exact hfirst
    · exact hfirst.trans (ih hps _)

/-- The read of an object's bytes changes no memory. -/
theorem objRead_leaves (ctx : Bool) (o : Obj) (off n : Nat) (s : State) : ReadLeaves s (objRead ctx o off n s).1 :=
  piecesRead_leaves ctx (pageDev_of_objSpans s o _ _ _) s

/-! ### Writes of objects -/

theorem pieceWrite_tileStore {d : Dev} (hd : PageDev d) (bs : Bytes) (s : State) : (pieceWrite d bs s).tileStore = s.tileStore := by
  cases d with
  | near a => rfl
  | far f a => rfl
  | unmapped => rfl
  | table f off => exact hd.elim
  | tile l off => exact hd.elim

theorem piecesWrite_tileStore {ps : List (Dev × Nat)} (hps : ∀ p ∈ ps, PageDev p.1) (bs : Bytes) (s : State) :
    (piecesWrite ps bs s).tileStore = s.tileStore := by
  induction ps generalizing bs s with
  | nil => rfl
  | cons p ps ih =>
    obtain ⟨hp, hps⟩ := List.forall_mem_cons.mp hps
    rw [piecesWrite, ih hps, pieceWrite_tileStore hp]

/-- The write of an object's bytes leaves the tile stores alone. -/
@[simp] theorem objWrite_tileStore (o : Obj) (off : Nat) (bs : Bytes) (s : State) : (objWrite o off bs s).tileStore = s.tileStore :=
  piecesWrite_tileStore (pageDev_of_objSpans s o _ _ _) bs s

theorem packFail_leaves (ctx : Bool) (u bit : Nat) (s : State) : ReadLeaves s (packFail ctx u bit s) := by
  have hcause : ReadLeaves s (orR s (Reg.CODEC_CAUSE u) (2 ^ bit)) := (ReadLeaves.refl s).setR _ _
  have hcount : ReadLeaves s (if bit = 3 ∨ bit = 4 then satR (orR s (Reg.CODEC_CAUSE u) (2 ^ bit)) (Reg.CHECK_FAILS u) 1
      else if bit = 5 then satR (orR s (Reg.CODEC_CAUSE u) (2 ^ bit)) (Reg.AUTH_FAILS u) 1 else orR s (Reg.CODEC_CAUSE u) (2 ^ bit)) :=
    (hcause.setR _ _).ite ((hcause.setR _ _).ite hcause)
  exact (hcount.trans (chipFault_leaves _ _ _)).ite hcount

end Sys2Proof.Machine
end

section
/-! SUPPORT. FETCH and STORE (R121, R126, R162): what flies, and what the move of an object without codec leaves alone. -/

namespace Sys2Proof.Machine

/-! ### The moves -/

@[simp] theorem tsWrite_ptab (s : State) (l w : Nat) (bs : Bytes) : (tsWrite s l w bs).ptab = s.ptab := rfl

theorem fetchPlain_ptab (o : Obj) (l : Nat) (m : Move) (s : State) : (fetchPlain o l m s).ptab = s.ptab := by
  have hread := fun off n u => (objRead_leaves true o off n u).ptab_eq
  unfold fetchPlain
  dsimp only
  split
  · exact hread _ _ _
  · split_ifs
    · rw [tsWrite_ptab, hread]
    · split
      · rw [hread, tsWrite_ptab, hread]
      · rw [tsWrite_ptab, hread, tsWrite_ptab, hread]

theorem storePlain_tileStore (o : Obj) (l : Nat) (m : Move) (s : State) : (storePlain o l m s).tileStore = s.tileStore := by
  unfold storePlain
  dsimp only
  split_ifs
  · exact (packFail_leaves _ _ _ _).tileStore_eq
  · rw [objWrite_tileStore]
  · rw [objWrite_tileStore, objWrite_tileStore]

/-- The status words are registers. -/
theorem syncSite_eq (i : Nat) (s : State) : ∃ rs, syncSite i s = { s with regs := rs } := by
  have hfold : ∀ (as : List Nat) (u : State), ∃ rs, as.foldl (syncArr i) u = { u with regs := rs } := by
    intro as
    induction as with
    | nil => exact fun u => ⟨u.regs, rfl⟩
    | cons a as ih =>
      intro u
      obtain ⟨v, hv⟩ := syncArr_eq_setR i u a
      obtain ⟨rs, hrs⟩ := ih (syncArr i u a)
      exact ⟨rs, by rw [List.foldl_cons, hrs, hv]; rfl⟩
  obtain ⟨a, b, c, h⟩ := syncSite_eq_foldl i s
  obtain ⟨rs, hrs⟩ := hfold (List.range 4) (setR (setR (setR s (Reg.CALLER_STATUS i) a) (Reg.CALLER_STATUS i) b) (Reg.CALLER_STATUS i) c)
  exact ⟨rs, by rw [h, hrs]; rfl⟩

@[simp] theorem syncSite_near (i : Nat) (s : State) : (syncSite i s).near = s.near := by
  obtain ⟨_, h⟩ := syncSite_eq i s; rw [h]
@[simp] theorem syncSite_host (i : Nat) (s : State) : (syncSite i s).host = s.host := by
  obtain ⟨_, h⟩ := syncSite_eq i s; rw [h]
@[simp] theorem landFlight_near (i id : Nat) (s : State) : (landFlight i id s).near = s.near := rfl
@[simp] theorem landFlight_host (i id : Nat) (s : State) : (landFlight i id s).host = s.host := rfl

/-- A landing changes the site and its status words alone. -/
theorem landing_only (i id : Nat) (s : State) : Only s (syncSite i (landFlight i id s)) (statusRegs i) [.sites] :=
  landed_only (Only.refl s _ _) i id (fun _ h => h) (by simp)

section FinishMove

variable {s : State} {site l : Nat} {f : Flight} {m : Move} {o : Obj} (hl : tileOfSite s site = some l) (ho : moveObj s f m = some o)
include hl ho

theorem finishMove_plain (fetch : Bool) (hplain : flagged o.oflags = false) :
    finishMove fetch site f m s = some (fun s => if fetch then fetchPlain o l m s else storePlain o l m s) := by
  simp [finishMove, hl, ho, hplain]

/-- A flagged object's move completes once every pack has passed the codec, with no effect of its own. -/
theorem finishMove_passed (fetch : Bool) (hflagged : flagged o.oflags = true) (hleft : m.left = []) :
    finishMove fetch site f m s = some (fun s => s) := by
  simp [finishMove, hl, ho, hflagged, hleft]

end FinishMove

/-! ### The issue -/

theorem CLOCK_STATUS_not_mem_issueRegs (e : Env) : Reg.CLOCK_STATUS ∉ issueRegs e := by
  simp only [issueRegs, Reg.CLOCK_STATUS, Reg.FIGURES_ISSUED, Reg.HOLD_CYCLES, Reg.CTX_ID, Reg.CALLER_STATUS, Reg.ARR_STATUS,
    List.mem_cons, List.not_mem_nil, or_false]
  omega

/-- The tile clock is that of the state in which the figure stands next. -/
theorem tileRate_advance {s : State} {site : SiteId} {e : Env} (hi : Issues s site e) : tileRate (advance e s) = tileRate s := by
  unfold tileRate fld bitR
  rw [(advance_only hi.tcGet_eq).getR_eq (CLOCK_STATUS_not_mem_issueRegs e)]

/-- The move that a FETCH or STORE of `n` packs from pack `first` begins (R162). -/
def moveOf (e : Env) (obj : Nat) (o : ObjRec) (first n : Nat) : Move :=
  { handle := nth e.x.handles obj, first := first, packs := n, word := nth (frame e.t e.fig) 0,
    left := if flagged o.oflags then upFrom first n else [], sum := 0, excess := 0, variant := false, extra := 0, waits := none }

section PlanMove

variable {s : State} {e : Env} {obj : Nat} {o : ObjRec} {first n : Nat} (ho : e.x.pitch.objs[obj]? = some o) (hkind : o.kind = 1)
  (hfirst : nth (frame e.t e.fig) 1 + nth (frame e.t e.fig) 2 * 2 ^ 20 = first) (hn : nth (frame e.t e.fig) 3 = n)
  (hpos : 1 ≤ n) (hmax : n ≤ 4096) (hin : first + n ≤ packsIn o.format o.oflags o.size) (post : Option Nat)

include hkind hpos hmax hin in
/-- Such a move meets no assertion of its own. -/
theorem planMove_codes : ((if o.kind != 1 || decide (packsIn o.format o.oflags o.size < first + n) then [4] else [])
    ++ if n == 0 || decide (4096 < n) then [8] else []) = ([] : List Nat) := by
  simp [hkind, Nat.not_lt.mpr hin, Nat.not_lt.mpr hmax, Nat.one_le_iff_ne_zero.mp hpos]

include ho hkind hfirst hn hpos hmax hin

theorem planMove_fetch : planMove true e obj post s = some ([], {
    unit := tapRoom s e.site, writes := [(nth (frame e.t e.fig) 0, packWords o.format n)],
    act := fun s => fly e (.fetch obj (moveOf e obj o first n))
      (80 + ns110 s + packWords o.format n - 1 + if flagged o.oflags then 24 else 0) []
      [(nth (frame e.t e.fig) 0, packWords o.format n)] post s }) := by
  simp only [planMove, ho, hfirst, hn, planMove_codes hkind hpos hmax hin, if_true]
  rfl

theorem planMove_store : planMove false e obj post s = some ([], {
    unit := tapRoom s e.site, reads := [(nth (frame e.t e.fig) 0, packWords o.format n)],
    act := fly e (.store obj (moveOf e obj o first n)) (packWords o.format n + 80 + if flagged o.oflags then 24 else 0)
      [(nth (frame e.t e.fig) 0, packWords o.format n)] [] post }) := by
  simp only [planMove, ho, hfirst, hn, planMove_codes hkind hpos hmax hin, Bool.false_eq_true, if_false]
  rfl

end PlanMove

/-- What a figure leaves that flies with no further effect. -/
theorem issued_fly_only {s : State} {site : SiteId} {e : Env} (hi : Issues s site e) (w : Work) (dur : Nat)
    (reads writes : List (Nat × Nat)) (post : Option Nat) :
    let u := syncSite e.site (fly e w dur reads writes post (advance e s))
    Issued s u e ∧ Flies s u e w dur reads writes post ∧ Only s u (issueRegs e) [.ctxs, .sites] :=
  issued_fly hi (Only.refl _ [] _) (List.mem_cons_self) (by simp) (by simp) (by simp) (slotOf_advance hi.tcGet_eq) (by simp) (by simp)
    (by simp) w dur reads writes post

/-- Settles O27: a FETCH or STORE flies with its move; a completed move of an object without codec moves its bytes, and one whose packs
have passed the codec has no further effect. -/
theorem fetchAndStoreFigures : Obligations.FetchAndStoreFigures := by
  unfold Obligations.FetchAndStoreFigures
  refine ⟨?issued, fun s site id l rec' f m o hd hpost hl ho => ⟨?fetched, ?stored, ?fetchPassed, ?storePassed⟩⟩
  case issued =>
    intro s site e obj b k pf o hi ho hkind fr first n words m codec hpos hmax hin hroom
    refine ⟨fun hfig hfly => ?_, fun hfig hfly => ?_⟩
    · have hfetch : planFetch e s = planMove true e obj (if pf then some k else none) s := by simp only [planFetch, hfig]
      refine Goes.of_issue rfl hi (hfetch.trans (planMove_fetch ho hkind rfl rfl hpos hmax hin _)) hroom rfl rfl hfly ?_
      have hns : ns110 (advance e s) = ns110 s := by simp only [ns110, tileRate_advance hi]
      dsimp only
      rw [hns]
      exact issued_fly_only hi _ _ _ _ _
    · have hstore : planStore e s = planMove false e obj (if pf then some k else none) s := by simp only [planStore, hfig]
      refine Goes.of_issue rfl hi (hstore.trans (planMove_store ho hkind rfl rfl hpos hmax hin _)) hroom rfl rfl hfly ?_
      exact issued_fly_only hi _ _ _ _ _
  case fetched =>
    intro hwork hplain
    refine Goes.of_completion (g := fetchPlain o l m) rfl hd hpost (by simp only [hwork]; exact finishMove_plain hl ho true hplain) ?_
    have hland := landing_only site id (fetchPlain o l m s)
    refine ⟨flightOf_landed _ _ _, by simp, fun a => ?_⟩
    rw [hland.ptab_eq (by simp) a, fetchPlain_ptab]
  case stored =>
    intro hwork hplain
    refine Goes.of_completion (g := storePlain o l m) rfl hd hpost (by simp only [hwork]; exact finishMove_plain hl ho false hplain) ?_
    have hland := landing_only site id (storePlain o l m s)
    refine ⟨flightOf_landed _ _ _, by simp, by simp, fun a => ?_⟩
    rw [hland.tileStore_eq (by simp) a, storePlain_tileStore]
  case fetchPassed =>
    intro hwork hflagged hleft
    refine Goes.of_completion (g := fun s => s) rfl hd hpost (by simp only [hwork]; exact finishMove_passed hl ho true hflagged hleft) ?_
    exact ⟨flightOf_landed _ _ _, landing_only _ _ _⟩
  case storePassed =>
    intro hwork hflagged hleft
    refine Goes.of_completion (g := fun s => s) rfl hd hpost (by simp only [hwork]; exact finishMove_passed hl ho false hflagged hleft) ?_
    exact ⟨flightOf_landed _ _ _, landing_only _ _ _⟩

end Sys2Proof.Machine
end

section
/-! SUPPORT. Completions on queue pairs (R373-R377): what one leaves alone. -/

namespace Sys2Proof.Machine

theorem Only.ite {s u w : State} {ks : List Nat} {ps : List Piece} {c : Prop} [Decidable c] (a : Only s u ks ps) (b : Only s w ks ps) :
    Only s (if c then u else w) ks ps := by
  split_ifs
  · exact a
  · exact b

/-! ### What a completion may change -/

/-- The registers that a completion of a command of function `f` may write beside the status of its queue pair. -/
def completeRegs (f : Nat) : List Nat := [Reg.FN_CAUSE f, Reg.LATE_DISCARDS f, Reg.INST_LATE f]

/-- The pieces that a completion may change. -/
def completePieces : List Piece := [.owed, .host, .qps, .out, .pba]

theorem lateDiscard_only (f : Nat) (s : State) : Only s (lateDiscard s f) (completeRegs f) [] := by
  have hcount : Only s (satR (orR s (Reg.FN_CAUSE f) 2) (Reg.LATE_DISCARDS f) 1) (completeRegs f) [] :=
    ((Only.refl s _ _).setR _ (by simp [completeRegs])).setR _ (by simp [completeRegs])
  exact hcount.ite (hcount.setR _ (by simp [completeRegs]))

theorem msixTo_only (f v : Nat) (s : State) : Only s (msixTo s f v) [] [.out, .pba] := by
  unfold msixTo
  exact (Only.refl s _ _).ite (((Only.refl s _ _).pba _ (by simp)).ite ((Only.refl s _ _).emit _ (by simp)))

theorem qpFault_only (f q code : Nat) (s : State) : Only s (qpFault s f q code) [Reg.FN_CAUSE f, Reg.QP_STATUS f q] [] :=
  ((((Only.refl s _ _).setR _ (by simp)).setR _ (by simp)).setR _ (by simp)).setR _ (by simp)

section Complete

variable (s : State) (h : CmdHdr) (sqHead kind status result extra : Nat)

/-- A pair that is not enabled takes no completion. -/
theorem postCqe_only_of_stopped (hstop : qpEnabled s h.fn.val h.qp = false) :
    Only s (postCqe s h sqHead kind status result extra) (completeRegs h.fn.val) [] := by
  simp only [postCqe, hstop, Bool.not_false, if_true]
  exact lateDiscard_only _ _

theorem postCqe_only :
    Only s (postCqe s h sqHead kind status result extra) (Reg.QP_STATUS h.fn.val h.qp :: completeRegs h.fn.val) completePieces := by
  have hcqe : ∀ m v, Only s (qpPut { s with host := m } h.fn.val h.qp v) (Reg.QP_STATUS h.fn.val h.qp :: completeRegs h.fn.val)
      completePieces :=
    fun m v => ((Only.refl s _ _).host m (by simp [completePieces])).qps _ (by simp [completePieces])
  unfold postCqe
  dsimp only
  refine Only.ite ?_ (Only.ite ?_ (Only.ite ?_ ?_))
  · exact (lateDiscard_only _ _).weaken (by simp +contextual) (by simp)
  · exact (qpFault_only _ _ _ _).weaken (by simp [completeRegs]) (by simp)
  · exact (hcqe _ _).trans ((msixTo_only _ _ _).weaken (by simp) (by simp [completePieces]))
  · exact hcqe _ _

end Complete

theorem qpDrain_of_stopped {s : State} {f q : Nat} (hstop : qpEnabled s f q = false) : qpDrain s f q = s := by
  simp [qpDrain, hstop]

theorem qpDrain_only (s : State) (f q : Nat) : Only s (qpDrain s f q) [Reg.QP_STATUS f q, Reg.LATE_DISCARDS f] [.owed] := by
  unfold qpDrain
  exact Only.ite ((((Only.refl s _ _).setR _ (by simp)).setR _ (by simp)).owed _ (by simp)) (Only.refl s _ _)

/-- A completion changes its queue pair, the host's memory and the counts of its function. -/
theorem complete_only (kind status result extra : Nat) (h : CmdHdr) (s : State) :
    Only s (complete kind status result extra h s) (Reg.QP_STATUS h.fn.val h.qp :: completeRegs h.fn.val) completePieces := by
  unfold complete
  split
  · exact Only.refl s _ _
  · refine Only.trans ?_ ((qpDrain_only _ _ _).weaken (by simp [completeRegs]) (by simp [completePieces]))
    have howed := fun v => (Only.refl s (Reg.QP_STATUS h.fn.val h.qp :: completeRegs h.fn.val) completePieces).owed v
      (by simp [completePieces])
    refine Only.ite ?_ ?_
    · exact (howed _).trans ((lateDiscard_only _ _).weaken (by simp +contextual) (by simp))
    · exact (howed _).trans (postCqe_only _ _ _ _ _ _ _)

theorem QP_STATUS_not_mem_completeRegs {f : Nat} (_ : f < 32) (q : Nat) : Reg.QP_STATUS f q ∉ completeRegs f := by
  simp only [completeRegs, Reg.QP_STATUS, Reg.qpBlock, Reg.FN_CAUSE, Reg.LATE_DISCARDS, Reg.fnBlock, Reg.fnSpace, Reg.INST_LATE,
    List.mem_cons, List.not_mem_nil, or_false]
  split_ifs <;> omega

/-- A completion to a pair that is not enabled changes the counts of its function alone. -/
theorem complete_only_of_stopped (kind status result extra : Nat) {h : CmdHdr} {s : State}
    (hstop : qpEnabled s h.fn.val h.qp = false) :
    Only s (complete kind status result extra h s) (completeRegs h.fn.val) completePieces := by
  have hdrain : ∀ v, Only s v (completeRegs h.fn.val) completePieces →
      Only s (qpDrain v h.fn.val h.qp) (completeRegs h.fn.val) completePieces := by
    intro v hv
    have hstop' : qpEnabled v h.fn.val h.qp = false := by
      rw [← hstop, qpEnabled, bitR, hv.getR_eq (QP_STATUS_not_mem_completeRegs h.fn.isLt _), qpEnabled, bitR]
    rwa [qpDrain_of_stopped hstop']
  have howed := fun v => (Only.refl s (completeRegs h.fn.val) completePieces).owed v (by simp [completePieces])
  have hposted : ∀ v sqHead, Only s (postCqe { s with owed := v } h sqHead kind status result extra) (completeRegs h.fn.val)
      completePieces := by
    intro v sqHead
    have hstop' : qpEnabled { s with owed := v } h.fn.val h.qp = false := hstop
    exact (howed v).trans ((postCqe_only_of_stopped _ h sqHead kind status result extra hstop').weaken (fun _ hk => hk) (by simp))
  unfold complete
  split
  · exact Only.refl s _ _
  · refine hdrain _ (Only.ite ?_ ?_)
    · exact (howed _).trans ((lateDiscard_only _ _).weaken (fun _ hk => hk) (by simp))
    · exact hposted _ _

/-! ### The end event of a context (R376) -/

/-- The context's end event is posted once, to the pair that loaded it. -/
theorem endEvent_eq (c code : Nat) (s : State) : endEvent c code s = s ∨ ∃ x, ctxGet s c = some x
    ∧ endEvent c code s = complete 2 0 (code * 0x1000000) 0 x.hdr { s with ctxs := tput s.ctxs c { x with ended := true } } := by
  unfold endEvent
  cases hx : ctxGet s c with
  | none => exact .inl rfl
  | some x =>
    dsimp only
    split_ifs
    · exact .inl rfl
    · exact .inr ⟨x, rfl, by simp only [ctxMod, hx]⟩

theorem endEvent_kept (c code : Nat) (s : State) {p : Piece} (hp : p ∉ Piece.ctxs :: completePieces) : p.kept s (endEvent c code s) := by
  rcases endEvent_eq c code s with h | ⟨x, -, h⟩
  · rw [h]
    exact (Only.refl s [] []).2.1 p (by simp)
  · rw [h]
    have hmark := (Only.refl s (Reg.QP_STATUS x.hdr.fn.val x.hdr.qp :: completeRegs x.hdr.fn.val) (Piece.ctxs :: completePieces)).ctxs
      (tput s.ctxs c { x with ended := true }) (by simp)
    exact (hmark.trans ((complete_only _ _ _ _ _ _).weaken (fun _ hk => hk) (by simp +contextual))).2.1 p hp

/-- Registers that are no function's counts keep their value, a status whose pair would be stopped too. -/
theorem getR_endEvent {c code k : Nat} {s : State} (hk : ∀ f < 32, k ∉ completeRegs f) (hstop : bitR s k 31 = false) :
    getR (endEvent c code s) k = getR s k := by
  rcases endEvent_eq c code s with h | ⟨x, -, h⟩
  · rw [h]
  · rw [h]
    by_cases hq : k = Reg.QP_STATUS x.hdr.fn.val x.hdr.qp
    · have hstop' : qpEnabled { s with ctxs := tput s.ctxs c { x with ended := true } } x.hdr.fn.val x.hdr.qp = false := by
        rw [qpEnabled, ← hq]
        exact hstop
      exact (complete_only_of_stopped 2 0 (code * 0x1000000) 0 hstop').getR_eq (hk _ x.hdr.fn.isLt)
    · exact (complete_only 2 0 (code * 0x1000000) 0 x.hdr _).getR_eq (by simp [hq, hk _ x.hdr.fn.isLt])

/-- What contexts hold on their tiles is as before. -/
theorem tcGet_endEvent (c code : Nat) (s : State) (d i : Nat) : tcGet (endEvent c code s) d i = tcGet s d i := by
  rcases endEvent_eq c code s with h | ⟨x, hx, h⟩
  · rw [h]
  · rw [h, (complete_only _ _ _ _ _ _).tcGet_eq (by simp [completePieces])]
    by_cases hd : d = c
    · subst hd
      have hx' : tget s.ctxs d = some x := hx
      simp [tcGet, ctxGet, hx']
    · simp [tcGet, ctxGet, tget_tput_ne _ _ hd]

end Sys2Proof.Machine
end

section
/-! SUPPORT. SLEEP, VOTE and END_STEP (R122, R130-R132), and tiles that doze and wake (R26, R27). -/

namespace Sys2Proof.Machine

/-! ### Figures that end in a hold (R141) -/

theorem tcGet_holdOn {i : Nat} {s : State} (kind : Nat) (h : (siteGet s i).hold = none) (c j : Nat) :
    tcGet (holdOn kind i s) c j = tcGet s c j :=
  (holdOn_only kind h).tcGet_eq (by simp) c j

/-- What a figure leaves whose effect took the issued state to `t`, and whose caller then holds. -/
theorem issued_hold {s t : State} {site : SiteId} {e : Env} {kind : Nat} {ks : List Nat} {tc : TileCtx} (hi : Issues s site e)
    (hkind : kind < 16) (ho : Only (advance e s) t ks [.ctxs, .sites]) (hcount : Reg.FIGURES_ISSUED e.site ∉ ks)
    (hnext : Reg.CTX_ID e.site e.t.slot ∉ ks) (htc : tcGet t e.c e.site = some tc) (hslot : tc.slot = e.t.slot)
    (hhold : (siteGet t e.site).hold = none) :
    let u := syncSite e.site (holdOn kind e.site t)
    Issued s u e ∧ Holds s u e kind ∧ tcGet u e.c e.site = some tc ∧ Only s u (ks ++ issueRegs e) [.ctxs, .sites] := by
  have hcycle : t.cycle = s.cycle := (ho.cycle_eq (by simp)).trans (advance_cycle e s)
  have hheld : Only (advance e s) (holdOn kind e.site t) (ks ++ statusRegs e.site) [.ctxs, .sites] :=
    (ho.weaken (fun _ => List.mem_append_left _) (fun _ h => h)).trans
      ((holdOn_only kind hhold).weaken (fun _ => List.mem_append_right _) (by simp))
  have hstatus := FIGURES_ISSUED_not_mem_statusRegs e.site
  have hstatus' := CTX_ID_not_mem_statusRegs e.site hi.slot_lt
  obtain ⟨hissued, htc', honly⟩ := issued_effect hi hheld (by simp) (by simp) (by simp [hcount, hstatus]) (by simp [hnext, hstatus'])
    (by rw [tcGet_holdOn kind hhold, htc]) hslot
  refine ⟨hissued, holds_syncSite_holdOn hkind hcycle hhold, htc', honly.weaken (fun k hk => ?_) (fun _ h => h)⟩
  rw [List.append_assoc] at hk
  refine List.mem_append.mpr ((List.mem_append.mp hk).imp_right fun hk => ?_)
  exact (List.mem_append.mp hk).elim (statusRegs_subset_issueRegs e k) id

@[simp] theorem siteGet_advance_hold (e : Env) (s : State) : (siteGet (advance e s) e.site).hold = none := by
  rw [siteGet_advance]

/-! ### SLEEP (R130) -/

/-- A SLEEP whose cycle has passed is late, one whose cycle is now is over, and any other waits. -/
def sleepAct (e : Env) (wake : Nat) (s : State) : State :=
  if wake < s.cycle then satR s (Reg.LATE_WAKES e.site) 1
  else if wake = s.cycle then s
  else holdOn 5 e.site (tcMod e.c e.site (fun t => { t with sleep := some wake }) s)

theorem planSleep_eq {s : State} {e : Env} {fromIssue : Bool} {n : Nat} (hfig : e.fig = .sleep fromIssue n) :
    planSleep e s = some ([], { act := sleepAct e ((if fromIssue then s.cycle else e.t.stepStart) + n) }) := by
  simp only [planSleep, hfig]
  rfl

/-- A tile whose figure issues neither sleeps nor votes. -/
theorem Issues.sleep_eq_none {s : State} {site : SiteId} {e : Env} (hi : Issues s site e) : e.t.sleep = none := by
  have h := hi.1
  simp only [nextIssue, Option.bind_eq_bind, Option.bind_eq_some_iff] at h
  obtain ⟨l, -, c, -, x, -, t, -, w, -, f, -, hcond⟩ := h
  split at hcond
  case isTrue hrun =>
    cases hcond
    simp only [Bool.and_eq_true, Option.isNone_iff_eq_none] at hrun
    simp [hrun]
  case isFalse => cases hcond

theorem LATE_WAKES_not_mem_issueRegs (e : Env) : Reg.LATE_WAKES e.site ∉ issueRegs e := by
  simp only [issueRegs, Reg.LATE_WAKES, Reg.FIGURES_ISSUED, Reg.HOLD_CYCLES, Reg.CTX_ID, Reg.CALLER_STATUS, Reg.ARR_STATUS,
    List.mem_cons, List.not_mem_nil, or_false]
  omega

theorem not_mem_statusRegs_of_issueRegs {e : Env} {k : Nat} (h : k ∉ issueRegs e) : k ∉ statusRegs e.site :=
  fun hk => h (statusRegs_subset_issueRegs e k hk)

section Sleep

variable {s : State} {site : SiteId} {e : Env} {wake : Nat} (hi : Issues s site e)
include hi

theorem sleep_waits (h : s.cycle < wake) :
    let u := syncSite e.site (sleepAct e wake (advance e s))
    Issued s u e ∧ Holds s u e 5 ∧ (∃ t, tcGet u e.c e.site = some t ∧ t.sleep = some wake)
      ∧ Only s u (issueRegs e) [.ctxs, .sites] := by
  have hact : sleepAct e wake (advance e s)
      = holdOn 5 e.site (tcMod e.c e.site (fun t => { t with sleep := some wake }) (advance e s)) := by
    rw [sleepAct, advance_cycle, if_neg (Nat.not_lt.mpr h.le), if_neg h.ne']
  rw [hact]
  obtain ⟨hissued, hholds, htc, honly⟩ := issued_hold (kind := 5) (ks := []) hi (by decide)
    ((Only.refl _ _ _).tcMod e.c e.site (fun t => { t with sleep := some wake }) (by simp)) (by simp) (by simp)
    (tcGet_tcMod_same _ (tcGet_advance hi.tcGet_eq)) rfl (by simp)
  exact ⟨hissued, hholds, ⟨_, htc, rfl⟩, honly⟩

theorem sleep_over (h : wake = s.cycle) :
    let u := syncSite e.site (sleepAct e wake (advance e s))
    Issued s u e ∧ (siteGet u e.site).hold = none ∧ (∃ t, tcGet u e.c e.site = some t ∧ t.sleep = none)
      ∧ Only s u (issueRegs e) [.ctxs, .sites] := by
  have hact : sleepAct e wake (advance e s) = advance e s := by
    rw [sleepAct, advance_cycle, if_neg (Nat.not_lt.mpr h.ge), if_pos h]
  rw [hact]
  obtain ⟨hissued, htc, honly⟩ := issued_effect (ks := []) hi (Only.refl _ _ [.ctxs, .sites]) (by simp) (by simp) (by simp) (by simp)
    (tcGet_advance hi.tcGet_eq) rfl
  exact ⟨hissued, by simp, ⟨_, htc, hi.sleep_eq_none⟩, honly⟩

theorem sleep_late (h : wake < s.cycle) :
    let u := syncSite e.site (sleepAct e wake (advance e s))
    Issued s u e ∧ getR u (Reg.LATE_WAKES e.site) = min (getR s (Reg.LATE_WAKES e.site) + 1) 0xFFFFFFFF
      ∧ Only s u (Reg.LATE_WAKES e.site :: issueRegs e) [.ctxs, .sites] := by
  have hact : sleepAct e wake (advance e s) = satR (advance e s) (Reg.LATE_WAKES e.site) 1 := by
    rw [sleepAct, advance_cycle, if_pos h]
  have hlate := LATE_WAKES_not_mem_issueRegs e
  rw [hact]
  obtain ⟨hissued, -, honly⟩ := issued_effect (t := satR (advance e s) (Reg.LATE_WAKES e.site) 1) (tc := issuedCtx e e.t)
    (ks := [Reg.LATE_WAKES e.site]) (ps := [.ctxs, .sites]) hi ((Only.refl _ _ _).setR _ (by simp)) (by simp) (by simp)
    (by simp only [List.mem_singleton]; exact fun heq => hlate (by simp [← heq, issueRegs]))
    (by simp only [List.mem_singleton]; exact fun heq => hlate (by simp [← heq, issueRegs]))
    (by rw [satR_eq, tcGet_setR]; exact tcGet_advance hi.tcGet_eq) rfl
  refine ⟨hissued, ?_, honly⟩
  rw [(syncSite_only _ _).getR_eq (not_mem_statusRegs_of_issueRegs hlate), getR_satR_same, (advance_only hi.tcGet_eq).getR_eq hlate]

end Sleep

/-! ### Tiles that doze and wake (R26, R27, R130) -/

@[simp] theorem tileState_setTileState (s : State) (i : Nat) {v : Nat} (h : v < 8) : tileState (setTileState s i v) i = v := by
  rw [tileState, setTileState, setF_eq, fld_setR_same _ _ _ (by decide), bitsOf_setBits_same _ _ _ _ (by decide)]
  exact Nat.mod_eq_of_lt h

theorem setTileState_only (s : State) (i v : Nat) : Only s (setTileState s i v) [Reg.TILE_POWER i] [] :=
  (Only.refl s _ _).setR _ (by simp)

theorem sleepOf_some {s : State} {i c w : Nat} (h : sleepOf s i = some (c, w)) : ∃ t, tcGet s c i = some t ∧ t.sleep = some w := by
  simp only [sleepOf, Option.bind_eq_bind, Option.bind_eq_some_iff] at h
  obtain ⟨c', -, t, ht, w', hw, heq⟩ := h
  cases heq
  exact ⟨t, ht, hw⟩

theorem tileDoze_eq {s : State} {i c w : Nat} (h : sleepOf s i = some (c, w)) (hw : s.cycle < w) (hrun : tileState s i = 0)
    (hup : (siteGet s i).upUntil ≤ s.cycle) (hidle : computing (siteGet s i) = false) : tileDoze i s = setTileState s i 1 := by
  simp [tileDoze, h, hw, hrun, hup, hidle]

/-- The tile leaves DOZE where it dozes. -/
def undoze (i : Nat) (s : State) : State := if tileState s i = 1 then setTileState s i 0 else s

theorem undoze_only (i : Nat) (s : State) : Only s (undoze i s) [Reg.TILE_POWER i] [] :=
  (setTileState_only s i 0).ite (Only.refl s _ _)

theorem tileState_undoze (i : Nat) (s : State) : tileState (undoze i s) i ≠ 1 := by
  unfold undoze
  split_ifs with h
  · rw [tileState_setTileState _ _ (by decide)]; decide
  · exact h

theorem timedWake_eq {s : State} {i c w : Nat} (h : sleepOf s i = some (c, w)) (hw : w ≤ s.cycle) (hhealthy : healthy s = true) :
    timedWake i s = syncSite i (holdOff i (undoze i (tcMod c i (fun t => { t with sleep := none }) s))) := by
  simp only [timedWake, h, hw, hhealthy, decide_true, Bool.and_self, if_true]
  rfl

theorem TILE_POWER_ne_HOLD_CYCLES (i : Nat) : Reg.TILE_POWER i ≠ Reg.HOLD_CYCLES i := by
  simp only [Reg.TILE_POWER, Reg.HOLD_CYCLES]
  omega

theorem TILE_POWER_not_mem_statusRegs (i : Nat) : Reg.TILE_POWER i ∉ statusRegs i := by
  simp only [statusRegs, Reg.TILE_POWER, Reg.CALLER_STATUS, Reg.ARR_STATUS, List.mem_cons, List.not_mem_nil, or_false]
  omega

/-- The end of a sleep at its wake time. -/
theorem timedWake_wakes {s : State} {i c w : Nat} (h : sleepOf s i = some (c, w)) (hw : w ≤ s.cycle) (hhealthy : healthy s = true) :
    (∃ t, tcGet (timedWake i s) c i = some t ∧ t.sleep = none) ∧ (siteGet (timedWake i s) i).hold = none
      ∧ tileState (timedWake i s) i ≠ 1
      ∧ Only s (timedWake i s) (Reg.TILE_POWER i :: Reg.HOLD_CYCLES i :: statusRegs i) [.ctxs, .sites] := by
  obtain ⟨t, ht, -⟩ := sleepOf_some h
  rw [timedWake_eq h hw hhealthy]
  set v := undoze i (tcMod c i (fun t => { t with sleep := none }) s) with hv
  have htc : tcGet v c i = some { t with sleep := none } := by
    rw [hv, (undoze_only i _).tcGet_eq (by simp)]
    exact tcGet_tcMod_same _ ht
  have honly : Only s v (Reg.TILE_POWER i :: Reg.HOLD_CYCLES i :: statusRegs i) [.ctxs, .sites] :=
    ((Only.refl s _ _).tcMod c i _ (by simp)).trans ((undoze_only i _).weaken (by simp) (by simp))
  refine ⟨⟨_, by rw [tcGet_syncSite, (holdOff_only i v).tcGet_eq (by simp), htc], rfl⟩, ?_, ?_, ?_⟩
  · rw [siteGet_syncSite, siteGet_holdOff]
  · have hstate : tileState (syncSite i (holdOff i v)) i = tileState v i := by
      rw [tileState, fld, (syncSite_only i _).getR_eq (TILE_POWER_not_mem_statusRegs i),
        getR_holdOff_ne v (TILE_POWER_ne_HOLD_CYCLES i), ← fld, ← tileState]
    rw [hstate]
    exact tileState_undoze i _
  · exact (honly.trans ((holdOff_only i v).weaken (by simp) (by simp))).syncSite i (by simp +contextual)

/-! ### VOTE (R131) -/

theorem voteBegins_only (c v : Nat) (s : State) : Only s (voteBegins c v s) [Reg.STEP_STATE c] [] := by
  have hset : Only s (setF s (Reg.STEP_STATE c) 15 0 v) [Reg.STEP_STATE c] [] := (Only.refl s _ _).setR _ (by simp)
  exact (hset.setR _ (by simp)).ite hset

section VoteBegins

variable (c v : Nat) (s : State)

/-- VOTE_ID leaves the phase of the step as it is. -/
theorem fld_setF_vote_phase : fld (setF s (Reg.STEP_STATE c) 15 0 v) (Reg.STEP_STATE c) 30 28 = fld s (Reg.STEP_STATE c) 30 28 := by
  rw [setF_eq, fld_setR_same _ _ _ (by decide), bitsOf_setBits_ne _ _ _ _ _ _ (by decide) (by decide), fld]

theorem fld_voteBegins_id : fld (voteBegins c v s) (Reg.STEP_STATE c) 15 0 = v % 2 ^ 16 := by
  have hset : fld (setF s (Reg.STEP_STATE c) 15 0 v) (Reg.STEP_STATE c) 15 0 = v % 2 ^ 16 := by
    rw [setF_eq, fld_setR_same _ _ _ (by decide), bitsOf_setBits_same _ _ _ _ (by decide)]
  unfold voteBegins
  dsimp only
  split_ifs
  · rw [setF_eq _ _ 30, fld_setR_same _ _ _ (by decide), bitsOf_setBits_ne _ _ _ _ _ _ (by decide) (by decide), ← fld, hset]
  · exact hset

theorem fld_voteBegins_phase : fld (voteBegins c v s) (Reg.STEP_STATE c) 30 28
    = if fld s (Reg.STEP_STATE c) 30 28 = 1 then 2 else fld s (Reg.STEP_STATE c) 30 28 := by
  unfold voteBegins
  dsimp only
  rw [fld_setF_vote_phase]
  split_ifs
  · rw [setF_eq _ _ 30, fld_setR_same _ _ _ (by decide), bitsOf_setBits_same _ _ _ _ (by decide)]
    rfl
  · exact fld_setF_vote_phase c v s

end VoteBegins

theorem STEP_STATE_not_mem_issueRegs {e : Env} {c : Nat} (h : c < 64) : Reg.STEP_STATE c ∉ issueRegs e := by
  simp only [issueRegs, Reg.STEP_STATE, Reg.FIGURES_ISSUED, Reg.HOLD_CYCLES, Reg.CTX_ID, Reg.CALLER_STATUS, Reg.ARR_STATUS, List.mem_cons,
    List.not_mem_nil, or_false]
  omega

theorem CTX_FLAGS_not_mem_issueRegs {e : Env} {slot : Nat} (h : slot < 4) : Reg.CTX_FLAGS e.site slot ∉ issueRegs e := by
  simp only [issueRegs, Reg.CTX_FLAGS, Reg.FIGURES_ISSUED, Reg.HOLD_CYCLES, Reg.CTX_ID, Reg.CALLER_STATUS, Reg.ARR_STATUS, List.mem_cons,
    List.not_mem_nil, or_false]
  omega

/-- The registers of an effect are others than an issue's. -/
theorem ne_of_not_mem_issueRegs {e : Env} {k j : Nat} (hk : k ∉ issueRegs e) (hj : j ∈ issueRegs e) : j ≠ k := by
  rintro rfl
  exact hk hj

/-- What a tile that votes keeps: the number, the token to post, and the flag that it contributes. -/
def castVote (v : Nat) (post : Option Nat) (flag : Bool) (t : TileCtx) : TileCtx := { t with vote := some (v, post, flag) }

theorem voteAct_advance {s : State} {site : SiteId} {e : Env} (hi : Issues s site e) (v : Nat) (post : Option Nat) :
    voteAct e v post (advance e s) = holdOn 6 e.site (tcMod e.c e.site
      (castVote v post (bitR s (Reg.CTX_FLAGS e.site e.t.slot) 0)) (voteBegins e.c v (advance e s))) := by
  have hflag : bitR (advance e s) (Reg.CTX_FLAGS e.site e.t.slot) 0 = bitR s (Reg.CTX_FLAGS e.site e.t.slot) 0 := by
    rw [bitR, (advance_only hi.tcGet_eq).getR_eq (CTX_FLAGS_not_mem_issueRegs hi.slot_lt), bitR]
  simp only [voteAct, slotOf_advance hi.tcGet_eq, hflag]
  rfl

/-- A VOTE waits with its flag, in the vote phase. -/
theorem vote_waits {s : State} {site : SiteId} {e : Env} (hi : Issues s site e) (v : Nat) (post : Option Nat) :
    let u := syncSite e.site (voteAct e v post (advance e s))
    Issued s u e ∧ Holds s u e 6
      ∧ (∃ t, tcGet u e.c e.site = some t ∧ t.vote = some (v, post, bitR s (Reg.CTX_FLAGS e.site e.t.slot) 0))
      ∧ fld u (Reg.STEP_STATE e.c) 15 0 = v % 2 ^ 16
      ∧ fld u (Reg.STEP_STATE e.c) 30 28 = (if fld s (Reg.STEP_STATE e.c) 30 28 = 1 then 2 else fld s (Reg.STEP_STATE e.c) 30 28)
      ∧ Only s u (Reg.STEP_STATE e.c :: issueRegs e) [.ctxs, .sites] := by
  set flag := bitR s (Reg.CTX_FLAGS e.site e.t.slot) 0
  have hstep : Reg.STEP_STATE e.c ∉ issueRegs e := STEP_STATE_not_mem_issueRegs hi.2.1
  have hbegins := voteBegins_only e.c v (advance e s)
  have htc : tcGet (voteBegins e.c v (advance e s)) e.c e.site = some (issuedCtx e e.t) := by
    rw [hbegins.tcGet_eq (by simp), tcGet_advance hi.tcGet_eq]
  have hhold : (siteGet (tcMod e.c e.site (castVote v post flag) (voteBegins e.c v (advance e s))) e.site).hold = none := by
    rw [siteGet_tcMod, hbegins.siteGet_eq (by simp), siteGet_advance_hold]
  obtain ⟨hissued, hholds, htc', honly⟩ := issued_hold (kind := 6) hi (by decide)
    ((hbegins.weaken (fun _ h => h) (by simp)).tcMod e.c e.site (castVote v post flag) (by simp))
    (by simpa using ne_of_not_mem_issueRegs hstep (by simp [issueRegs]))
    (by simpa using ne_of_not_mem_issueRegs hstep (by simp [issueRegs]))
    (tcGet_tcMod_same _ htc) rfl hhold
  dsimp only
  rw [voteAct_advance hi]
  have hread : getR (syncSite e.site (holdOn 6 e.site (tcMod e.c e.site (castVote v post flag) (voteBegins e.c v (advance e s)))))
      (Reg.STEP_STATE e.c) = getR (voteBegins e.c v (advance e s)) (Reg.STEP_STATE e.c) := by
    rw [(syncSite_only _ _).getR_eq (not_mem_statusRegs_of_issueRegs hstep),
      (holdOn_only 6 hhold).getR_eq (not_mem_statusRegs_of_issueRegs hstep), getR_tcMod]
  have hphase : fld (advance e s) (Reg.STEP_STATE e.c) 30 28 = fld s (Reg.STEP_STATE e.c) 30 28 := by
    rw [fld, (advance_only hi.tcGet_eq).getR_eq hstep, fld]
  refine ⟨hissued, hholds, ⟨_, htc', rfl⟩, ?_, ?_, honly⟩
  · rw [fld, hread, ← fld, fld_voteBegins_id]
  · rw [fld, hread, ← fld, fld_voteBegins_phase, hphase]

/-! ### The state of a context on a tile (R144) -/

section CtxState

variable (c i v tok : Nat) (s : State)

theorem setCtxState_only : Only s (setCtxState c i v tok s) [Reg.CTX_STATE i (slotOf s c i)] [] :=
  ((Only.refl s _ _).setR _ (by simp)).setR _ (by simp)

theorem fld_setCtxState_code : fld (setCtxState c i v tok s) (Reg.CTX_STATE i (slotOf s c i)) 31 28 = v % 16 := by
  rw [setCtxState, setF_eq _ _ 20, fld_setR_same _ _ _ (by decide), bitsOf_setBits_ne _ _ _ _ _ _ (by decide) (by decide), ← fld, setF_eq,
    fld_setR_same _ _ _ (by decide), bitsOf_setBits_same _ _ _ _ (by decide)]
  rfl

theorem fld_setCtxState_token : fld (setCtxState c i v tok s) (Reg.CTX_STATE i (slotOf s c i)) 20 16 = tok % 32 := by
  rw [setCtxState, setF_eq _ _ 20, fld_setR_same _ _ _ (by decide), bitsOf_setBits_same _ _ _ _ (by decide)]
  rfl

@[simp] theorem tcGet_setCtxState (d j : Nat) : tcGet (setCtxState c i v tok s) d j = tcGet s d j :=
  (setCtxState_only c i v tok s).tcGet_eq (by simp) d j
@[simp] theorem siteGet_setCtxState (j : Nat) : siteGet (setCtxState c i v tok s) j = siteGet s j :=
  (setCtxState_only c i v tok s).siteGet_eq (by simp) j

theorem freeTile_only : Only s (freeTile c i s) [] [.sites] := (Only.refl s _ _).siteMod _ _ (by simp)

@[simp] theorem tcGet_freeTile (d j : Nat) : tcGet (freeTile c i s) d j = tcGet s d j := rfl
@[simp] theorem getR_freeTile (k : Nat) : getR (freeTile c i s) k = getR s k := rfl
@[simp] theorem active_freeTile : (siteGet (freeTile c i s) i).active = none := by
  rw [freeTile, siteGet_siteMod_same]
@[simp] theorem hold_freeTile : (siteGet (freeTile c i s) i).hold = (siteGet s i).hold := by
  rw [freeTile, siteGet_siteMod_same]

end CtxState

theorem ctxStateAt_of_tcGet {s : State} {c i : Nat} {t : TileCtx} (h : tcGet s c i = some t) :
    ctxStateAt s c i = fld s (Reg.CTX_STATE i t.slot) 31 28 := by
  rw [ctxStateAt, slotOf_of_tcGet h]

theorem CTX_STATE_not_mem_statusRegs (i slot : Nat) : Reg.CTX_STATE i slot ∉ statusRegs i := by
  simp only [statusRegs, Reg.CTX_STATE, Reg.CALLER_STATUS, Reg.ARR_STATUS, List.mem_cons, List.not_mem_nil, or_false]
  omega

theorem CTX_STATE_not_mem_completeRegs (i : Nat) {slot : Nat} (_ : slot < 4) (f : Nat) : Reg.CTX_STATE i slot ∉ completeRegs f := by
  simp only [completeRegs, Reg.CTX_STATE, Reg.FN_CAUSE, Reg.LATE_DISCARDS, Reg.fnBlock, Reg.fnSpace, Reg.INST_LATE,
    List.mem_cons, List.not_mem_nil, or_false]
  split_ifs <;> omega

/-! ### END_STEP (R132) -/

/-- The saturation counts of the step's arrays start anew (R69). -/
def restCounts (i : Nat) (s : State) : State :=
  (List.range 4).foldl (fun s a => arrMod i a (fun x => { x with stepSat := 0, satRaised := false }) s) s

theorem restCounts_only (i : Nat) (s : State) : Only s (restCounts i s) [] [.sites] := by
  have hfold : ∀ (as : List Nat) (u : State), Only s u [] [.sites] →
      Only s (as.foldl (fun s a => arrMod i a (fun x => { x with stepSat := 0, satRaised := false }) s) u) [] [.sites] := by
    intro as
    induction as with
    | nil => exact fun u h => h
    | cons a as ih => exact fun u h => ih _ (h.arrMod i a _ (by simp))
  exact hfold _ s (Only.refl s _ _)

theorem arrGet_restCounts (i : Nat) (s : State) {a : Nat} (h : a < 4) : (arrGet (restCounts i s) i a).stepSat = 0 := by
  have ha : a = 0 ∨ a = 1 ∨ a = 2 ∨ a = 3 := by omega
  rcases ha with rfl | rfl | rfl | rfl <;> simp [restCounts, List.range_succ, arrGet_arrMod_ne]

/-- What a context holds on the tile once its step has ended: the next begins now, at figure `next`. -/
def endedStep (next now : Nat) (t : TileCtx) : TileCtx :=
  { t with stepStart := now, opIndex := 0, votesDone := 0, loops := [], steps := t.steps + 1, atEnd := true, bodyAt := next }

@[simp] theorem endedStep_slot (next now : Nat) (t : TileCtx) : (endedStep next now t).slot = t.slot := rfl

/-- The step ends in a slot: its flag is cleared, its counts start anew, and it is counted. -/
def endStep (e : Env) (slot next : Nat) (s : State) : State :=
  let u := restCounts e.site (setB s (Reg.CTX_FLAGS e.site slot) 0 false)
  let v := setR u (Reg.CTX_STEPS e.site slot) (getR u (Reg.CTX_STEPS e.site slot) + 1)
  tcMod e.c e.site (endedStep next v.cycle) v

/-- The effect of END_STEP. -/
def endStepAct (e : Env) (fin : Bool) (next : Nat) (s : State) : State :=
  let u := endStep e (slotOf s e.c e.site) next s
  if fin then
    let v := freeTile e.c e.site (setCtxState e.c e.site 4 0 u)
    if doneEverywhere v e.c then endEvent e.c 0 v else v
  else setNext e.c e.site next u

theorem planEndStep_eq {s : State} {e : Env} {fin : Bool} {next : Nat} (hfig : e.fig = .endStep fin next) :
    planEndStep e s = some ([], {
      own := (siteGet s e.site).flights.all (fun f => f.ctx != e.c), ownHold := 9, act := endStepAct e fin next }) := by
  simp only [planEndStep, hfig]
  rfl

theorem restCounts_tcGet (i : Nat) (s : State) (c j : Nat) : tcGet (restCounts i s) c j = tcGet s c j :=
  (restCounts_only i s).tcGet_eq (by simp) c j

/-- CTX_STEPS is a 32-bit counter at every site (R144). -/
theorem widthOf_CTX_STEPS (i : SiteId) {slot : Nat} (h : slot < 4) : widthOf (Reg.CTX_STEPS i slot) = 32 := by
  have hslot : slot = 0 ∨ slot = 1 ∨ slot = 2 ∨ slot = 3 := by omega
  have hkey : Reg.CTX_STEPS i slot = (0x1000148 + slot * 0x10) + i * 0x10000 := by simp only [Reg.CTX_STEPS]; omega
  rw [hkey]
  rcases hslot with rfl | rfl | rfl | rfl <;>
    exact widthOf_site 24 i.isLt (by decide) (by unfold SiteRow; decide) (by decide)

section EndStep

variable {s : State} {e : Env} {slot next : Nat} {t : TileCtx} (ht : tcGet s e.c e.site = some t)

theorem endStep_only : Only s (endStep e slot next s) [Reg.CTX_STEPS e.site slot, Reg.CTX_FLAGS e.site slot] [.ctxs, .sites] :=
  ((((Only.refl s _ _).setR _ (by simp)).trans ((restCounts_only e.site _).weaken (by simp) (by simp))).setR _ (by simp)).tcMod _ _ _
    (by simp)

include ht in
theorem tcGet_endStep : tcGet (endStep e slot next s) e.c e.site = some (endedStep next s.cycle t) := by
  have hcycle : (restCounts e.site (setB s (Reg.CTX_FLAGS e.site slot) 0 false)).cycle = s.cycle := by
    rw [(restCounts_only e.site _).cycle_eq (by simp), setB_eq, setR_cycle]
  rw [endStep, tcGet_tcMod_same (t := t) _ (by rw [tcGet_setR, restCounts_tcGet, setB_eq, tcGet_setR, ht]), setR_cycle, hcycle]

theorem arrGet_endStep {a : Nat} (ha : a < 4) : (arrGet (endStep e slot next s) e.site a).stepSat = 0 := by
  rw [endStep, arrGet_of_siteGet (s := restCounts e.site (setB s (Reg.CTX_FLAGS e.site slot) 0 false))
    (by rw [siteGet_tcMod, siteGet_setR]), arrGet_restCounts _ _ ha]

theorem CTX_STEPS_ne_CTX_FLAGS (i j slot : Nat) : Reg.CTX_STEPS i slot ≠ Reg.CTX_FLAGS j slot := by
  simp only [Reg.CTX_STEPS, Reg.CTX_FLAGS]
  omega

theorem getR_endStep_steps : getR (endStep e slot next s) (Reg.CTX_STEPS e.site slot)
    = (getR s (Reg.CTX_STEPS e.site slot) + 1) % 2 ^ widthOf (Reg.CTX_STEPS e.site slot) := by
  rw [endStep, getR_tcMod, getR_setR_same, (restCounts_only e.site _).getR_eq (by simp), setB_eq,
    getR_setR_ne _ _ (CTX_STEPS_ne_CTX_FLAGS _ _ _)]

theorem bitR_endStep_flag : bitR (endStep e slot next s) (Reg.CTX_FLAGS e.site slot) 0 = false := by
  rw [bitR, endStep, getR_tcMod, getR_setR_ne _ _ (CTX_STEPS_ne_CTX_FLAGS _ _ _).symm, (restCounts_only e.site _).getR_eq (by simp),
    ← bitR, setB_eq, bitR_setR_same _ _ _ (by decide), testBit_setBits _ _ _ _ _ (le_refl 0)]
  simp

end EndStep

/-- The end event of a context that is DONE on every tile (R132). -/
def doneEvent (c : Nat) (s : State) : State := if doneEverywhere s c then endEvent c 0 s else s

theorem doneEvent_kept (c : Nat) (s : State) {p : Piece} (hp : p ∉ Piece.ctxs :: completePieces) : p.kept s (doneEvent c s) := by
  unfold doneEvent
  split_ifs
  · exact endEvent_kept c 0 s hp
  · exact (Only.refl s [] []).2.1 p (by simp)

theorem siteGet_doneEvent (c : Nat) (s : State) (i : Nat) : siteGet (doneEvent c s) i = siteGet s i := by
  have hsites : (doneEvent c s).sites = s.sites := doneEvent_kept c s (p := .sites) (by simp [completePieces])
  rw [siteGet, siteGet, hsites]

theorem getR_doneEvent {c k : Nat} {s : State} (hk : ∀ f, k ∉ completeRegs f) (hstop : bitR s k 31 = false) :
    getR (doneEvent c s) k = getR s k := by
  unfold doneEvent
  split_ifs
  · exact getR_endEvent (fun f _ => hk f) hstop
  · rfl

theorem tcGet_doneEvent (c : Nat) (s : State) (d i : Nat) : tcGet (doneEvent c s) d i = tcGet s d i := by
  unfold doneEvent
  split_ifs
  · exact tcGet_endEvent c 0 s d i
  · rfl

/-- The highest bit of a state code of DONE or below. -/
theorem bitR_of_code {s : State} {k : Nat} (h : fld s k 31 28 = 4) : bitR s k 31 = false := by
  have hbit := testBit_bitsOf (getR s k) 31 28 3
  rw [← fld, h] at hbit
  exact hbit.symm

theorem sameMemory_of_kept {s u : State} (h : ∀ p ∈ [Piece.near, Piece.tileStore, Piece.ptab], p.kept s u) :
    SameMemory { s with host := u.host } u :=
  ⟨h .near (by simp), h .tileStore (by simp), fun _ => rfl, h .ptab (by simp)⟩

section EndStepIssued

variable {s : State} {site : SiteId} {e : Env} (hi : Issues s site e)
include hi

theorem tcGet_endStep_issued (next : Nat) : tcGet (endStep e e.t.slot next (advance e s)) e.c e.site
    = some (endedStep next s.cycle (issuedCtx e e.t)) := by
  rw [tcGet_endStep (tcGet_advance hi.tcGet_eq), advance_cycle]

theorem endStep_issued_only (next : Nat) : Only s (endStep e e.t.slot next (advance e s))
    (Reg.CTX_STEPS e.site e.t.slot :: Reg.CTX_FLAGS e.site e.t.slot :: issueRegs e) [.ctxs, .sites] :=
  ((advance_only hi.tcGet_eq).weaken (by simp +contextual) (fun _ h => h)).trans (endStep_only.weaken (by simp) (fun _ h => h))

theorem CTX_STEPS_not_mem_issueRegs : Reg.CTX_STEPS e.site e.t.slot ∉ issueRegs e := by
  have hslot := hi.slot_lt
  simp only [issueRegs, Reg.CTX_STEPS, Reg.FIGURES_ISSUED, Reg.HOLD_CYCLES, Reg.CTX_ID, Reg.CALLER_STATUS, Reg.ARR_STATUS, List.mem_cons,
    List.not_mem_nil, or_false]
  omega

/-- A step that is not the last: the tile goes on at NEXT. -/
theorem endStep_goes_on (next : Nat) :
    let u := syncSite e.site (endStepAct e false next (advance e s))
    nextFig u e.c e.site = next % 2 ^ 14
      ∧ getR u (Reg.CTX_STEPS e.site e.t.slot) = (getR s (Reg.CTX_STEPS e.site e.t.slot) + 1) % 2 ^ 32
      ∧ bitR u (Reg.CTX_FLAGS e.site e.t.slot) 0 = false ∧ (∀ a, a < 4 → (arrGet u e.site a).stepSat = 0)
      ∧ tcGet u e.c e.site = some (endedStep next s.cycle (issuedCtx e e.t))
      ∧ Only s u (Reg.CTX_STEPS e.site e.t.slot :: Reg.CTX_FLAGS e.site e.t.slot :: issueRegs e) [.ctxs, .sites] := by
  have htc := tcGet_endStep_issued hi next
  have honly := endStep_issued_only hi next
  have hsteps := CTX_STEPS_not_mem_issueRegs hi
  have hflags : Reg.CTX_FLAGS e.site e.t.slot ∉ issueRegs e := CTX_FLAGS_not_mem_issueRegs hi.slot_lt
  have hid : Reg.CTX_ID e.site e.t.slot ∈ issueRegs e := by simp [issueRegs]
  set v := endStep e e.t.slot next (advance e s) with hv
  have hact : endStepAct e false next (advance e s)
      = setR v (Reg.CTX_ID e.site e.t.slot) (setBits (getR v (Reg.CTX_ID e.site e.t.slot)) 13 0 next) := by
    simp only [endStepAct, slotOf_advance hi.tcGet_eq, ← hv, Bool.false_eq_true, if_false, setNext, slotOf_of_tcGet htc, setF_eq]
    rfl
  have hread : ∀ k ∉ issueRegs e, getR (syncSite e.site (endStepAct e false next (advance e s))) k = getR v k := by
    intro k hk
    rw [(syncSite_only _ _).getR_eq (not_mem_statusRegs_of_issueRegs hk), hact, getR_setR_ne _ _ (ne_of_not_mem_issueRegs hk hid).symm]
  have hwidth : widthOf (Reg.CTX_STEPS e.site e.t.slot) = 32 := by rw [hi.site_eq]; exact widthOf_CTX_STEPS site hi.slot_lt
  have htc' : tcGet (syncSite e.site (endStepAct e false next (advance e s))) e.c e.site
      = some (endedStep next s.cycle (issuedCtx e e.t)) := by rw [tcGet_syncSite, hact, tcGet_setR, htc]
  refine ⟨?_, ?_, ?_, fun a ha => ?_, htc', ?_⟩
  · rw [nextFig, slotOf_of_tcGet htc', endedStep_slot, issuedCtx_slot, fld,
      (syncSite_only _ _).getR_eq (CTX_ID_not_mem_statusRegs _ hi.slot_lt), hact, ← fld, fld_setR_same _ _ _ (by decide),
      bitsOf_setBits_same _ _ _ _ (by decide)]
  · rw [hread _ hsteps, hv, getR_endStep_steps, hwidth, (advance_only hi.tcGet_eq).getR_eq hsteps]
  · rw [bitR, hread _ hflags, ← bitR, hv, bitR_endStep_flag]
  · rw [arrGet_syncSite, hact, arrGet_setR, hv, arrGet_endStep ha]
  · rw [hact]
    exact (honly.setR _ (by simp [hid])).syncSite _ (fun k hk => by simp [statusRegs_subset_issueRegs e k hk])

/-- The last step: the context is DONE on the tile, which is free. -/
theorem endStep_done (next : Nat) :
    let u := syncSite e.site (endStepAct e true next (advance e s))
    ctxStateAt u e.c e.site = 4 ∧ (siteGet u e.site).active = none ∧ SameMemory { s with host := u.host } u := by
  have htc := tcGet_endStep_issued hi next
  have honly := endStep_issued_only hi next
  set v := endStep e e.t.slot next (advance e s) with hv
  have hslot : slotOf v e.c e.site = e.t.slot := by rw [slotOf_of_tcGet htc, endedStep_slot, issuedCtx_slot]
  set w := freeTile e.c e.site (setCtxState e.c e.site 4 0 v) with hw
  have hcode : fld w (Reg.CTX_STATE e.site e.t.slot) 31 28 = 4 := by
    have hset := fld_setCtxState_code e.c e.site 4 0 v
    rw [hslot] at hset
    rw [hw, fld, getR_freeTile, ← fld, hset]
  have hwonly : ∀ p, p ∉ [Piece.ctxs, Piece.sites] → p.kept s w := fun p hp =>
    Only.kept_trans p (Only.kept_trans p (honly.2.1 p hp) ((setCtxState_only e.c e.site 4 0 v).2.1 p (by simp)))
      ((freeTile_only e.c e.site _).2.1 p (fun h => hp (by simp [List.mem_singleton.mp h])))
  have hact : endStepAct e true next (advance e s) = doneEvent e.c w := by
    simp only [endStepAct, slotOf_advance hi.tcGet_eq, ← hv, ← hw, if_true, doneEvent]
  have htcu : tcGet (syncSite e.site (doneEvent e.c w)) e.c e.site = some (endedStep next s.cycle (issuedCtx e e.t)) := by
    rw [tcGet_syncSite, tcGet_doneEvent, hw, tcGet_freeTile, tcGet_setCtxState, htc]
  dsimp only
  rw [hact]
  refine ⟨?_, ?_, sameMemory_of_kept fun p hp => ?_⟩
  · rw [ctxStateAt_of_tcGet htcu, endedStep_slot, issuedCtx_slot, fld,
      (syncSite_only _ _).getR_eq (CTX_STATE_not_mem_statusRegs _ _),
      getR_doneEvent (CTX_STATE_not_mem_completeRegs _ hi.slot_lt) (bitR_of_code hcode), ← fld, hcode]
  · rw [siteGet_syncSite, siteGet_doneEvent, hw, active_freeTile]
  · refine Only.kept_trans p (Only.kept_trans p (hwonly p ?_) (doneEvent_kept e.c w ?_)) ((syncSite_only _ _).2.1 p (by simp))
    · exact fun h => by simp at h hp; rcases h with rfl | rfl <;> simp at hp
    · exact fun h => by simp [completePieces] at h; rcases h with rfl | rfl | rfl | rfl | rfl | rfl <;> simp at hp

end EndStepIssued

/-- Settles O21: a SLEEP waits, is over or is late by its cycle; a VOTE waits with its flag; an END_STEP waits for the context's flights
and then goes on or is DONE; a sleeping tile dozes, and its timed wake ends the sleep. -/
theorem stepFiguresAndSleepingTiles : Obligations.StepFiguresAndSleepingTiles := by
  unfold Obligations.StepFiguresAndSleepingTiles
  refine ⟨⟨fun s site e fromIssue n hi hfig => ?sleep, fun s site c w h => ⟨?doze, ?wake⟩⟩,
    fun s site e hi => ⟨?vote, ?held, ?goesOn, ?done⟩⟩
  case sleep =>
    have hgoes : ∀ {P : State → Prop}, P (syncSite e.site (sleepAct e ((if fromIssue then s.cycle else e.t.stepStart) + n) (advance e s)))
        → Goes (.sleep site) s P := fun hP => Goes.of_issue rfl hi (planSleep_eq hfig) rfl rfl rfl (mayFly_nil s e) hP
    exact ⟨fun h => hgoes (sleep_waits hi h), fun h => hgoes (sleep_over hi h), fun h => hgoes (sleep_late hi h)⟩
  case doze =>
    intro hw hrun hup hidle
    refine Goes.of (u := setTileState s site 1) (congrArg (commit s) (tileDoze_eq h hw hrun hup hidle)) ?_
    exact ⟨tileState_setTileState s site (by decide), setTileState_only s site 1⟩
  case wake =>
    intro hw hhealthy
    exact Goes.of (u := timedWake site s) rfl (timedWake_wakes h hw hhealthy)
  case vote =>
    intro pf k v hfig
    have hplan : planVote e s = some ([], { act := voteAct e v (if pf then some k else none) }) := by simp only [planVote, hfig]
    exact Goes.of_issue rfl hi hplan rfl rfl rfl (mayFly_nil s e) (vote_waits hi v _)
  case held =>
    intro fin next hfig hflying hhold
    obtain ⟨f, hf, hctx⟩ := hflying
    have hown : (siteGet s e.site).flights.all (fun f => f.ctx != e.c) = false := by
      rw [List.all_eq_false]
      exact ⟨f, hf, by simp [hctx]⟩
    refine Goes.of_hold rfl hi (planEndStep_eq hfig) rfl rfl rfl hown ?_
    exact ⟨holds_holdOn (show 9 < 16 by decide) rfl hhold, holdOn_only 9 hhold⟩
  case goesOn =>
    intro next hfig hquiet
    have hown : (siteGet s e.site).flights.all (fun f => f.ctx != e.c) = true := by simpa using hquiet
    obtain ⟨hnext, hsteps, hflag, hsat, htc, honly⟩ := endStep_goes_on hi next
    refine Goes.of_issue rfl hi (planEndStep_eq hfig) rfl hown rfl (mayFly_nil s e) ?_
    exact ⟨hnext, hsteps, hflag, hsat, ⟨_, htc, rfl, rfl, rfl, rfl, rfl⟩, honly⟩
  case done =>
    intro next hfig hquiet
    have hown : (siteGet s e.site).flights.all (fun f => f.ctx != e.c) = true := by simpa using hquiet
    exact Goes.of_issue rfl hi (planEndStep_eq hfig) rfl hown rfl (mayFly_nil s e) (endStep_done hi next)

end Sys2Proof.Machine
end

section
/-! SUPPORT. YIELD, and how a waiting tile is taken (R134-R136, R143). -/

namespace Sys2Proof.Machine

/-! ### YIELD (R134) -/

/-- The token on which a park waits. -/
def parkToken : Park → Nat
  | .token k _ => k
  | .time _ => 0

/-- The context is parked. -/
def parked (p : Park) (t : TileCtx) : TileCtx := { t with park := some p }

theorem parkCtx_eq (e : Env) (p : Park) (s : State) : parkCtx e p s = holdOn 7 e.site (freeTile e.c e.site
    (tcMod e.c e.site (parked p) (setCtxState e.c e.site 3 (parkToken p) s))) := by
  cases p <;> rfl

/-- A YIELD parks its context, frees the tile and holds the caller. -/
theorem yield_parks {s : State} {site : SiteId} {e : Env} (hi : Issues s site e) (p : Park) :
    let u := syncSite e.site (parkCtx e p (advance e s))
    Issued s u e ∧ Holds s u e 7 ∧ (siteGet u e.site).active = none ∧ ctxStateAt u e.c e.site = 3
      ∧ fld u (Reg.CTX_STATE e.site e.t.slot) 20 16 = parkToken p % 32 ∧ tcGet u e.c e.site = some (parked p (issuedCtx e e.t))
      ∧ Only s u (Reg.CTX_STATE e.site e.t.slot :: issueRegs e) [.ctxs, .sites] := by
  have hslot := slotOf_advance hi.tcGet_eq
  have hset := setCtxState_only e.c e.site 3 (parkToken p) (advance e s)
  have hcode := fld_setCtxState_code e.c e.site 3 (parkToken p) (advance e s)
  have htoken := fld_setCtxState_token e.c e.site 3 (parkToken p) (advance e s)
  rw [hslot] at hset hcode htoken
  set v := tcMod e.c e.site (parked p) (setCtxState e.c e.site 3 (parkToken p) (advance e s)) with hv
  have hfree : Only (advance e s) (freeTile e.c e.site v) [Reg.CTX_STATE e.site e.t.slot] [.ctxs, .sites] :=
    ((hset.weaken (fun _ h => h) (by simp)).tcMod _ _ _ (by simp)).trans ((freeTile_only _ _ _).weaken (by simp) (by simp))
  have htc : tcGet (freeTile e.c e.site v) e.c e.site = some (parked p (issuedCtx e e.t)) := by
    rw [tcGet_freeTile, hv]
    exact tcGet_tcMod_same _ (by rw [tcGet_setCtxState, tcGet_advance hi.tcGet_eq])
  have hhold : (siteGet (freeTile e.c e.site v) e.site).hold = none := by
    rw [hold_freeTile, hv, siteGet_tcMod, siteGet_setCtxState, siteGet_advance_hold]
  have hne : Reg.CTX_STATE e.site e.t.slot ∉ issueRegs e := by
    have hlt := hi.slot_lt
    simp only [issueRegs, Reg.CTX_STATE, Reg.FIGURES_ISSUED, Reg.HOLD_CYCLES, Reg.CTX_ID, Reg.CALLER_STATUS, Reg.ARR_STATUS,
      List.mem_cons, List.not_mem_nil, or_false]
    omega
  obtain ⟨hissued, hholds, htcu, honly⟩ := issued_hold (kind := 7) hi (by decide) hfree
    (by simpa using ne_of_not_mem_issueRegs hne (by simp [issueRegs])) (by simpa using ne_of_not_mem_issueRegs hne (by simp [issueRegs]))
    htc rfl hhold
  have hread : getR (syncSite e.site (holdOn 7 e.site (freeTile e.c e.site v))) (Reg.CTX_STATE e.site e.t.slot)
      = getR (setCtxState e.c e.site 3 (parkToken p) (advance e s)) (Reg.CTX_STATE e.site e.t.slot) := by
    rw [(syncSite_only _ _).getR_eq (CTX_STATE_not_mem_statusRegs _ _), (holdOn_only 7 hhold).getR_eq (CTX_STATE_not_mem_statusRegs _ _),
      getR_freeTile, hv, getR_tcMod]
  dsimp only
  rw [parkCtx_eq]
  refine ⟨hissued, hholds, ?_, ?_, ?_, htcu, honly⟩
  · rw [siteGet_syncSite, holdOn_of_none 7 hhold, siteGet_syncSite, siteGet_siteMod_same, beginHold, active_freeTile]
  · rw [ctxStateAt_of_tcGet htcu, fld, parked, issuedCtx_slot, hread, ← fld, hcode]
  · rw [fld, hread, ← fld, htoken]

/-! ### Taking a tile (R134) -/

/-- A context that resumes has no park, and takes the tokens on which it was parked. -/
def resumed (t : TileCtx) : TileCtx :=
  match t.park with
  | some (.token k n) => { tokSet t k (tokGet t k - n) with park := none }
  | _ => { t with park := none }

@[simp] theorem resumed_slot (t : TileCtx) : (resumed t).slot = t.slot := by
  unfold resumed
  split <;> rfl

@[simp] theorem resumed_park (t : TileCtx) : (resumed t).park = none := by
  unfold resumed
  split <;> rfl

theorem tokGet_resumed {t : TileCtx} {k n : Nat} (h : t.park = some (.token k n)) : tokGet (resumed t) k = tokGet t k - n := by
  have htok := tokGet_tokSet t k (tokGet t k - n) k
  rw [if_pos rfl] at htok
  simp only [resumed, h]
  exact htok

theorem runCtx_eq (c i : Nat) (s : State) : runCtx c i s = siteMod i (fun st => { st with active := some c })
    (setTileState (setCtxState c i 2 0 (tcMod c i resumed s)) i 0) := rfl

section RunCtx

variable {c i : Nat} {s : State} {t : TileCtx} (ht : tcGet s c i = some t)
include ht

theorem slotOf_resumed : slotOf (tcMod c i resumed s) c i = t.slot := by
  rw [slotOf_of_tcGet (tcGet_tcMod_same resumed ht), resumed_slot]

theorem runCtx_only : Only s (runCtx c i s) [Reg.CTX_STATE i t.slot, Reg.TILE_POWER i] [.ctxs, .sites] := by
  have hset := setCtxState_only c i 2 0 (tcMod c i resumed s)
  rw [slotOf_resumed ht] at hset
  have hresumed : Only s (tcMod c i resumed s) [Reg.CTX_STATE i t.slot, Reg.TILE_POWER i] [.ctxs, .sites] :=
    (Only.refl s _ _).tcMod c i resumed (by simp)
  have hcoded := hresumed.trans (hset.weaken (by simp) (by simp))
  have hawake := hcoded.trans ((setTileState_only _ i 0).weaken (by simp) (by simp))
  rw [runCtx_eq]
  exact hawake.siteMod i _ (by simp)

theorem tcGet_runCtx : tcGet (runCtx c i s) c i = some (resumed t) := by
  rw [runCtx_eq, tcGet_siteMod, (setTileState_only _ i 0).tcGet_eq (by simp), tcGet_setCtxState, tcGet_tcMod_same resumed ht]

omit ht in
theorem siteGet_runCtx : siteGet (runCtx c i s) i = { siteGet s i with active := some c } := by
  rw [runCtx_eq, siteGet_siteMod_same, (setTileState_only _ i 0).siteGet_eq (by simp), siteGet_setCtxState, siteGet_tcMod]

theorem fld_runCtx : fld (runCtx c i s) (Reg.CTX_STATE i t.slot) 31 28 = 2 := by
  have hcode := fld_setCtxState_code c i 2 0 (tcMod c i resumed s)
  have hne : Reg.CTX_STATE i t.slot ∉ [Reg.TILE_POWER i] := by
    simp only [Reg.CTX_STATE, Reg.TILE_POWER, List.mem_singleton]
    omega
  rw [slotOf_resumed ht] at hcode
  rw [fld, runCtx_eq, getR_siteMod, (setTileState_only _ i 0).getR_eq hne, ← fld, hcode]

end RunCtx

/-! ### The blocks restored by a switch (R136) -/

/-- What the repeated loads of a switch write. -/
def restoreRegs (i : Nat) (es : List (Nat × LoadRec)) : List Nat := es.flatMap fun e => [Reg.ARR_LOADS i e.1, Reg.ARR_BUSY i e.1]

theorem restoreBlock_only (i c l : Nat) (s : State) (e : Nat × LoadRec) :
    Only s (restoreBlock i c l s e) [Reg.ARR_LOADS i e.1, Reg.ARR_BUSY i e.1] [.sites, .errs] :=
  ((latchBlock_only i e.1 _ s).weaken (by simp) (fun _ h => h)).setR _ (by simp)

theorem restoreBlocks_only (i c l : Nat) (es : List (Nat × LoadRec)) (s : State) :
    Only s (es.foldl (restoreBlock i c l) s) (restoreRegs i es) [.sites, .errs] := by
  induction es generalizing s with
  | nil => exact Only.refl s _ _
  | cons e es ih =>
    exact ((restoreBlock_only i c l s e).weaken (by simp [restoreRegs]) (fun _ h => h)).trans
      ((ih _).weaken (fun k hk => List.mem_append_right _ hk) (fun _ h => h))

theorem SWITCHES_not_mem_restoreRegs (i : Nat) (es : List (Nat × LoadRec)) : Reg.SWITCHES i ∉ restoreRegs i es := by
  simp only [restoreRegs, List.mem_flatMap, List.mem_cons, List.not_mem_nil, or_false, not_exists, not_and, Reg.SWITCHES, Reg.ARR_LOADS,
    Reg.ARR_BUSY]
  omega

/-- A switch is counted with its cycles (R140). -/
def countSwitch (i cost : Nat) (s : State) : State := satR (addR s (Reg.SWITCH_CYCLES i) cost) (Reg.SWITCHES i) 1

theorem countSwitch_only (i cost : Nat) (s : State) :
    Only s (countSwitch i cost s) [Reg.SWITCH_CYCLES i, Reg.SWITCHES i] [] :=
  ((Only.refl s _ _).setR _ (by simp)).setR _ (by simp)

theorem getR_countSwitch (i cost : Nat) (s : State) :
    getR (countSwitch i cost s) (Reg.SWITCHES i) = min (getR s (Reg.SWITCHES i) + 1) 0xFFFFFFFF := by
  rw [countSwitch, getR_satR_same, addR_eq, getR_setR_ne _ _ (by simp [Reg.SWITCHES, Reg.SWITCH_CYCLES])]

/-- The tile is busy with a switch until `w`. -/
def busyTill (w : Nat) (st : Site) : Site := { st with busyUntil := w }

/-- Another context takes the tile after `cost` cycles, with its blocks restored. -/
def switchTo (c i l cost : Nat) (es : List (Nat × LoadRec)) (s : State) : State :=
  let v := countSwitch i cost (es.foldl (restoreBlock i c l) s)
  holdOn 8 i (holdOff i (siteMod i (busyTill (v.cycle + cost)) (runCtx c i v)))

section Resume

variable {s : State} {c i l : Nat} {x : Ctx} {t : TileCtx} (hl : tileOfSite s i = some l)
  (hfree : (siteGet s i).active = none) (hfirst : (yieldOrder s i).find? (qualifies s i) = some c) (hx : ctxGet s c = some x)
  (hhealthy : healthy s = true) (hpower : tilePowered s x.pitch l = true)
include hl hfree hfirst hx hhealthy hpower

theorem contextResume_same (hc : c = (siteGet s i).lastYield) (hcode : ctxStateAt s c i = 3) :
    contextResume i s = syncSite i (holdOff i (runCtx c i s)) := by
  simp [contextResume, hl, hfree, hfirst, hx, hhealthy, hpower, hcode, ← hc]

theorem contextResume_other (hc : c ≠ (siteGet s i).lastYield) :
    contextResume i s = switchTo c i l (20 * tileRate s + 8 * (siteGet s i).yieldF + 32 * (restores s i c).length + 64)
      (restores s i c) s := by
  simp only [contextResume, hl, hfree, hfirst, hx, hhealthy, hpower, Option.map_some, Option.getD_some, Bool.not_true, Bool.or_self,
    Bool.false_eq_true, if_false, hc, decide_false, Bool.false_and]
  rfl

end Resume

theorem CTX_STATE_ne_HOLD_CYCLES (i slot : Nat) : Reg.CTX_STATE i slot ≠ Reg.HOLD_CYCLES i := by
  simp only [Reg.CTX_STATE, Reg.HOLD_CYCLES]
  omega

section Taken

variable {c i : Nat} {s : State} {t : TileCtx} (ht : tcGet s c i = some t)
include ht

/-- A context that takes the tile again without a switch. -/
theorem runCtx_taken :
    let u := syncSite i (holdOff i (runCtx c i s))
    (siteGet u i).active = some c ∧ ctxStateAt u c i = 2 ∧ (siteGet u i).hold = none
      ∧ (siteGet u i).busyUntil = (siteGet s i).busyUntil ∧ tcGet u c i = some (resumed t) := by
  have htc : tcGet (syncSite i (holdOff i (runCtx c i s))) c i = some (resumed t) := by
    rw [tcGet_syncSite, (holdOff_only i _).tcGet_eq (by simp), tcGet_runCtx ht]
  refine ⟨?_, ?_, ?_, ?_, htc⟩
  · rw [siteGet_syncSite, siteGet_holdOff, siteGet_runCtx]
  · rw [ctxStateAt_of_tcGet htc, resumed_slot, fld, (syncSite_only _ _).getR_eq (CTX_STATE_not_mem_statusRegs _ _),
      getR_holdOff_ne _ (CTX_STATE_ne_HOLD_CYCLES _ _), ← fld, fld_runCtx ht]
  · rw [siteGet_syncSite, siteGet_holdOff]
  · rw [siteGet_syncSite, siteGet_holdOff, siteGet_runCtx]

omit ht in
theorem SWITCHES_not_mem_statusRegs : Reg.SWITCHES i ∉ statusRegs i := by
  simp only [statusRegs, Reg.SWITCHES, Reg.CALLER_STATUS, Reg.ARR_STATUS, List.mem_cons, List.not_mem_nil, or_false]
  omega

omit ht in
theorem SWITCHES_not_mem_taken (slot : Nat) : Reg.SWITCHES i ∉ [Reg.CTX_STATE i slot, Reg.TILE_POWER i] := by
  simp only [Reg.SWITCHES, Reg.CTX_STATE, Reg.TILE_POWER, List.mem_cons, List.not_mem_nil, or_false]
  omega

/-- A context that takes the tile after a switch. -/
theorem switchTo_taken (l cost : Nat) (es : List (Nat × LoadRec)) :
    let u := switchTo c i l cost es s
    (siteGet u i).active = some c ∧ ctxStateAt u c i = 2 ∧ (siteGet u i).busyUntil = s.cycle + cost
      ∧ getR u (Reg.SWITCHES i) = min (getR s (Reg.SWITCHES i) + 1) 0xFFFFFFFF := by
  have hrestored := restoreBlocks_only i c l es s
  have hcounted := countSwitch_only i cost (es.foldl (restoreBlock i c l) s)
  set v := countSwitch i cost (es.foldl (restoreBlock i c l) s) with hv
  have htv : tcGet v c i = some t := by rw [hcounted.tcGet_eq (by simp), hrestored.tcGet_eq (by simp), ht]
  have hcycle : v.cycle = s.cycle := (hcounted.cycle_eq (by simp)).trans (hrestored.cycle_eq (by simp))
  set w := holdOff i (siteMod i (busyTill (v.cycle + cost)) (runCtx c i v)) with hw
  have htw : tcGet w c i = some (resumed t) := by
    rw [hw, (holdOff_only i _).tcGet_eq (by simp), tcGet_siteMod, tcGet_runCtx htv]
  have hsite : siteGet w i = { busyTill (v.cycle + cost) (siteGet (runCtx c i v) i) with hold := none } := by
    rw [hw, siteGet_holdOff, siteGet_siteMod_same]
  have hnone : (siteGet w i).hold = none := by rw [hsite]
  have hon := holdOn_only 8 hnone
  have htu : tcGet (holdOn 8 i w) c i = some (resumed t) := by rw [hon.tcGet_eq (by simp), htw]
  have hheld : siteGet (holdOn 8 i w) i = beginHold 8 w.cycle (siteGet w i) := by
    rw [holdOn_of_none 8 hnone, siteGet_syncSite, siteGet_siteMod_same]
  dsimp only
  rw [show switchTo c i l cost es s = holdOn 8 i w from rfl]
  refine ⟨?_, ?_, ?_, ?_⟩
  · rw [hheld, hsite, siteGet_runCtx]
    rfl
  · rw [ctxStateAt_of_tcGet htu, resumed_slot, fld, hon.getR_eq (CTX_STATE_not_mem_statusRegs _ _), hw,
      getR_holdOff_ne _ (CTX_STATE_ne_HOLD_CYCLES _ _), getR_siteMod, ← fld, fld_runCtx htv]
  · rw [hheld, hsite, ← hcycle]
    rfl
  · rw [hon.getR_eq SWITCHES_not_mem_statusRegs, hw, getR_holdOff_ne _ (by simp [Reg.SWITCHES, Reg.HOLD_CYCLES]), getR_siteMod,
      (runCtx_only htv).getR_eq (SWITCHES_not_mem_taken _), hv, getR_countSwitch,
      hrestored.getR_eq (SWITCHES_not_mem_restoreRegs i es)]

end Taken

/-! ### A long hold (R143) -/

/-- The hold has been reported as long. -/
def raiseHold (h : Hold) (st : Site) : Site := { st with hold := some { h with raised := true } }

theorem stallLong_eq {s : State} {i : Nat} {h : Hold} (hh : (siteGet s i).hold = some h) (hkind : h.kind = 4 ∨ h.kind = 6 ∨ h.kind = 7)
    (hraised : h.raised = false) (hlimit : getR s (Reg.STALL_LIMIT i) ≠ 0) (hlong : getR s (Reg.STALL_LIMIT i) < s.cycle - h.since) :
    stallLong i s = siteMod i (raiseHold h) (orR s (Reg.CALLER_CAUSE i) 8) := by
  have hkind' : (h.kind == 4 || h.kind == 6 || h.kind == 7) = true := by simpa [or_assoc] using hkind
  simp only [stallLong, hh, hkind', hraised, bne_iff_ne.mpr hlimit, decide_eq_true hlong, Bool.not_false, Bool.and_self, if_true]
  rfl

theorem bitR_orR_same {s : State} {k m b : Nat} (hb : b < 32) (hm : m.testBit b = true) : bitR (orR s k m) k b = true := by
  rw [bitR, orR_eq, getR_setR_same, Nat.testBit_mod_two_pow, Nat.testBit_or, hm]
  simpa using lt_of_lt_of_le hb (widthOf_ge k)

/-- Settles O22: a YIELD frees its tile; the first context that qualifies takes it; a long hold is reported once. -/
theorem yieldAndSwitch : Obligations.YieldAndSwitch := by
  unfold Obligations.YieldAndSwitch
  refine ⟨fun s site e hi hleft => ⟨?token, ?time⟩, fun s site l c x t k n hwf hl hfree hfirst hx ht hhealthy hpower hpark hcode =>
    ⟨fun hc => ?same, fun hc => ?other⟩, fun s site h hh hkind hraised hlimit hlong => ?long⟩
  case token =>
    intro k n hfig
    have hplan : planYield e s = some ([], { own := feedersLeft s e.site e.c, ownHold := 7, act := parkCtx e (.token k n) }) := by
      simp only [planYield, hfig]
    obtain ⟨hissued, hholds, hactive, hstate, htoken, htc, honly⟩ := yield_parks hi (.token k n)
    exact Goes.of_issue rfl hi hplan rfl hleft rfl (mayFly_nil s e) ⟨hissued, hholds, hactive, hstate, htoken, ⟨_, htc, rfl⟩, honly⟩
  case time =>
    intro n hfig
    have hplan : planYield e s = some ([], {
        own := feedersLeft s e.site e.c, ownHold := 7, act := parkCtx e (.time (e.t.stepStart + n)) }) := by
      simp only [planYield, hfig]
    obtain ⟨hissued, hholds, hactive, hstate, -, htc, honly⟩ := yield_parks hi (.time (e.t.stepStart + n))
    exact Goes.of_issue rfl hi hplan rfl hleft rfl (mayFly_nil s e) ⟨hissued, hholds, hactive, hstate, ⟨_, htc, rfl⟩, honly⟩
  case same =>
    have htc : tcGet s c site = some t := by rw [tcGet, hx]; exact ht
    obtain ⟨hactive, hstate, hnone, hbusy, htc'⟩ := runCtx_taken htc
    rw [← contextResume_same hl hfree hfirst hx hhealthy hpower hc hcode] at hactive hstate hnone hbusy htc'
    exact Goes.of rfl ⟨hactive, hstate, hnone, hbusy, _, htc', resumed_park t, tokGet_resumed hpark⟩
  case other =>
    have htc : tcGet s c site = some t := by rw [tcGet, hx]; exact ht
    have htaken := switchTo_taken htc l (20 * tileRate s + 8 * (siteGet s site).yieldF + 32 * (restores s site c).length + 64)
      (restores s site c)
    rw [← contextResume_other hl hfree hfirst hx hhealthy hpower hc] at htaken
    exact Goes.of rfl htaken
  case long =>
    refine Goes.of (u := stallLong site s) rfl ?_
    rw [stallLong_eq hh hkind hraised hlimit hlong]
    refine ⟨?_, by rw [siteGet_siteMod_same, raiseHold], ((Only.refl s _ _).setR _ (by simp)).siteMod _ _ (by simp)⟩
    rw [bitR, getR_siteMod, ← bitR]
    exact bitR_orR_same (by decide) (by decide)

end Sys2Proof.Machine
end

section
/-! SUPPORT. START of a context (R133), and the state in which its snapshot counts packs in the register STEP. -/

namespace Sys2Proof.Machine

/-! ### A host command that may run (R376) -/

/-- The end of NAP clears one bit of one register. -/
theorem endNap_only (s : State) : Only s (endNap s) [Reg.POWER_CONTROL] [] :=
  ((Only.refl s _ _).setR _ (by simp)).ite (Only.refl s _ _)

/-- Taking a command changes nothing but the commands that wait and the NAP bit. -/
theorem took_only (c : Instr) (s : State) : Only s (took c s) [Reg.POWER_CONTROL] [.taken] := by
  have herased : Only s { s with taken := s.taken.erase c } [Reg.POWER_CONTROL] [.taken] := (Only.refl s _ _).taken _ (by simp)
  exact (herased.trans ((endNap_only _).weaken (fun _ h => h) (by simp))).ite herased

/-- A host command that may run, and that no media channel orders, has its effect in the state that took it. -/
theorem hostCmd_of_ready {c : Instr} {s : State} (hready : Ready c s) (hmedia : mediaChan c = none) (h : CmdHdr) (q : Quiet)
    (body : State → State) : hostCmd c h q body s = body (took c s) := by
  obtain ⟨htaken, hphase, hawake, hquiet⟩ := hready
  have hturn : inTurn s c = true := by simp only [inTurn, hmedia]
  have hquiet' : quiescedNow (took c s) = false := by
    rw [quiescedNow, bitR, (took_only c s).getR_eq (by decide), ← bitR, ← quiescedNow, hquiet]
  have hbody : hostCmd c h q body s = if quiescedNow (took c s) then (match q with
      | .runs => body (took c s)
      | .code n => finish h n 0 0 (took c s)
      | .refused => reject h 8 (took c s)) else body (took c s) := if_pos ⟨htaken, hturn, hphase, hawake⟩
  rw [hbody, if_neg (by simp [hquiet'])]

/-- The registers of a state that follows from a command are those of its effect. -/
theorem getR_settled {s u v : State} (h : commit s v = .next (after s u)) (k : Nat) : getR v k = getR u k := by
  have hstate := Host.Outcome.next.inj h
  have hregs : v.regs = u.regs := by simpa [after] using congrArg State.regs hstate
  simp only [getR, hregs]

/-- An effect after which a host command ends may differ from the one that the model takes only in what the completion writes. -/
theorem getR_of_ends {c : Instr} {s v : State} {h : CmdHdr} {code d x : Nat} {P : State → Prop}
    (hends : Ends c s h code d x P) (hexec : exec c s = commit s (finish h code d x v)) {k : Nat}
    (hk : k ∉ Reg.QP_STATUS h.fn.val h.qp :: completeRegs h.fn.val) : ∃ u, P u ∧ getR u k = getR v k := by
  obtain ⟨u, hnext, hP⟩ := hends
  have hfinish : ∀ w, getR (finish h code d x w) k = getR w k := fun w => (complete_only 0 0 _ x h w).getR_eq hk
  refine ⟨u, hP, ?_⟩
  rw [← hfinish u, ← hfinish v]
  exact (getR_settled (hexec.symm.trans hnext) k).symm

/-! ### START (R133) -/

theorem startCmd_eq {h : CmdHdr} {a : StartArgs} {s : State} {x : Ctx} (hx : ctxOf s h.fn.val a.ctx = some x) (huse : a.use ≤ 3)
    (hstarted : x.started = false) (hfree : x.replaces = none) (hscale : a.use.testBit 1 = true → lossScaleOk a.lossScale = true) :
    startCmd h a s = finish h 0 0 0 (deckStart a.ctx (if a.use.testBit 0 then a.step else 0) (startAll a.ctx a s)) := by
  simp only [startCmd, hx, if_neg (Nat.not_lt.mpr huse), hstarted, hfree, Bool.false_eq_true, Option.isSome_none, or_self, if_false]
  exact if_neg fun hbad => hbad.2 (hscale hbad.1)

/-! ### A snapshot that counts its packs in STEP

The codec unit of a pack is the stack of its page (R184), and its counter IN_BYTES stands at 0x300010 + 0x100 × unit (R211). No hypothesis
of O19 bounds the stack of a page: for stack 0x1010 that is the place of STEP of context 0 (R269). -/

/-- The stack whose codec counter IN_BYTES would stand where STEP of context 0 does. -/
def strayStack : Nat := 0x1010

theorem IN_BYTES_strayStack : Reg.IN_BYTES strayStack = Reg.STEP 0 := by decide

def strayHdr : CmdHdr := { fn := 0, qp := 0, gen := 0, cid := 0, tag := 0, fence := false, noIrq := false }

/-- A START at step 5. -/
def strayStart : StartArgs := { ctx := 0, use := 1, step := 5, lossScale := 0, goodSteps := 0 }

/-- A training pitch with one coded object of one pack, which its sweep names. -/
def strayPitch : Pitch where
  flags := 1
  pitchId := 0
  seed := 0
  tileMap := []
  routes := []
  arrays := []
  objs := [{
    id := 1, kind := 1, oflags := 4, keySlot := 0, format := 8, size := 1056, tile := 0, banks := 0, offset := 0, tier := 0
    stackMask := 0 }]
  figures := []
  budgets := []
  sweep := some {
    lossScale := 0, growth := 0, consts := []
    recs := [{ group := 0, rule := 0, gflags := 0, params := 1024, objs := [1], constIndex := 0, constSteps := 0 }] }
  votes := []
  engines := 0

/-- The context, not started, with no tiles. -/
def strayCtx : Ctx where
  fn := 0
  hdr := strayHdr
  addr := 0
  len := 0
  digest := []
  pitch := strayPitch
  started := false
  ended := false
  unload := none
  replacedBy := []
  replaces := none
  handles := [1]
  freezing := false
  tiles := []

/-- The object, in one page of the stack. -/
def strayObj : Obj where
  fn := 0
  handle := 1
  id := 1
  owner := 0
  oflags := 4
  keySlot := 0
  format := 8
  size := 1056
  first := 0
  pages := [.near strayStack 0]
  state := 2
  doneSeq := 0
  result := 0
  users := [0]
  freed := false
  record := none

/-- A stream that owes the snapshot of the initial state (R232). -/
def strayStream : Stream := newStream {
  ctx := 0, dest := 1, lag := 0, verMinor := 0, verMajor := 1, port := 0, device := 0, ringAddr := 0, ringSize := 0x100000 } 0

def strayState : State :=
  { State.reset with
    taken := [.start strayHdr strayStart], ctxs := [(0, strayCtx)], ctxFn := [(0, 0)], objs := [(objKey 0 1, strayObj)]
    train := [(0, { Train.fresh with stream := some strayStream })] }

theorem strayState_ready : Ready (.start strayHdr strayStart) strayState :=
  ⟨List.mem_singleton.mpr rfl, by decide, by decide, by decide⟩

theorem strayState_contextsWf : ContextsWf strayState := by
  intro c x hx
  obtain ⟨e, he, rfl⟩ := Option.map_eq_some_iff.mp hx
  have hmem := List.mem_of_find?_eq_some he
  have hkey := List.find?_some he
  obtain rfl := List.mem_singleton.mp hmem
  obtain rfl : 0 = c := by simpa using hkey
  exact ⟨by decide, fun site t ht => by cases ht⟩

/-- The effect of the START: no deck is open. -/
theorem strayState_exec : exec (.start strayHdr strayStart) strayState = commit strayState (finish strayHdr 0 0 0
    (deckStart 0 5 (startAll 0 strayStart (took (.start strayHdr strayStart) strayState)))) := by
  have hstart : execStart strayHdr strayStart strayState = commit strayState (startCmd strayHdr strayStart
      (took (.start strayHdr strayStart) strayState)) :=
    congrArg (commit strayState) (hostCmd_of_ready strayState_ready rfl _ _ _)
  refine hstart.trans (congrArg (commit strayState) ?_)
  exact startCmd_eq (x := strayCtx) (by decide +kernel) (by decide) rfl rfl (by decide)

/-- The snapshot's one pack, a zero descriptor of 32 B, is counted on top of step 5. -/
theorem strayState_step :
    getR (deckStart 0 5 (startAll 0 strayStart (took (.start strayHdr strayStart) strayState))) (Reg.STEP 0) = 37 := by
  decide +kernel

/-- Refutes O19: a page may name any stack, so the codec counter of a pack that the snapshot of a START reads may be the register STEP;
a START at step 5 then leaves 37 there. -/
theorem not_contextsRunAndLeave : ¬ Obligations.ContextsRunAndLeave := by
  unfold Obligations.ContextsRunAndLeave
  rintro ⟨⟨hstart, -, -⟩, -⟩
  have hends := hstart strayState strayHdr strayStart strayCtx strayState_ready strayState_contextsWf (by decide +kernel) (by decide)
    rfl rfl (by decide)
  obtain ⟨u, ⟨-, -, hstep, -, -⟩, hread⟩ := getR_of_ends hends strayState_exec (k := Reg.STEP 0) (by decide)
  have hfive : getR u (Reg.STEP 0) = 5 := hstep (by decide)
  rw [hread, strayState_step] at hfive
  exact absurd hfive (by decide)

end Sys2Proof.Machine
end

section
/-! SUPPORT. What a chip fault changes and records (R465, R482, R498). -/

namespace Sys2Proof.Machine

/-- The registers that the wake for a fault may write: those of DOZE and NAP, and the power state of the resident tiles. -/
def wakeRegs (s : State) : List Nat :=
  [Reg.DOZE_EXITS, Reg.POWER_CONTROL, Reg.POWER_STATE] ++ (s.ctxs.flatMap (fun e => e.2.tiles.map (·.1))).map Reg.TILE_POWER

/-- The registers that a chip fault may write. -/
def faultRegs (s : State) : List Nat :=
  [Reg.FAULT_COUNT, Reg.FAULT_CODE, Reg.FAULT_TIME, Reg.FAULT_STATUS] ++ wakeRegs s

theorem wakeRegs_congr {s u : State} (h : u.ctxs = s.ctxs) : wakeRegs u = wakeRegs s := by rw [wakeRegs, wakeRegs, h]

theorem faultRegs_congr {s u : State} (h : u.ctxs = s.ctxs) : faultRegs u = faultRegs s := by
  rw [faultRegs, faultRegs, wakeRegs_congr h]

theorem ungate_only (s : State) : Only s (ungate s) (wakeRegs s) [] := by
  have hsites : ∀ (is : List Nat) (u : State), Only u (is.foldl (fun s i =>
      if fld s (Reg.TILE_POWER i) 2 0 = 2 then setF s (Reg.TILE_POWER i) 2 0 0 else s) u) (is.map Reg.TILE_POWER) [] := by
    intro is
    induction is with
    | nil => exact fun u => Only.refl u _ _
    | cons i is ih =>
      intro u
      rw [List.foldl_cons]
      refine Only.trans ?_ ((ih _).weaken (by simp +contextual) (by simp))
      exact Only.ite ((Only.refl u _ _).setR _ (by simp)) (Only.refl u _ _)
  exact (hsites _ s).weaken (fun _ hk => List.mem_append_right _ hk) (by simp)

theorem Only.ungate {s u : State} {ks : List Nat} {ps : List Piece} (h : Only s u ks ps) (hk : ∀ k ∈ wakeRegs s, k ∈ ks)
    (hp : Piece.ctxs ∉ ps) : Only s (ungate u) ks ps := by
  have hu := ungate_only u
  rw [wakeRegs_congr (h.ctxs_eq hp)] at hu
  exact h.trans (hu.weaken hk (by simp))

theorem wakeForFault_only (s : State) : Only s (wakeForFault s) (wakeRegs s) [.power] := by
  have hpower := fun v => (Only.refl s (wakeRegs s) [.power]).power v (by simp)
  unfold wakeForFault leaveDoze
  rw [satR_eq, setF_eq, setB_eq]
  refine Only.ite (Only.ite ?doze (Only.refl s _ _)) (Only.ite ?nap (Only.refl s _ _))
  case doze => exact (hpower _).setR (k := Reg.DOZE_EXITS) _ (by simp [wakeRegs])
  case nap =>
    have hcontrol := fun v w => (hpower v).setR (k := Reg.POWER_CONTROL) w (by simp [wakeRegs])
    exact ((hcontrol _ _).setR (k := Reg.POWER_STATE) _ (by simp [wakeRegs])).ungate (fun _ hk => hk) (by simp)

/-- The record of a chip fault: its code with the DETAIL, and its time (R465). -/
def recordFault (code detail now : Nat) (u : State) : State :=
  setR (setR u Reg.FAULT_CODE (code * 0x1000000 + detail)) Reg.FAULT_TIME now

theorem getR_recordFault {code detail : Nat} (h : code * 0x1000000 + detail < 2 ^ 32) (now : Nat) (u : State) :
    getR (recordFault code detail now u) Reg.FAULT_CODE = code * 0x1000000 + detail := by
  rw [recordFault, getR_setR_ne _ _ (by decide), getR_setR_same]
  exact Nat.mod_eq_of_lt (lt_of_lt_of_le h (Nat.pow_le_pow_right (by decide) (widthOf_ge _)))

/-- The wake that a chip fault begins with. -/
theorem faultWake_only (s : State) :
    Only s (wakeForFault (satR s Reg.FAULT_COUNT 1)) (faultRegs s) [.power, .faultSeq] := by
  have hcount : Only s (satR s Reg.FAULT_COUNT 1) (faultRegs s) [.power, .faultSeq] := (Only.refl s _ _).setR _ (by simp [faultRegs])
  have hwake := wakeForFault_only (satR s Reg.FAULT_COUNT 1)
  rw [wakeRegs_congr (hcount.ctxs_eq (by simp))] at hwake
  exact hcount.trans (hwake.weaken (fun _ hk => List.mem_append_right _ hk) (by simp))

/-- A chip fault changes registers, wakes the part and begins the fault sequence, and no more. -/
theorem chipFault_only (code detail : Nat) (s : State) : Only s (chipFault code detail s) (faultRegs s) [.power, .faultSeq] := by
  have hrec : ∀ u, Only s u (faultRegs s) [.power, .faultSeq] → ∀ now,
      Only s (recordFault code detail now u) (faultRegs s) [.power, .faultSeq] :=
    fun u hu now => (hu.setR _ (by simp [faultRegs])).setR _ (by simp [faultRegs])
  have hwake := faultWake_only s
  have hstatus : ∀ u, Only s u (faultRegs s) [.power, .faultSeq] → ∀ v,
      Only s (setR u Reg.FAULT_STATUS v) (faultRegs s) [.power, .faultSeq] := fun u hu v => hu.setR v (by simp [faultRegs])
  unfold chipFault
  dsimp only
  refine Only.ite ?begins (Only.ite ?sameCycle ?further)
  case begins => exact (hstatus _ (hstatus _ (hrec _ hwake _) _) _).faultSeq _ (by simp)
  case sameCycle => exact hrec _ (hstatus _ hwake _) _
  case further => exact hstatus _ hwake _

theorem Only.chipFault {s u : State} {ks : List Nat} {ps : List Piece} (h : Only s u ks ps) (hk : ∀ k ∈ faultRegs s, k ∈ ks)
    (hps : ∀ p ∈ [Piece.power, Piece.faultSeq], p ∈ ps) (hc : Piece.ctxs ∉ ps) (code detail : Nat) :
    Only s (chipFault code detail u) ks ps := by
  have hu := chipFault_only code detail u
  rw [faultRegs_congr (h.ctxs_eq hc)] at hu
  exact h.trans (hu.weaken hk hps)

/-- A chip fault outside a fault sequence begins one and is recorded (R465). -/
theorem chipFault_begins {s : State} (h : s.faultSeq.phase = .none) {code detail : Nat} (hlt : code * 0x1000000 + detail < 2 ^ 32) :
    (chipFault code detail s).faultSeq.phase = .sequence
      ∧ getR (chipFault code detail s) Reg.FAULT_CODE = code * 0x1000000 + detail := by
  have hphase : (wakeForFault (satR s Reg.FAULT_COUNT 1)).faultSeq.phase = .none := by
    have hseq : _ = s.faultSeq := (wakeForFault_only (satR s Reg.FAULT_COUNT 1)).2.1 .faultSeq (by simp)
    rw [hseq, h]
  have hrest : Only (recordFault code detail s.timeBase (wakeForFault (satR s Reg.FAULT_COUNT 1))) (chipFault code detail s)
      [Reg.FAULT_STATUS] [.faultSeq] := by
    have ht : (wakeForFault (satR s Reg.FAULT_COUNT 1)).timeBase = s.timeBase := (faultWake_only s).2.2
    simp only [chipFault, hphase, if_true]
    exact (((Only.refl _ _ _).setR _ (by simp)).setR _ (by simp)).faultSeq _ (by simp)
  refine ⟨?_, by rw [hrest.getR_eq (by decide), getR_recordFault hlt]⟩
  simp only [chipFault, hphase, if_true]

end Sys2Proof.Machine
end

section
/-! SUPPORT. Packs pass the codec (R187, R192, R198, R199, R203): what a read of one delivers, what the step of a move leaves, and what
the abandoned wait for a salt leaves. -/

namespace Sys2Proof.Machine

/-! ### Reading a pack (R161, R187) -/

section ReadPack

variable {ctx : Bool} {o : Obj} {off n p : Nat} {k : Bytes → State → State × PackOut} {s v : State} {b : Bytes}

theorem rd_zero : rd ctx o off 0 k s = k [] s := by simp [rd]

theorem rd_some (hn : n ≠ 0) (h : objRead ctx o off n s = (v, some b)) : rd ctx o off n k s = k b v := by simp [rd, hn, h]

/-- A pack of an object that no slot codes under a binding is no variant. -/
theorem readPack_plain (hbound : boundVariant o = false) : readPack ctx o p s = readPlain ctx o p s := by simp [readPack, hbound]

/-- A descriptor of zeros stands for a pack of zeros. -/
theorem readPlain_zeroDescriptor (hflagged : flagged o.oflags = true) (hscale : scaleLen o = 0)
    (h : objRead ctx o (descOff o p) 32 s = (v, some b)) (hzero : ∀ x ∈ b, x = 0#8) :
    readPlain ctx o p s
      = (v, { err := 0, raw := List.replicate (packBytes o.format) 0#8, scale := [], kind := 0, charge := 32, extra := 0 }) := by
  have hall : b.all (· == 0#8) = true := List.all_eq_true.mpr (fun x hx => beq_iff_eq.mpr (hzero x hx))
  simp only [readPlain, hflagged, Bool.not_true, Bool.false_eq_true, if_false, rd_some (by decide) h, hall, if_true, hscale, rd_zero]

/-- A pack of an unflagged object is delivered as it lies. -/
theorem readPlain_unflagged (hplain : flagged o.oflags = false) (hscale : scaleLen o = 0) (hsize : packBytes o.format ≠ 0)
    (h : objRead ctx o (slotOff o p) (packBytes o.format) s = (v, some b)) :
    readPlain ctx o p s = (v, { err := 0, raw := b, scale := [], kind := 2, charge := packBytes o.format, extra := 0 }) := by
  simp only [readPlain, hplain, Bool.not_false, if_true, rd_some hsize h, hscale, rd_zero, Nat.add_zero]

/-- The expander counts no pack of an unflagged object. -/
theorem expandPack_unflagged (hplain : flagged o.oflags = false) : expandPack ctx o p s = readPack ctx o p s := by
  simp [expandPack, hplain]

end ReadPack

/-! ### The step of a move (R203) -/

/-- The state differs in its registers at most. -/
def RegsOnly (s u : State) : Prop := ∃ rs, u = { s with regs := rs }

namespace RegsOnly

variable {s u w : State}

theorem refl (s : State) : RegsOnly s s := ⟨s.regs, rfl⟩

theorem setR (h : RegsOnly s u) (k v : Nat) : RegsOnly s (setR u k v) := by
  obtain ⟨rs, rfl⟩ := h
  exact ⟨_, rfl⟩

theorem ite {c : Prop} [Decidable c] (a : RegsOnly s u) (b : RegsOnly s w) : RegsOnly s (if c then u else w) := by
  split_ifs
  · exact a
  · exact b

theorem near_eq (h : RegsOnly s u) : u.near = s.near := by obtain ⟨_, rfl⟩ := h; rfl
theorem tileStore_eq (h : RegsOnly s u) : u.tileStore = s.tileStore := by obtain ⟨_, rfl⟩ := h; rfl
theorem objs_eq (h : RegsOnly s u) : u.objs = s.objs := by obtain ⟨_, rfl⟩ := h; rfl
theorem siteGet_eq (h : RegsOnly s u) (i : Nat) : siteGet u i = siteGet s i := by obtain ⟨_, rfl⟩ := h; rfl

end RegsOnly

/-- The move goes on to its next pack with the charge added; beside the flight, the step changes registers alone: the count of late packs,
and at the last pack the late bytes. -/
theorem moveOn_eq (fetch : Bool) (site u rec' : Nat) (o : Obj) (f : Flight) (m : Move) (p : Nat) (r : PackOut) (s : State) :
    ∃ m' w, m'.left = m.left.tail ∧ m'.sum = m.sum + r.charge ∧ RegsOnly s w
      ∧ moveOn fetch site u rec' o f m p r s = setFlight site f.id (if m'.left.isEmpty then f.due + moveExtra fetch m' else f.due)
          (if fetch then .fetch rec' m' else .store rec' m') w :=
  ⟨_, _, rfl, rfl, RegsOnly.ite ((((RegsOnly.refl s).ite ((RegsOnly.refl s).setR _ _)).setR _ _).setR _ _)
    ((RegsOnly.refl s).ite ((RegsOnly.refl s).setR _ _)), rfl⟩

/-- The flights of a site after one of them has changed its time and its work. -/
theorem flights_setFlight (i id due : Nat) (w : Work) (s : State) : (siteGet (setFlight i id due w s) i).flights
    = (siteGet s i).flights.map (fun g => if g.id = id then { g with due := due, work := w } else g) := by
  rw [setFlight, siteGet_siteMod_same]

/-- What the step of a move leaves: memory and objects as they were, and in the flight a move that has gone on. -/
theorem moveOn_leaves (fetch : Bool) (site u rec' : Nat) (o : Obj) (f : Flight) {m : Move} {p : Nat} {ps : List Nat}
    (hleft : m.left = p :: ps) (r : PackOut) (s : State) :
    let x := moveOn fetch site u rec' o f m p r s
    x.near = s.near ∧ x.tileStore = s.tileStore ∧ x.objs = s.objs
      ∧ ∃ m', m'.left = ps ∧ m'.sum = m.sum + r.charge ∧ (siteGet x site).flights = (siteGet s site).flights.map (fun g =>
          if g.id = f.id then { g with due := if ps.isEmpty then f.due + moveExtra fetch m' else f.due,
                                       work := if fetch then .fetch rec' m' else .store rec' m' } else g) := by
  obtain ⟨m', w, hm', hsum, hw, h⟩ := moveOn_eq fetch site u rec' o f m p r s
  have hps : m'.left = ps := by rw [hm', hleft, List.tail_cons]
  dsimp only
  rw [h]
  refine ⟨hw.near_eq, hw.tileStore_eq, hw.objs_eq, m', hps, hsum, ?_⟩
  rw [flights_setFlight, hw.siteGet_eq, hps]

/-! ### A unit takes a pack (R187, R188, R192) -/

/-- The pack and its scale block land in the tile store. -/
def landPack (l : Nat) (o : Obj) (place : Nat × Nat) (r : PackOut) (s : State) : State :=
  if scaleLen o = 0 then tsWrite s l place.1 r.raw else tsWrite (tsWrite s l place.1 r.raw) l place.2 r.scale

theorem landPack_tileStore (l : Nat) (o : Obj) (place : Nat × Nat) (r : PackOut) (s : State) :
    (landPack l o place r s).tileStore = if scaleLen o = 0 then mwrite s.tileStore (wordKey l place.1) r.raw
      else mwrite (mwrite s.tileStore (wordKey l place.1) r.raw) (wordKey l place.2) r.scale := by
  unfold landPack
  split_ifs <;> rfl

/-- Landing changes the tile store alone. -/
theorem landPack_only (l : Nat) (o : Obj) (place : Nat × Nat) (r : PackOut) (s : State) :
    Only s (landPack l o place r s) [] [.tileStore] :=
  Only.ite ((Only.refl s _ _).tileStore _ (by simp)) (((Only.refl s _ _).tileStore _ (by simp)).tileStore _ (by simp))

section Taken

variable {s v : State} {u site id l k p : Nat} {ps : List Nat} {f : Flight} {m : Move} {o : Obj} {r : PackOut}
  (hf : flightOf s site id = some f) (hl : tileOfSite s site = some l) (ho : moveObj s f m = some o) (hleft : m.left = p :: ps)
  (hunit : unitWorks s u = true) (hu : unitOf s o p = u)
include hf hl ho hleft hunit hu

theorem packRead_of_taken (hwork : f.work = .fetch k m) (hheld : packHeld s o p = false) (hr : expandPack true o p s = (v, r))
    (herr : r.err = 0) : packRead u site id s = moveOn true site u k o f m p r (landPack l o (movePlace o m p) r v) := by
  have htaken : (unitWorks s u && unitOf s o p == u && !packHeld s o p) = true := by simp [hunit, hu, hheld]
  simp only [packRead, hf, hl, hwork, ho, hleft, htaken, hr, herr, if_true, ne_eq, not_true, if_false]
  rfl

/-- A unit that takes the next pack of a STORE writes its stored form, unless the write waits for a salt. -/
theorem packWrite_of_taken (hwork : f.work = .store k m) (hheld : m.waits.isSome = true ∨ packHeld s o p = false)
    (hr : writePack true o p (tsRead s l (movePlace o m p).1 (rawWords o)) (if scaleLen o = 0 then [] else tsRead s l (movePlace o m p).2 1) s
      = (v, r)) :
    packWrite u site id s = if r.err = 8 then
        setFlight site f.id f.due (.store k { m with waits := some (m.waits.getD s.timeBase) }) s
      else if r.err ≠ 0 then v else moveOn false site u k o f m p r v := by
  have htaken : (unitWorks s u && unitOf s o p == u && (m.waits.isSome || !packHeld s o p)) = true := by
    rcases hheld with h | h <;> simp [hunit, hu, h]
  simp only [packWrite, hf, hl, hwork, ho, hleft, htaken, hr, if_true]

end Taken

/-! ### The wait for a salt (R198, R199) -/

/-- A wait that has lasted 10 ms with the pool still empty is abandoned. -/
theorem entropyWait_abandons {s : State} {u site id k p t : Nat} {ps : List Nat} {f : Flight} {m : Move} {o : Obj}
    (hf : flightOf s site id = some f) (hwork : f.work = .store k m) (ho : moveObj s f m = some o) (hleft : m.left = p :: ps)
    (hwaits : m.waits = some t) (hhealthy : healthy s = true) (hu : unitOf s o p = u) (hsalts : saltsOf s u = [])
    (ht : t + 250000 ≤ s.timeBase) : entropyWait u site id s = landFlight site id (packFail true u 8 s) := by
  simp [entropyWait, hf, hwork, ho, hleft, hwaits, hhealthy, hu, hsalts, ht]

theorem packFail_entropy (u : Nat) (s : State) :
    packFail true u 8 s = chipFault 0x0B (u * 2 ^ 21 + 8 * 2 ^ 16) (orR s (Reg.CODEC_CAUSE u) (2 ^ 8)) := rfl

/-- The cause register of a unit is none that a chip fault writes. -/
theorem CODEC_CAUSE_not_mem_faultRegs (u : StackId) (s : State) : Reg.CODEC_CAUSE u ∉ faultRegs s := by
  have hlt := u.isLt
  simp only [faultRegs, wakeRegs, Reg.CODEC_CAUSE, Reg.FAULT_COUNT, Reg.FAULT_CODE, Reg.FAULT_TIME, Reg.FAULT_STATUS, Reg.DOZE_EXITS,
    Reg.POWER_CONTROL, Reg.POWER_STATE, Reg.TILE_POWER, List.mem_append, List.mem_cons, List.not_mem_nil, or_false, List.mem_map]
  rintro (h | h | ⟨i, -, h⟩) <;> omega

/-- A failure for want of a salt changes the unit's cause register and what a chip fault changes. -/
theorem packFail_entropy_only (u : Nat) (s : State) :
    Only s (packFail true u 8 s) (Reg.CODEC_CAUSE u :: faultRegs s) [.power, .faultSeq] := by
  rw [packFail_entropy]
  exact ((Only.refl s _ _).setR _ (by simp)).chipFault (fun _ hk => List.mem_cons_of_mem _ hk) (by simp) (by simp) _ _

theorem bitR_packFail_entropy (u : StackId) (s : State) : bitR (packFail true u.val 8 s) (Reg.CODEC_CAUSE u) 8 = true := by
  rw [packFail_entropy, bitR, (chipFault_only _ _ _).getR_eq (CODEC_CAUSE_not_mem_faultRegs u _)]
  exact bitR_orR_same (by decide) (by decide)

/-- The chip fault of a failure for want of a salt begins a fault sequence and is recorded with its unit. -/
theorem packFail_entropy_begins (u : StackId) {s : State} (h : s.faultSeq.phase = .none) :
    (packFail true u.val 8 s).faultSeq.phase = .sequence
      ∧ getR (packFail true u.val 8 s) Reg.FAULT_CODE = 0x0B * 0x1000000 + (u.val * 2 ^ 21 + 8 * 2 ^ 16) := by
  have hlt := u.isLt
  exact chipFault_begins (s := orR s (Reg.CODEC_CAUSE u) (2 ^ 8)) h (by omega)

theorem SameMemory.of_only {s u : State} {ks : List Nat} {ps : List Piece} (h : Only s u ks ps) (hnear : Piece.near ∉ ps)
    (htile : Piece.tileStore ∉ ps) (hhost : Piece.host ∉ ps) (hptab : Piece.ptab ∉ ps) : SameMemory s u :=
  ⟨h.2.1 _ hnear, h.2.1 _ htile, h.2.1 _ hhost, h.2.1 _ hptab⟩

/-- Settles O28: the codec's reads deliver their packs, a step of a move takes the pack that the codec delivers or writes, and the wait
for a salt is marked in the flight, or ends in a chip fault. -/
theorem packsPassTheCodec : Obligations.PacksPassTheCodec := by
  unfold Obligations.PacksPassTheCodec
  refine ⟨?zero, ?plain, ?fetched, ?stored, ?abandoned⟩
  case zero =>
    intro s v o p d hflagged hbound hscale hread hzero
    rw [readPack_plain hbound, readPlain_zeroDescriptor hflagged hscale hread hzero]
  case plain =>
    intro s v o p b hplain hbound hscale hsize hread
    rw [expandPack_unflagged hplain, readPack_plain hbound, readPlain_unflagged hplain hscale hsize hread]
  case fetched =>
    intro s v u site id l k p ps f m o r hf hl hwork ho hleft hunit hu hheld hr herr
    have hland := landPack_only l o (movePlace o m p) r v
    obtain ⟨hnear, htile, hobjs, m', hm', hsum, hflights⟩ :=
      moveOn_leaves true site u k o f hleft r (landPack l o (movePlace o m p) r v)
    rw [← packRead_of_taken hf hl ho hleft hunit hu hwork hheld hr herr] at hnear htile hobjs hflights
    rw [hland.siteGet_eq (by simp)] at hflights
    refine Goes.of rfl ⟨htile.trans (landPack_tileStore _ _ _ _ _), fun a => ?_, hobjs.trans (hland.2.1 .objs (by simp)), m', hm', hsum,
      hflights⟩
    rw [hnear]
    exact hland.2.1 .near (by simp) a
  case stored =>
    intro s v u site id l k p ps f m o r hf hl hwork ho hleft hunit hu hheld hr
    have htaken := packWrite_of_taken hf hl ho hleft hunit hu hwork hheld hr
    refine ⟨fun herr => ?written, fun herr => ?waits⟩
    case written =>
      rw [herr, if_neg (by decide), if_neg (by simp)] at htaken
      obtain ⟨hnear, htile, hobjs, hflights⟩ := moveOn_leaves false site u k o f hleft r v
      rw [← htaken] at hnear htile hobjs hflights
      exact Goes.of rfl ⟨fun a => by rw [hnear], fun a => by rw [htile], hobjs, hflights⟩
    case waits =>
      rw [if_pos herr] at htaken
      refine Goes.of (u := packWrite u site id s) rfl ?_
      rw [htaken]
      exact ⟨(Only.refl s _ _).siteMod _ _ (by simp), flights_setFlight _ _ _ _ _⟩
  case abandoned =>
    intro s u site id k p t ps f m o hf hwork ho hleft hwaits hhealthy hu hsalts ht hphase
    have honly := packFail_entropy_only u s
    have hmemory : SameMemory s (packFail true u 8 s) := SameMemory.of_only honly (by simp) (by simp) (by simp) (by simp)
    obtain ⟨hsequence, hcode⟩ := packFail_entropy_begins u hphase
    refine Goes.of (u := entropyWait u site id s) rfl ?_
    rw [entropyWait_abandons hf hwork ho hleft hwaits hhealthy hu hsalts ht]
    refine ⟨?_, bitR_packFail_entropy u s, hsequence, hcode, hmemory, honly.2.1 .objs (by simp)⟩
    rw [siteGet_landFlight, honly.siteGet_eq (by simp)]

end Sys2Proof.Machine
end

section
/-! SUPPORT. An ACK of a delta stream counts its bytes in DELTA_BYTES of the stream's context (R269, R398): what the register reads then,
and an ACK for the stream of a context number that the part does not have. -/

namespace Sys2Proof.Machine

/-- The state that a command leaves has the registers of every effect that leads to it. -/
theorem getR_of_goes {c : Instr} {s v : State} {P : State → Prop} (hgoes : Goes c s P) (hexec : exec c s = commit s v) (k : Nat) :
    ∃ u, P u ∧ getR u k = getR v k := by
  obtain ⟨u, hnext, hP⟩ := hgoes
  exact ⟨u, hP, (getR_settled (hexec.symm.trans hnext) k).symm⟩

/-! ### The bytes that an ACK accepts -/

/-- Setting a context's stream writes its training state and STEP_STATE. -/
theorem setStream_only (c : Nat) (st : Option Stream) (s : State) : Only s (setStream c st s) [Reg.STEP_STATE c] [.train] :=
  (((Only.refl s _ _).train _ (by simp)).setR _ (by simp)).setR _ (by simp)

/-- A record is accepted by an ACK of its stream up to its SEQ or beyond (R398). -/
def ackedBy (body : Bytes) (e : Nat × Nat × Nat × Nat) : Bool := e.2.2.2 == fieldAt body 0 8 && e.1 ≤ fieldAt body 8 8

/-- The bytes of the records that an ACK accepts. -/
def ackedBytes (body : Bytes) (st : Stream) : Nat := ((st.sent.filter (ackedBy body)).map (·.2.2.1)).foldl (· + ·) 0

section Ack

variable {s : State} {body : Bytes} {c : Nat} {st : Stream} (hlen : body.length = 32)
  (hstream : streamOf s (fieldAt body 0 8) = some (c, st)) (hacked : ∃ e ∈ st.sent, ackedBy body e = true)
include hlen hstream hacked

theorem ackStream_eq : ackStream body s = setStream c
    (some { st with sent := st.sent.filter (fun e => !ackedBy body e), ackAt := s.timeBase })
    (addR s (Reg.DELTA_BYTES c) (ackedBytes body st)) := by
  have hdone : (st.sent.filter (ackedBy body)).isEmpty = false := by simpa using hacked
  have hparts : st.sent.partition (ackedBy body) = (st.sent.filter (ackedBy body), st.sent.filter (fun e => !ackedBy body e)) :=
    List.partition_eq_filter_filter
  unfold ackedBytes
  unfold ackedBy at hdone hparts ⊢
  simp only [ackStream, hlen, if_true, hstream, hparts, hdone, Bool.false_eq_true, if_false, addR_eq, setR_timeBase]

/-- DELTA_BYTES counts the accepted bytes, in as many bits as the register has. -/
theorem getR_ackStream_bytes : getR (ackStream body s) (Reg.DELTA_BYTES c)
    = (getR s (Reg.DELTA_BYTES c) + ackedBytes body st) % 2 ^ widthOf (Reg.DELTA_BYTES c) := by
  rw [ackStream_eq hlen hstream hacked, (setStream_only _ _ _).getR_eq (by simp [Reg.DELTA_BYTES, Reg.STEP_STATE]), addR_eq, getR_setR_same]

end Ack

/-! ### A stream of context 64

The part has contexts 0 to 63, each with a DELTA_BYTES of 64 bits (R269). The ACK clause of O49 takes the context's number from the table of
training states, and no hypothesis bounds it: where DELTA_BYTES of a context 64 would stand there is no register, and the model keeps
32 bits. -/

theorem widthOf_DELTA_BYTES_beyond : widthOf (Reg.DELTA_BYTES 64) = 32 := by decide +kernel

/-- A stream to another part over port 7, of which one record of 128 bytes is outstanding: SEQ 0, state 0, STREAM_ID 0. -/
def beyondStream : Stream :=
  { newStream {
      ctx := 64, dest := 2, lag := 0, verMinor := 1, verMajor := 1, port := 7, device := 4, ringAddr := 0, ringSize := 0 } 0 with
    seq := 1, sent := [(0, 0, 128, 0)], snapOwed := false }

/-- Port 7 is up, and DELTA_BYTES of context 64 is 127 below 2 ^ 32. -/
def beyondState : State :=
  { State.reset with
    regs := [(Reg.PORT_STATUS 7, 0x40000000#64), (Reg.DELTA_BYTES 64, 0xFFFFFF81#64)]
    train := [(64, { Train.fresh with stream := some beyondStream })] }

/-- An ACK of stream 0 up to SEQ 0. -/
def beyondAck : Bytes := List.replicate 32 0#8

theorem beyondState_arrives : arrives beyondState 7 beyondAck = true := by decide +kernel

theorem beyondState_streamOf : streamOf beyondState (fieldAt beyondAck 0 8) = some (64, beyondStream) := by decide +kernel

theorem beyondAck_accepts : ∃ e ∈ beyondStream.sent, ackedBy beyondAck e = true :=
  ⟨(0, 0, 128, 0), List.mem_singleton.mpr rfl, by decide +kernel⟩

/-- The ACK is for this part, and no soft error meets it. -/
theorem beyondState_exec : exec (.ack 7 0 0 beyondAck) beyondState = commit beyondState (ackStream beyondAck beyondState) := by
  have heffect : ackIn 7 0 0 beyondAck beyondState = ackStream beyondAck beyondState := by decide +kernel
  exact congrArg (commit beyondState) heffect

/-- The 128 accepted bytes carry the count past 32 bits. -/
theorem beyondState_bytes : getR (ackStream beyondAck beyondState) (Reg.DELTA_BYTES 64) = 1 := by
  have hread : getR beyondState (Reg.DELTA_BYTES 64) = 0xFFFFFF81 := by decide +kernel
  have hbytes : ackedBytes beyondAck beyondStream = 128 := by decide +kernel
  rw [getR_ackStream_bytes rfl beyondState_streamOf beyondAck_accepts, hread, hbytes, widthOf_DELTA_BYTES_beyond]
  norm_num

/-- Refutes O49: no hypothesis of the ACK clause bounds the context's number, and for a stream that stands under context 64, where the map
has no register, the model counts the accepted bytes modulo 2 ^ 32 and not modulo 2 ^ 64. -/
theorem not_deltaStreams : ¬ Obligations.DeltaStreams := by
  unfold Obligations.DeltaStreams
  rintro ⟨-, -, hclause, -, -⟩
  have hgoes := hclause beyondState 7 0 0 64 beyondAck beyondStream beyondState_arrives rfl (by decide +kernel) rfl beyondState_streamOf
    beyondAck_accepts
  obtain ⟨u, ⟨-, hcount⟩, hread⟩ := getR_of_goes hgoes beyondState_exec (Reg.DELTA_BYTES 64)
  rw [hread, beyondState_bytes] at hcount
  exact absurd hcount (by decide +kernel)

end Sys2Proof.Machine
end

section
/-! SUPPORT. The update rules of the sweep (R256, R257, R259). -/

namespace Sys2Proof.Machine

/-! ### The sign of Lion (R259) -/

theorem signOf_fin_zero (n : Bool) (e : Int) : signOf (.fin n 0 e) = .fin false 0 0 := rfl
theorem signOf_fin_succ (n : Bool) (k : Nat) (e : Int) : signOf (.fin n (k + 1) e) = .fin n 1 0 := rfl
theorem signOf_inf (n : Bool) : signOf (.inf n) = .fin n 1 0 := rfl

/-- A finite value other than ±0, or an infinity, has the sign of its sign bit. -/
theorem signOf_of_nonzero {n : Bool} {x : Fp} (hx : (∃ e k, x = .fin n (k + 1) e) ∨ x = .inf n) : signOf x = .fin n 1 0 := by
  obtain ⟨e, k, rfl⟩ | rfl := hx
  · exact signOf_fin_succ n k e
  · exact signOf_inf n

/-- Settles O53: each rule of `ruleStep` is the equations of its rule of the spec, and `signOf` goes by the sign bit of a value that is
not ±0. -/
theorem updateRules : Obligations.UpdateRules := by
  unfold Obligations.UpdateRules
  intro c θ g m v a vel sec
  have hsgd : ruleStep 0 c θ g m v = (fma32 (c 0).negate g a, m, v) := rfl
  have hheavyBall : ruleStep 1 c θ g m v = (fma32 (c 0).negate vel a, vel, v) := rfl
  have hnesterov : ruleStep 2 c θ g m v = (fma32 (c 0).negate (fma32 (c 2) vel g) a, vel, v) := rfl
  have hadamW : ruleStep 3 c θ g m v
      = (fma32 (c 0).negate (div32 vel (fma32 (sqrt32 sec) (c 6) (c 7))) a, vel, sec) := rfl
  have hlion : ruleStep 5 c θ g m v
      = (fma32 (c 0).negate (signOf vel) a, fma32 (c 4) m (mul32 (c 5) g), v) := rfl
  exact ⟨hsgd, hheavyBall, hnesterov, hadamW, hlion, fun _ => signOf_of_nonzero, fun _ => signOf_of_nonzero, signOf_fin_zero⟩

end Sys2Proof.Machine
end

section
/-! SUPPORT. The completion of a step, and the state in which its snapshot counts packs in the register STEP. -/

namespace Sys2Proof.Machine

/-- The context of O19's refutation (its page stands in the stack whose codec counter would be STEP) in full service: its sweep has ended,
and its stream still owes the snapshot. -/
def strayStep : State :=
  setPhase 0 4 (setB { strayState with start := { strayState.start with inReset := false } } Reg.POWER_STATE 24 true)

theorem strayStep_training : training strayStep 0 = some strayCtx := by decide +kernel

/-- STEP is 0, and the snapshot's one pack, a zero descriptor of 32 B, is counted on top of its increment. -/
theorem strayStep_step : getR strayStep (Reg.STEP 0) = 0 ∧ getR (stepComplete 0 strayStep) (Reg.STEP 0) = 33 := by
  decide +kernel

/-- Refutes O48: a page may name any stack, so the codec counter of a pack that the snapshot at a step's completion reads (R232) may be
the register STEP; step 0 then completes with 33 there, not 1. -/
theorem not_sweepEndsTheStep : ¬ Obligations.SweepEndsTheStep := by
  unfold Obligations.SweepEndsTheStep
  rintro ⟨-, -, -, hcomplete⟩
  have hgoes := hcomplete strayStep 0 strayCtx strayStep_training (by decide +kernel) (by decide +kernel) (by decide +kernel)
    (by decide +kernel) List.nodup_nil (fun site t ht => by cases ht)
  obtain ⟨u, ⟨hstep, -⟩, hread⟩ := getR_of_goes hgoes (v := stepComplete 0 strayStep) rfl (Reg.STEP 0)
  obtain ⟨hbefore, hafter⟩ := strayStep_step
  have hone : getR u (Reg.STEP 0) = 1 := hstep.trans (congrArg (fun n => (n + 1) % 2 ^ 64) hbefore)
  exact absurd (hone.symm.trans (hread.trans hafter)) (by decide)

end Sys2Proof.Machine
end

section
/-! SUPPORT. Fabric messages that a part sends and takes (R389-R392, R398): what each leaves alone. -/

namespace Sys2Proof.Machine

/-- The registers that sending on a port may write (R391, R398, R406). -/
def portRegs (p : Nat) : List Nat :=
  [Reg.FAB_CAUSE, Reg.FWD_DROPS, Reg.FAB_STATUS, Reg.PORT_STATUS p, Reg.FLITS_TX p, Reg.PAYLOAD_TX p]

theorem Only.portPut {s u : State} {ks : List Nat} {ps : List Piece} (h : Only s u ks ps) (p : Nat) (x : FabPort)
    (hp : Piece.fab ∈ ps) : Only s (portPut u p x) ks ps := h.fab _ hp

theorem putFlit_only (p type : Nat) (t : TxFlit) (s : State) : Only s (putFlit p type t s) [] [.fab, .out] :=
  ((Only.refl s _ _).portPut _ _ (by simp)).emit _ (by simp)

theorem setPort_only (p st reason : Nat) (s : State) : Only s (setPort p st reason s) [Reg.PORT_STATUS p, Reg.FAB_STATUS] [] :=
  (((Only.refl s _ _).setR _ (by simp)).setR _ (by simp)).setR _ (by simp)

theorem pump_only (n p : Nat) (s : State) : Only s (pump n p s) (portRegs p) [.fab, .out] := by
  induction n generalizing s with
  | zero => exact Only.refl s _ _
  | succ n ih =>
    unfold pump
    dsimp only
    refine Only.ite (Only.refl s _ _) ?_
    split
    · exact Only.refl s _ _
    · split
      · exact Only.refl s _ _
      · have hput := fun x => (Only.refl s (portRegs p) [.fab, .out]).portPut p x (by simp)
        have hwake : ∀ u, Only s u (portRegs p) [.fab, .out] →
            Only s (if portState u p = 4 then setPort p 2 0 u else u) (portRegs p) [.fab, .out] :=
          fun u hu => (hu.trans ((setPort_only _ _ _ _).weaken (by simp [portRegs]) (by simp))).ite hu
        have hcount := fun x v w => ((hwake _ (hput x)).setR (k := Reg.FLITS_TX p) v (by simp [portRegs])).setR
          (k := Reg.PAYLOAD_TX p) w (by simp [portRegs])
        exact ((hcount _ _ _).trans ((putFlit_only _ _ _ _).weaken (by simp) (fun _ h => h))).trans (ih _)

theorem fwdDrop_only (n : Nat) (s : State) : Only s (fwdDrop n s) [Reg.FAB_CAUSE, Reg.FWD_DROPS] [] :=
  (Only.refl s _ _).ite (((Only.refl s _ _).setR _ (by simp)).setR _ (by simp))

/-- A message that is sent changes its port, or is counted as dropped. -/
theorem sendMsg_only (p cls dest hops : Nat) (body : Bytes) (s : State) :
    Only s (sendMsg p cls dest hops body s) (portRegs p) [.fab, .out] := by
  have hqueued := fun o x => ((Only.refl s (portRegs p) [.fab, .out]).emit o (by simp)).portPut p x (by simp)
  exact Only.ite (((hqueued _ _).trans (pump_only _ _ _)).ite (hqueued _ _)) ((fwdDrop_only 1 s).weaken (by simp [portRegs]) (by simp))

/-- A message that is taken changes its port and may end NAP. -/
theorem takeMessage_only (p cls : Nat) (body : Bytes) (s : State) :
    Only s (takeMessage p cls body s) [Reg.POWER_CONTROL] [.fab, .out] := by
  have hnap : Only s (if cls ≤ 1 then endNap s else s) [Reg.POWER_CONTROL] [.fab, .out] :=
    ((endNap_only s).weaken (fun _ h => h) (by simp)).ite (Only.refl s _ _)
  unfold takeMessage
  dsimp only
  split
  · exact hnap
  · exact (hnap.portPut _ _ (by simp)).trans ((putFlit_only _ _ _ _).weaken (by simp) (fun _ h => h))

theorem switchMeet_of_no_errs {s : State} (h : s.errs = []) (p : Nat) (mine : Bool) : switchMeet p mine s = (s, true) := by
  have hsame : { s with errs := [] } = s := by rw [← h]
  simp [switchMeet, h, hsame]

end Sys2Proof.Machine
end

section
/-! SUPPORT. The finite vote (R242-R246): what the landing of a result leaves on the tiles, and what it leaves of the training state, the
sweep registers and the memories. -/

namespace Sys2Proof.Machine

/-! ### Effects outside the training state -/

/-- The sweep block's registers (R265), the training state, every memory and the time base are as before. -/
structure LeavesTraining (s u : State) : Prop where
  getR_eq : ∀ k, 0x400000 ≤ k → k < 0x500000 → getR u k = getR s k
  sameMemory : SameMemory s u
  train_eq : u.train = s.train
  timeBase_eq : u.timeBase = s.timeBase

namespace LeavesTraining

variable {s u w : State}

theorem refl (s : State) : LeavesTraining s s := ⟨fun _ _ _ => rfl, ⟨fun _ => rfl, fun _ => rfl, fun _ => rfl, fun _ => rfl⟩, rfl, rfl⟩

theorem of_only {ks : List Nat} {ps : List Piece} (h : Only s u ks ps) (hk : ∀ k ∈ ks, k < 0x400000 ∨ 0x500000 ≤ k)
    (hp : ∀ p ∈ [Piece.near, .tileStore, .host, .ptab, .train], p ∉ ps) : LeavesTraining s u where
  getR_eq k hlo hhi := h.getR_eq fun hmem => by have := hk k hmem; omega
  sameMemory := SameMemory.of_only h (hp _ (by simp)) (hp _ (by simp)) (hp _ (by simp)) (hp _ (by simp))
  train_eq := h.2.1 .train (hp _ (by simp))
  timeBase_eq := h.2.2

end LeavesTraining

theorem SameMemory.trans {s u w : State} (a : SameMemory s u) (b : SameMemory u w) : SameMemory s w := by
  obtain ⟨hnear, htile, hhost, hptab⟩ := a
  obtain ⟨hnear', htile', hhost', hptab'⟩ := b
  exact ⟨Only.kept_trans .near hnear hnear', Only.kept_trans .tileStore htile htile', Only.kept_trans .host hhost hhost',
    Only.kept_trans .ptab hptab hptab'⟩

theorem LeavesTraining.trans {s u w : State} (a : LeavesTraining s u) (b : LeavesTraining u w) : LeavesTraining s w where
  getR_eq k hlo hhi := (b.getR_eq k hlo hhi).trans (a.getR_eq k hlo hhi)
  sameMemory := a.sameMemory.trans b.sameMemory
  train_eq := b.train_eq.trans a.train_eq
  timeBase_eq := b.timeBase_eq.trans a.timeBase_eq

theorem LeavesTraining.foldl {α : Type} {f : State → α → State} (hf : ∀ u a, LeavesTraining u (f u a)) (as : List α) (s : State) :
    LeavesTraining s (as.foldl f s) := by
  induction as generalizing s with
  | nil => exact refl s
  | cons a as ih => exact (hf s a).trans (ih _)

theorem LeavesTraining.trainGet_eq {s u : State} (h : LeavesTraining s u) (c : Nat) : trainGet u c = trainGet s c := by
  rw [trainGet, trainGet, h.train_eq]

theorem sendMsg_leavesTraining (p cls dest hops : Nat) (body : Bytes) (s : State) : LeavesTraining s (sendMsg p cls dest hops body s) := by
  refine .of_only (sendMsg_only p cls dest hops body s) (fun k hk => ?_) (by simp)
  simp only [portRegs, List.mem_cons, List.not_mem_nil, or_false, Reg.FAB_CAUSE, Reg.FWD_DROPS, Reg.FAB_STATUS, Reg.PORT_STATUS,
    Reg.FLITS_TX, Reg.PAYLOAD_TX] at hk
  omega

theorem takeMessage_leavesTraining (p cls : Nat) (body : Bytes) (s : State) : LeavesTraining s (takeMessage p cls body s) :=
  .of_only (takeMessage_only p cls body s) (by simp [Reg.POWER_CONTROL]) (by simp)

/-- The registers of a chip fault lie outside the sweep block. -/
theorem faultRegs_outside (s : State) : ∀ k ∈ faultRegs s, k < 0x400000 ∨ 0x500000 ≤ k := by
  intro k hk
  simp only [faultRegs, wakeRegs, List.mem_append, List.mem_cons, List.not_mem_nil, or_false, List.mem_map] at hk
  rcases hk with h | h | ⟨i, -, rfl⟩
  · simp only [Reg.FAULT_COUNT, Reg.FAULT_CODE, Reg.FAULT_TIME, Reg.FAULT_STATUS] at h
    omega
  · simp only [Reg.DOZE_EXITS, Reg.POWER_CONTROL, Reg.POWER_STATE] at h
    omega
  · simp only [Reg.TILE_POWER]
    omega

theorem chipFault_leavesTraining (code detail : Nat) (s : State) : LeavesTraining s (chipFault code detail s) :=
  .of_only (chipFault_only code detail s) (faultRegs_outside s) (by simp)

/-! ### Posts whose counter may be full (R128) -/

theorem callerAssert_cases (i code : Nat) (s : State) : ∃ u detail, Only s u [Reg.CALLER_CAUSE i, Reg.CALLER_STATUS i] []
    ∧ callerAssert i code s = chipFault 0x02 detail u :=
  ⟨_, _, Only.setR (Only.ite (Only.refl s _ _) ((Only.refl s _ _).setR _ (by simp))) _ (by simp), rfl⟩

theorem callerAssert_leavesTraining (i code : Nat) (s : State) : LeavesTraining s (callerAssert i code s) := by
  obtain ⟨u, detail, hu, h⟩ := callerAssert_cases i code s
  rw [h]
  refine LeavesTraining.trans (.of_only hu (fun k hk => ?_) (by simp)) (chipFault_leavesTraining _ _ _)
  simp only [List.mem_cons, List.not_mem_nil, or_false, Reg.CALLER_CAUSE, Reg.CALLER_STATUS] at hk
  omega

theorem tcGet_callerAssert (i code : Nat) (s : State) (c j : Nat) : tcGet (callerAssert i code s) c j = tcGet s c j := by
  obtain ⟨u, detail, hu, h⟩ := callerAssert_cases i code s
  rw [h, (chipFault_only _ _ _).tcGet_eq (by simp), hu.tcGet_eq (by simp)]

/-- A post finds no tile, finds its counter full, or counts. -/
theorem postToken_cases (c i k : Nat) (s : State) : postToken c i k s = s ∨ postToken c i k s = callerAssert i 0x05 s
    ∨ ∃ t, tcGet s c i = some t ∧ tokGet t k < 255 := by
  unfold postToken
  cases ht : tcGet s c i with
  | none => exact .inl rfl
  | some t =>
    by_cases hfull : tokGet t k + 1 > 255
    · exact .inr (.inl (if_pos hfull))
    · exact .inr (.inr ⟨t, rfl, by omega⟩)

theorem postToken_leavesTraining (c i k : Nat) (s : State) : LeavesTraining s (postToken c i k s) := by
  obtain h | h | ⟨t, ht, hroom⟩ := postToken_cases c i k s
  · rw [h]; exact .refl s
  · rw [h]; exact callerAssert_leavesTraining i 0x05 s
  · refine .of_only (postToken_only ht hroom) (fun j hj => ?_) (by simp)
    simp only [List.mem_cons, List.not_mem_nil, or_false, Reg.POWER_CONTROL, Reg.TILE_POWER] at hj
    omega

/-! ### The vote that a tile waits in (R131) -/

theorem tcGet_tcMod (c i : Nat) (f : TileCtx → TileCtx) (s : State) (j : Nat) :
    tcGet (tcMod c i f s) c j = if j = i then (tcGet s c j).map f else tcGet s c j := by
  cases hx : ctxGet s c with
  | none => simp [tcMod, ctxMod, tcGet, hx]
  | some x =>
    have hmod : ∀ y, ctxGet { s with ctxs := tput s.ctxs c y } c = some y := fun y => tget_tput_same _ _ _
    cases ht : tget x.tiles i with
    | none => by_cases hj : j = i <;> simp [tcMod, ctxMod, tcGet, hx, ht, hmod, hj]
    | some t => by_cases hj : j = i <;> simp [tcMod, ctxMod, tcGet, hx, ht, hmod, hj, tget_tput_ne]

/-- The vote of a context that waits on a tile. -/
def waitingVote (s : State) (c i : Nat) : Option (Nat × Option Nat × Bool) := (tcGet s c i).bind (·.vote)

theorem waitingVote_congr {s u : State} {c i : Nat} (h : tcGet u c i = tcGet s c i) : waitingVote u c i = waitingVote s c i := by
  rw [waitingVote, waitingVote, h]

@[simp] theorem waitingVote_postToken (c i k : Nat) (s : State) (j : Nat) :
    waitingVote (postToken c i k s) c j = waitingVote s c j := by
  obtain h | h | ⟨t, ht, hroom⟩ := postToken_cases c i k s
  · rw [h]
  · rw [h, waitingVote_congr (tcGet_callerAssert i 0x05 s c j)]
  · have hcount : tcGet (postToken c i k s) c j = tcGet (tcMod c i (gainToken k) s) c j := by
      rw [postToken_eq ht hroom, (tokenWake_only i _).tcGet_eq (by simp), (napPost_only c i _).tcGet_eq (by simp)]
    rw [waitingVote_congr hcount, waitingVote, waitingVote, tcGet_tcMod]
    split_ifs
    · cases tcGet s c j <;> rfl
    · rfl

/-- A tile's vote is over. -/
def endVote (t : TileCtx) : TileCtx := { t with vote := none, votesDone := t.votesDone + 1 }

/-- The result stands in the flags of the tile's slot, and the tile waits no more. -/
def storeResult (c : Nat) (res : Bool) (i : Nat) (s : State) : State :=
  tcMod c i endVote (setF s (Reg.CTX_FLAGS i (slotOf s c i)) 2 1 (2 + b2n res))

/-- The token that a vote posts. -/
def postResult (c i : Nat) (post : Option Nat) (s : State) : State :=
  match post with
  | some tok => postToken c i tok s
  | none => s

/-- The caller that waited goes on. -/
def resumeCaller (c i : Nat) (s : State) : State := syncSite i (if (siteGet s i).active = some c then holdOff i s else s)

theorem landVote_of_waiting {c i n : Nat} {s : State} {post : Option Nat} {f : Bool} (h : waitingVote s c i = some (n, post, f))
    (res : Bool) : landVote c res s i = resumeCaller c i (postResult c i post (storeResult c res i s)) := by
  rw [waitingVote] at h
  simp only [landVote, h]
  rfl

theorem landVote_of_none {c i : Nat} {s : State} (h : waitingVote s c i = none) (res : Bool) : landVote c res s i = s := by
  rw [waitingVote] at h
  simp only [landVote, h]

theorem waitingVote_resumeCaller (c i : Nat) (s : State) (j : Nat) : waitingVote (resumeCaller c i s) c j = waitingVote s c j := by
  refine waitingVote_congr ?_
  rw [resumeCaller, tcGet_syncSite]
  split_ifs
  · exact (holdOff_only i s).tcGet_eq (by simp) c j
  · rfl

theorem waitingVote_postResult (c i : Nat) (post : Option Nat) (s : State) (j : Nat) :
    waitingVote (postResult c i post s) c j = waitingVote s c j := by
  cases post with
  | none => rfl
  | some tok => exact waitingVote_postToken c i tok s j

theorem waitingVote_storeResult (c : Nat) (res : Bool) (i : Nat) (s : State) (j : Nat) :
    waitingVote (storeResult c res i s) c j = if j = i then none else waitingVote s c j := by
  rw [storeResult, waitingVote, tcGet_tcMod, setF_eq, tcGet_setR, waitingVote]
  split_ifs
  · cases tcGet s c j <;> rfl
  · rfl

/-- The landing of a result on a tile ends the vote there, and on no other tile. -/
theorem waitingVote_landVote (c : Nat) (res : Bool) (s : State) (i j : Nat) :
    waitingVote (landVote c res s i) c j = if j = i then none else waitingVote s c j := by
  cases h : waitingVote s c i with
  | none =>
    rw [landVote_of_none h]
    split_ifs with hj
    · rw [hj, h]
    · rfl
  | some v =>
    obtain ⟨n, post, f⟩ := v
    rw [landVote_of_waiting h, waitingVote_resumeCaller, waitingVote_postResult, waitingVote_storeResult]

theorem waitingVote_landVotes (c : Nat) (res : Bool) (is : List Nat) (s : State) (j : Nat) :
    waitingVote (is.foldl (landVote c res) s) c j = if j ∈ is then none else waitingVote s c j := by
  induction is generalizing s with
  | nil => rfl
  | cons i is ih =>
    rw [List.foldl_cons, ih, waitingVote_landVote]
    by_cases hi : j = i <;> by_cases hmem : j ∈ is <;> simp [hi, hmem]

theorem storeResult_leavesTraining (c : Nat) (res : Bool) (i : Nat) (s : State) : LeavesTraining s (storeResult c res i s) := by
  have honly : Only s (storeResult c res i s) [Reg.CTX_FLAGS i (slotOf s c i)] [.ctxs] :=
    ((Only.refl s _ _).setR _ (by simp)).tcMod c i endVote (by simp)
  refine .of_only honly (fun k hk => ?_) (by simp)
  simp only [List.mem_singleton, Reg.CTX_FLAGS] at hk
  omega

theorem postResult_leavesTraining (c i : Nat) (post : Option Nat) (s : State) : LeavesTraining s (postResult c i post s) := by
  cases post with
  | none => exact .refl s
  | some tok => exact postToken_leavesTraining c i tok s

theorem resumeCaller_leavesTraining (c i : Nat) (s : State) : LeavesTraining s (resumeCaller c i s) := by
  have hoff : Only s (if (siteGet s i).active = some c then holdOff i s else s) (Reg.HOLD_CYCLES i :: statusRegs i) [.sites] :=
    ((holdOff_only i s).weaken (by simp) (by simp)).ite (Only.refl s _ _)
  refine .of_only (hoff.syncSite i (by simp +contextual)) (fun k hk => ?_) (by simp)
  simp only [statusRegs, List.mem_cons, List.not_mem_nil, or_false, Reg.HOLD_CYCLES, Reg.CALLER_STATUS, Reg.ARR_STATUS] at hk
  omega

/-- The landing of a result on a tile writes that tile's registers and what the context holds there. -/
theorem landVote_leavesTraining (c : Nat) (res : Bool) (s : State) (i : Nat) : LeavesTraining s (landVote c res s i) := by
  cases h : waitingVote s c i with
  | none => rw [landVote_of_none h]; exact .refl s
  | some v =>
    obtain ⟨n, post, f⟩ := v
    rw [landVote_of_waiting h]
    exact ((storeResult_leavesTraining c res i s).trans (postResult_leavesTraining c i post _)).trans (resumeCaller_leavesTraining c i _)

end Sys2Proof.Machine
end

section
/-! SUPPORT. The finite vote, its result, its messages and its timeout (R242-R246). -/

namespace Sys2Proof.Machine

/-! ### The training state -/

@[simp] theorem trainGet_trainMod_same (c : Nat) (f : Train → Train) (s : State) : trainGet (trainMod c f s) c = f (trainGet s c) := by
  simp [trainGet, trainMod, tgetD]

@[simp] theorem trainGet_setR (s : State) (k v c : Nat) : trainGet (setR s k v) c = trainGet s c := rfl

@[simp] theorem getR_trainMod (c : Nat) (f : Train → Train) (s : State) (k : Nat) : getR (trainMod c f s) k = getR s k := rfl

theorem trainMod_only (c : Nat) (f : Train → Train) (s : State) : Only s (trainMod c f s) [] [.train] :=
  (Only.refl s _ _).train _ (by simp)

/-! ### A result is applied (R242) -/

/-- A device with the result sends DOWN to every child. -/
def sendResult (x : Ctx) (step : Nat) (v : VoteRec) (res : Bool) (s : State) : State :=
  (childPorts v).foldl (fun s p => sendMsg p 1 (peerId s p) 32 (voteMessage x.pitch step v 1 res) s) s

/-- The cycles that a vote took from its chip flag on (R269). -/
def voteTook (s : State) (c : Nat) : Nat :=
  match (trainGet s c).vote.flag with
  | some (_, t) => s.timeBase - t
  | none => 0

/-- The training state once a vote has its result. -/
def endedVote (res : Bool) (t : Train) : Train :=
  { t with votesDone := t.votesDone + 1, result := some res, vote := { flag := none, ups := [] } }

/-- The result enters the training state, and the time of the vote its registers. -/
def recordResult (c : Nat) (res : Bool) (s : State) : State :=
  trainMod c (endedVote res) (maxR (setR s (Reg.VOTE_TIME c) (min (voteTook s c) 0xFFFFFFFF)) (Reg.VOTE_MAX c)
    (min (voteTook s c) 0xFFFFFFFF))

theorem applyVote_eq (c : Nat) (x : Ctx) (step : Nat) (v : VoteRec) (res : Bool) (s : State) :
    applyVote c x step v res s = (x.tiles.map (·.1)).foldl (landVote c res) (recordResult c res (sendResult x step v res s)) := rfl

theorem sendResult_leavesTraining (x : Ctx) (step : Nat) (v : VoteRec) (res : Bool) (s : State) :
    LeavesTraining s (sendResult x step v res s) :=
  .foldl (fun u p => sendMsg_leavesTraining p 1 (peerId u p) 32 _ u) _ s

theorem recordResult_only (c : Nat) (res : Bool) (s : State) :
    Only s (recordResult c res s) [Reg.VOTE_TIME c, Reg.VOTE_MAX c] [.train] :=
  (((Only.refl s _ _).setR _ (by simp)).setR _ (by simp)).train _ (by simp)

theorem mem_keys_of_tget {α : Type} {t : Tbl α} {k : Nat} (h : (tget t k).isSome = true) : k ∈ t.map (·.1) := by
  obtain ⟨v, hv⟩ := Option.isSome_iff_exists.mp h
  obtain ⟨e, he, -⟩ := Option.map_eq_some_iff.mp hv
  exact List.mem_map.mpr ⟨e, List.mem_of_find?_eq_some he, by simpa using List.find?_some he⟩

theorem landVotes_leavesTraining (c : Nat) (res : Bool) (s : State) (is : List Nat) : LeavesTraining s (is.foldl (landVote c res) s) :=
  .foldl (landVote_leavesTraining c res) is s

section ApplyVote

variable (c : Nat) (x : Ctx) (step : Nat) (v : VoteRec) (res : Bool) (s : State)

theorem trainGet_applyVote : trainGet (applyVote c x step v res s) c = endedVote res (trainGet s c) := by
  rw [applyVote_eq, (landVotes_leavesTraining c res _ _).trainGet_eq, recordResult, trainGet_trainMod_same, maxR_eq, trainGet_setR,
    trainGet_setR, (sendResult_leavesTraining x step v res s).trainGet_eq]

theorem applyVote_sameMemory : SameMemory s (applyVote c x step v res s) := by
  have hrecord : ∀ u, SameMemory u (recordResult c res u) := fun u =>
    SameMemory.of_only (recordResult_only c res u) (by simp) (by simp) (by simp) (by simp)
  exact ((sendResult_leavesTraining x step v res s).sameMemory.trans (hrecord _)).trans (landVotes_leavesTraining c res _ _).sameMemory

/-- No tile of the context waits for the vote any more. -/
theorem waitingVote_applyVote {i : Nat} (h : (tget x.tiles i).isSome = true) : waitingVote (applyVote c x step v res s) c i = none := by
  rw [applyVote_eq, waitingVote_landVotes, if_pos (mem_keys_of_tget h)]

variable {c s}

/-- A result in the cycle of the chip flag leaves VOTE_TIME at 0. -/
theorem getR_applyVote_time (hc : c < 64) {f : Bool} (hflag : (trainGet s c).vote.flag = some (f, s.timeBase)) :
    getR (applyVote c x step v res s) (Reg.VOTE_TIME c) = 0 := by
  have hsent := sendResult_leavesTraining x step v res s
  have htook : voteTook (sendResult x step v res s) c = 0 := by
    simp only [voteTook, hsent.trainGet_eq, hflag, hsent.timeBase_eq, Nat.sub_self]
  have hblock : 0x400000 ≤ Reg.VOTE_TIME c ∧ Reg.VOTE_TIME c < 0x500000 := by simp only [Reg.VOTE_TIME]; omega
  have hmax : Reg.VOTE_TIME c ≠ Reg.VOTE_MAX c := by simp [Reg.VOTE_TIME, Reg.VOTE_MAX]
  rw [applyVote_eq, (landVotes_leavesTraining c res _ _).getR_eq _ hblock.1 hblock.2, recordResult, getR_trainMod, maxR_eq,
    getR_setR_ne _ _ hmax, getR_setR_same, htook, Nat.zero_min, Nat.zero_mod]

end ApplyVote

/-! ### The chip flag enters the tree (R131, R242) -/

/-- The chip flag, with the time at which it was formed. -/
def enterFlag (f : Bool) (now : Nat) (t : Train) : Train := { t with vote := { t.vote with flag := some (f, now) } }

theorem chipFlag_eq {s : State} {c : Nat} {x : Ctx} {step id : Nat} {f : Bool} {v : VoteRec} (hx : training s c = some x)
    (hnext : nextVote s c x = some (step, id)) (hflags : tileFlags x id = some f) (hrec : voteRec x.pitch id = some v)
    (hhealthy : healthy s = true) (hawake : awake s = true) (hnone : (trainGet s c).vote.flag = none) :
    chipFlag c s = resolveVote c x step v (trainMod c (enterFlag f s.timeBase) s) := by
  simp only [chipFlag, hx, hnext, hflags, hrec, hhealthy, hawake, hnone, Option.isNone_none, Bool.and_self, if_true]
  rfl

section ResolveVote

variable {s : State} {c : Nat} (x : Ctx) (step : Nat) {v : VoteRec}

theorem resolveVote_of_no_flag (h : (trainGet s c).vote.flag = none) : resolveVote c x step v s = s := by
  simp only [resolveVote, h]

variable {f : Bool} {t : Nat} (hflag : (trainGet s c).vote.flag = some (f, t))
include hflag

theorem resolveVote_of_root (hups : ∀ p ∈ childPorts v, (tget (trainGet s c).vote.ups p).isSome = true) (hroot : isRoot v = true) :
    resolveVote c x step v s = applyVote c x step v (f || (trainGet s c).vote.ups.any (·.2)) s := by
  simp only [resolveVote, hflag, List.all_eq_true.mpr hups, hroot, if_true]

/-- A device waits while a child's UP is missing. -/
theorem resolveVote_of_missing (hups : ∃ p ∈ childPorts v, tget (trainGet s c).vote.ups p = none) : resolveVote c x step v s = s := by
  have hall : ((childPorts v).all fun p => (tget (trainGet s c).vote.ups p).isSome) = false := by
    obtain ⟨p, hp, hnone⟩ := hups
    exact List.all_eq_false.mpr ⟨p, hp, by simp [hnone]⟩
  simp only [resolveVote, hflag, hall, Bool.false_eq_true, if_false]

end ResolveVote

/-! ### Vote messages (R243, R246) -/

/-- A child's UP is held. -/
def holdUp (p : Nat) (flag : Bool) (t : Train) : Train := { t with vote := { t.vote with ups := tput t.vote.ups p flag } }

theorem voteStray_only (s : State) : Only s (voteStray s) [Reg.VOTE_CAUSE, Reg.VOTE_STRAYS] [] :=
  ((Only.refl s _ _).setR _ (by simp)).setR _ (by simp)

theorem getR_voteStray (s : State) : getR (voteStray s) Reg.VOTE_STRAYS = min (getR s Reg.VOTE_STRAYS + 1) 0xFFFFFFFF := by
  rw [voteStray, getR_satR_same, orR_eq, getR_setR_ne _ _ (by decide)]

theorem bitR_voteStray (s : State) : bitR (voteStray s) Reg.VOTE_CAUSE 0 = true := by
  rw [voteStray, satR_eq, bitR_setR_ne _ _ _ (by decide)]
  exact bitR_orR_same (by decide) (by decide)

section Messages

variable {s : State} {p dest : Nat} {body : Bytes} (herrs : s.errs = [])
include herrs

/-- A VOTE message meets no soft error. -/
theorem switchMeet_takeMessage (mine : Bool) : switchMeet p mine (takeMessage p 1 body s) = (takeMessage p 1 body s, true) :=
  have herrs' : (takeMessage p 1 body s).errs = s.errs := (takeMessage_only p 1 body s).2.1 .errs (by simp)
  switchMeet_of_no_errs (herrs'.trans herrs) p mine

variable (harrives : arrives s p body = true)
include harrives

theorem upIn_of_stray (h : voteBody dest 0 body (takeMessage p 1 body s) = none) :
    upIn p dest body s = voteStray (takeMessage p 1 body s) := by
  simp only [upIn, harrives, if_true, switchMeet_takeMessage herrs, Bool.not_true, Bool.false_eq_true, if_false, h]

theorem downIn_of_stray (h : voteBody dest 1 body (takeMessage p 1 body s) = none) :
    downIn p dest body s = voteStray (takeMessage p 1 body s) := by
  simp only [downIn, harrives, if_true, switchMeet_takeMessage herrs, Bool.not_true, Bool.false_eq_true, if_false, h]

variable {c : Nat} {x : Ctx} {step : Nat} {v : VoteRec}

theorem upIn_of_child (h : voteBody dest 0 body (takeMessage p 1 body s) = some (c, x, step, v)) (hport : p ∈ childPorts v)
    (hups : tget (trainGet s c).vote.ups p = none) : upIn p dest body s
      = resolveVote c x step v (trainMod c (holdUp p (fieldAt body 21 1 == 1)) (takeMessage p 1 body s)) := by
  have hups' : tget (trainGet (takeMessage p 1 body s) c).vote.ups p = none := by
    rw [(takeMessage_leavesTraining p 1 body s).trainGet_eq, hups]
  simp only [upIn, harrives, if_true, switchMeet_takeMessage herrs, Bool.not_true, Bool.false_eq_true, if_false, h,
    List.contains_iff_mem.mpr hport, hups', Option.isNone_none, Bool.and_self]
  rfl

theorem downIn_of_parent (h : voteBody dest 1 body (takeMessage p 1 body s) = some (c, x, step, v)) (hroot : isRoot v = false)
    (hport : v.parentPort = p) (hflag : (trainGet s c).vote.flag.isSome = true) :
    downIn p dest body s = applyVote c x step v (fieldAt body 21 1 == 1) (takeMessage p 1 body s) := by
  have hflag' : (trainGet (takeMessage p 1 body s) c).vote.flag.isSome = true := by
    rw [(takeMessage_leavesTraining p 1 body s).trainGet_eq, hflag]
  simp only [downIn, harrives, if_true, switchMeet_takeMessage herrs, Bool.not_true, Bool.false_eq_true, if_false, h, hroot,
    Bool.not_false, hport, beq_self_eq_true, hflag', Bool.and_self]

end Messages

/-! ### The timeout (R245) -/

theorem voteTimeout_eq {s : State} {c : Nat} {x : Ctx} {f : Bool} {t step id : Nat} {v : VoteRec} (hx : training s c = some x)
    (hflag : (trainGet s c).vote.flag = some (f, t)) (hnext : nextVote s c x = some (step, id)) (hrec : voteRec x.pitch id = some v)
    (hhealthy : healthy s = true) (hlate : t + v.timeout * 25 ≤ s.timeBase) :
    voteTimeout c s = chipFault 0x0E (c * 2 ^ 16 + id) (orR s (Reg.CTX_SWEEP_CAUSE c) 0x20) := by
  simp only [voteTimeout, hx, hflag, hnext, hrec, hhealthy, usAon, hlate, decide_true, Bool.and_self, if_true]

/-- The sequence of a chip fault begins in its AON cycle. -/
theorem chipFault_faultSeq {s : State} (h : s.faultSeq.phase = .none) (code detail : Nat) :
    (chipFault code detail s).faultSeq = { phase := .sequence, since := s.timeBase } := by
  have hseq : (wakeForFault (satR s Reg.FAULT_COUNT 1)).faultSeq = s.faultSeq :=
    (wakeForFault_only (satR s Reg.FAULT_COUNT 1)).2.1 .faultSeq (by simp)
  have ht : (wakeForFault (satR s Reg.FAULT_COUNT 1)).timeBase = s.timeBase := (faultWake_only s).2.2
  simp only [chipFault, hseq, h, if_true, ht]

/-- What a vote that times out leaves. -/
theorem voteTimeout_faults (s : State) (c : CtxId) {id : Nat} (hid : id < 65536) (hhealthy : healthy s = true) :
    let u := chipFault 0x0E (c.val * 2 ^ 16 + id) (orR s (Reg.CTX_SWEEP_CAUSE c) 0x20)
    bitR u (Reg.CTX_SWEEP_CAUSE c) 5 = true ∧ u.faultSeq = { phase := .sequence, since := s.timeBase }
      ∧ getR u Reg.FAULT_CODE = 0x0E * 0x1000000 + (c.val * 2 ^ 16 + id) ∧ SameMemory s u := by
  intro u
  set w := orR s (Reg.CTX_SWEEP_CAUSE c) 0x20
  have hphase : w.faultSeq.phase = .none := by
    simp only [healthy, Bool.and_eq_true, beq_iff_eq] at hhealthy
    exact hhealthy.1
  have hleaves : LeavesTraining w u := chipFault_leavesTraining _ _ _
  have hblock : 0x400000 ≤ Reg.CTX_SWEEP_CAUSE c ∧ Reg.CTX_SWEEP_CAUSE c < 0x500000 := by
    simp only [Reg.CTX_SWEEP_CAUSE]
    omega
  refine ⟨?_, chipFault_faultSeq hphase _ _, (chipFault_begins hphase (by omega)).2, ?_⟩
  · rw [bitR, hleaves.getR_eq _ hblock.1 hblock.2, ← bitR]
    exact bitR_orR_same (by decide) (by decide)
  · have hcause : Only s w [Reg.CTX_SWEEP_CAUSE c] [] := (Only.refl s _ _).setR _ (by simp)
    exact (SameMemory.of_only hcause (by simp) (by simp) (by simp) (by simp)).trans hleaves.sameMemory

/-! ### The obligation -/

/-- What the root leaves that has every child's UP as its chip flag forms. -/
theorem root_resolves {s : State} (c : CtxId) (x : Ctx) (step : Nat) (f : Bool) {v : VoteRec}
    (hups : ∀ p ∈ childPorts v, (tget (trainGet s c).vote.ups p).isSome = true) (hroot : isRoot v = true) :
    let u := resolveVote c x step v (trainMod c (enterFlag f s.timeBase) s)
    (trainGet u c).result = some (f || (trainGet s c).vote.ups.any (·.2)) ∧ (trainGet u c).votesDone = (trainGet s c).votesDone + 1
      ∧ (trainGet u c).vote = { flag := none, ups := [] } ∧ getR u (Reg.VOTE_TIME c) = 0 ∧ SameMemory s u
      ∧ (∀ site, (tget x.tiles site).isSome = true → (tcGet u c site).bind (·.vote) = none) := by
  have hentered : trainGet (trainMod c (enterFlag f s.timeBase) s) c = enterFlag f s.timeBase (trainGet s c) :=
    trainGet_trainMod_same _ _ _
  have hflag : (trainGet (trainMod c (enterFlag f s.timeBase) s) c).vote.flag
      = some (f, (trainMod c (enterFlag f s.timeBase) s).timeBase) := by rw [hentered]; rfl
  have hmemory : SameMemory s (trainMod c (enterFlag f s.timeBase) s) :=
    SameMemory.of_only (trainMod_only c _ s) (by simp) (by simp) (by simp) (by simp)
  intro u
  have hu : u = applyVote c x step v (f || (trainGet s c).vote.ups.any (·.2)) (trainMod c (enterFlag f s.timeBase) s) := by
    have := resolveVote_of_root x step hflag (v := v) (by rw [hentered]; exact hups) hroot
    rwa [hentered] at this
  have htrain : trainGet u c = endedVote (f || (trainGet s c).vote.ups.any (·.2)) (enterFlag f s.timeBase (trainGet s c)) := by
    rw [hu, trainGet_applyVote, hentered]
  refine ⟨by rw [htrain]; rfl, by rw [htrain]; rfl, by rw [htrain]; rfl, ?_, ?_, fun site hsite => ?_⟩
  · rw [hu]; exact getR_applyVote_time x step v _ c.isLt hflag
  · rw [hu]; exact hmemory.trans (applyVote_sameMemory _ _ _ _ _ _)
  · rw [hu]; exact waitingVote_applyVote _ _ _ _ _ _ hsite

/-- Settles O47: the vote's result enters the training state and its tiles wait no more, whether the root forms it or a DOWN brings it; an
UP is held, a message of no vote is counted, and a late result is a chip fault. -/
theorem votesResolve : Obligations.VotesResolve := by
  unfold Obligations.VotesResolve
  refine ⟨fun s c x step id f v hx hnext hflags hrec hhealthy hawake hnone => ?_, fun s t p dest c step body x v harrives herrs ht => ?_,
    fun s c x f t step id v hx hflag hnext hrec hhealthy hlate hid => ?_⟩
  · have hexec : exec (.chipFlag c) s = commit s (resolveVote c x step v (trainMod c (enterFlag f s.timeBase) s)) :=
      congrArg (commit s) (chipFlag_eq hx hnext hflags hrec hhealthy hawake hnone)
    refine ⟨fun hups hroot => Goes.of hexec (root_resolves c x step f hups hroot), fun hups => Goes.of hexec ?_⟩
    have hentered : trainGet (trainMod c (enterFlag f s.timeBase) s) c = enterFlag f s.timeBase (trainGet s c) :=
      trainGet_trainMod_same _ _ _
    rw [resolveVote_of_missing x step (f := f) (t := s.timeBase) (by rw [hentered]; rfl) (by rw [hentered]; exact hups), hentered]
    exact ⟨rfl, rfl, trainMod_only c _ s⟩
  · subst ht
    have htaken := takeMessage_leavesTraining p.val 1 body s
    have hstrays : getR (takeMessage p.val 1 body s) Reg.VOTE_STRAYS = getR s Reg.VOTE_STRAYS := htaken.getR_eq _ (by decide) (by decide)
    have hstray : (voteStray (takeMessage p.val 1 body s)).train = s.train := htaken.train_eq
    have hcount := (getR_voteStray (takeMessage p.val 1 body s)).trans (by rw [hstrays])
    refine ⟨fun h hport hups hnone => ?_, fun h hroot hport hflag => ?_, fun h => ?_, fun h => ?_⟩
    · refine Goes.of (congrArg (commit s) (upIn_of_child herrs harrives h hport hups)) ?_
      have hheld : trainGet (trainMod c (holdUp p (fieldAt body 21 1 == 1)) (takeMessage p.val 1 body s)) c
          = holdUp p (fieldAt body 21 1 == 1) (trainGet s c) := by rw [trainGet_trainMod_same, htaken.trainGet_eq]
      rw [resolveVote_of_no_flag x step (by rw [hheld]; exact hnone), hheld]
      exact ⟨by rw [holdUp, ← hnone], trainMod_only c _ _⟩
    · refine Goes.of (congrArg (commit s) (downIn_of_parent herrs harrives h hroot hport hflag)) ?_
      rw [trainGet_applyVote, htaken.trainGet_eq]
      exact ⟨rfl, rfl, rfl, htaken.sameMemory.trans (applyVote_sameMemory _ _ _ _ _ _)⟩
    · exact Goes.of (congrArg (commit s) (upIn_of_stray herrs harrives h)) ⟨hcount, bitR_voteStray _, hstray⟩
    · exact Goes.of (congrArg (commit s) (downIn_of_stray herrs harrives h)) ⟨hcount, hstray⟩
  · exact Goes.of (congrArg (commit s) (voteTimeout_eq hx hflag hnext hrec hhealthy hlate)) (voteTimeout_faults s c hid hhealthy)

end Sys2Proof.Machine
end

section
/-! SUPPORT. Serving contexts (R277-R301): which pieces of the state an effect keeps, what a serving context reads after its updates, and
pages that have been zeroed. -/

namespace Sys2Proof.Machine

/-! ### The pieces that an effect keeps -/

/-- Every piece but those of `ps` is as before; registers and time may differ. -/
def KeepsBut (ps : List Piece) (s u : State) : Prop := ∀ p, p ∉ ps → p.kept s u

namespace KeepsBut

variable {ps qs : List Piece} {s u w : State}

theorem of_only {ks : List Nat} (h : Only s u ks ps) : KeepsBut ps s u := h.2.1

theorem of_regsOnly (h : RegsOnly s u) : KeepsBut ps s u := by
  obtain ⟨_, rfl⟩ := h
  intro p _
  have hkept := (Only.refl s [] []).2.1 p (by simp)
  cases p <;> exact hkept

theorem refl (ps : List Piece) (s : State) : KeepsBut ps s s := of_only (Only.refl s [] ps)

theorem trans (a : KeepsBut ps s u) (b : KeepsBut ps u w) : KeepsBut ps s w := fun p hp => Only.kept_trans p (a p hp) (b p hp)

theorem weaken (h : KeepsBut qs s u) (hsub : ∀ p ∈ qs, p ∈ ps) : KeepsBut ps s u := fun p hp => h p fun hq => hp (hsub p hq)

theorem setR (h : KeepsBut ps s u) (k v : Nat) : KeepsBut ps s (setR u k v) :=
  h.trans (of_regsOnly ((RegsOnly.refl u).setR k v))

theorem foldl {α : Type} {f : State → α → State} (hf : ∀ u a, KeepsBut ps u (f u a)) (as : List α) (s : State) :
    KeepsBut ps s (as.foldl f s) := by
  induction as generalizing s with
  | nil => exact refl ps s
  | cons a as ih => exact (hf s a).trans (ih _)

theorem serveGet_eq (h : KeepsBut ps s u) (hp : Piece.serves ∉ ps) (c : Nat) : serveGet u c = serveGet s c :=
  congrArg (tget · c) (h .serves hp)

theorem ctxGet_eq (h : KeepsBut ps s u) (hp : Piece.ctxs ∉ ps) (c : Nat) : ctxGet u c = ctxGet s c := congrArg (tget · c) (h .ctxs hp)

theorem ctxOf_eq (h : KeepsBut ps s u) (hc : Piece.ctxs ∉ ps) (hf : Piece.ctxFn ∉ ps) (f c : Nat) : ctxOf u f c = ctxOf s f c := by
  have hfn : u.ctxFn = s.ctxFn := h .ctxFn hf
  rw [ctxOf, ctxOf, hfn, h.ctxGet_eq hc]

theorem objGet_eq (h : KeepsBut ps s u) (hp : Piece.objs ∉ ps) (f o : Nat) : objGet u f o = objGet s f o := by
  have hobjs : u.objs = s.objs := h .objs hp
  rw [objGet, objGet, hobjs]

theorem ctxObj_eq (h : KeepsBut ps s u) (hp : Piece.objs ∉ ps) (x : Ctx) (id : Nat) : ctxObj u x id = ctxObj s x id := by
  simp only [ctxObj, h.objGet_eq hp]

theorem openServe_eq (h : KeepsBut ps s u) (hs : Piece.serves ∉ ps) (hc : Piece.ctxs ∉ ps) (hf : Piece.ctxFn ∉ ps) (f c : Nat) :
    openServe u f c = openServe s f c := by
  rw [openServe, openServe, h.ctxOf_eq hc hf, h.serveGet_eq hs]

theorem sameMemory (h : KeepsBut ps s u) (hnear : Piece.near ∉ ps) (htile : Piece.tileStore ∉ ps) (hhost : Piece.host ∉ ps)
    (hptab : Piece.ptab ∉ ps) : SameMemory s u := ⟨h _ hnear, h _ htile, h _ hhost, h _ hptab⟩

end KeepsBut

theorem took_keepsBut (i : Instr) (s : State) : KeepsBut [.taken] s (took i s) := KeepsBut.of_only (took_only i s)

theorem finish_keepsBut (h : CmdHdr) (code detail extra : Nat) (s : State) : KeepsBut completePieces s (finish h code detail extra s) :=
  KeepsBut.of_only (complete_only _ _ _ _ _ _)

/-- A request that leaves draws a free value for its wait. -/
theorem leave_keepsBut (id : Nat) (s : State) : KeepsBut [.uns, .freeCtr] s (leave id s) := by
  unfold leave
  split
  · exact KeepsBut.refl _ s
  · exact KeepsBut.setR (KeepsBut.of_only (((Only.refl s [] _).uns _ (by simp)).freeCtr _ (by simp))) _ _

/-! ### The registers that follow the serving contexts (R299-R301) -/

/-- SERVE_STATE or PEGS of a context, PEG_POOL or POOL_RESERVED. -/
def ShowsServing (k : Nat) : Prop := k = Reg.PEG_POOL ∨ k = Reg.POOL_RESERVED ∨ ∃ c, k = Reg.SERVE_STATE c ∨ k = Reg.PEGS c

theorem syncServes_fold_regsOnly (es : Tbl Serve) {s u : State} (h : RegsOnly s u) : RegsOnly s (es.foldl syncServe u) := by
  induction es generalizing u with
  | nil => exact h
  | cons e es ih => exact ih ((h.setR _ _).setR _ _)

theorem syncServeRegs_regsOnly (s : State) : RegsOnly s (syncServeRegs s) :=
  ((syncServes_fold_regsOnly s.serves (RegsOnly.refl s)).setR _ _).setR _ _

theorem syncServeRegs_keepsBut (s : State) : KeepsBut [] s (syncServeRegs s) := KeepsBut.of_regsOnly (syncServeRegs_regsOnly s)

theorem getR_syncServes_fold {k : Nat} (hk : ¬ ShowsServing k) (es : Tbl Serve) (s : State) : getR (es.foldl syncServe s) k = getR s k := by
  induction es generalizing s with
  | nil => rfl
  | cons e es ih =>
    have hstate : k ≠ Reg.SERVE_STATE e.1 := fun h => hk (.inr (.inr ⟨_, .inl h⟩))
    have hpegs : k ≠ Reg.PEGS e.1 := fun h => hk (.inr (.inr ⟨_, .inr h⟩))
    rw [List.foldl_cons, ih, syncServe, getR_setR_ne _ _ hpegs, getR_setR_ne _ _ hstate]

theorem getR_syncServeRegs {k : Nat} (hk : ¬ ShowsServing k) (s : State) : getR (syncServeRegs s) k = getR s k := by
  have hpool : k ≠ Reg.PEG_POOL := fun h => hk (.inl h)
  have hreserved : k ≠ Reg.POOL_RESERVED := fun h => hk (.inr (.inl h))
  rw [syncServeRegs, getR_setR_ne _ _ hreserved, getR_setR_ne _ _ hpool, getR_syncServes_fold hk]

/-! ### A serving context after its updates -/

theorem tget_map {α β : Type} (f : Nat → α → β) (t : Tbl α) (k : Nat) : tget (t.map fun e => (e.1, f e.1 e.2)) k = (tget t k).map (f k) := by
  induction t with
  | nil => rfl
  | cons e t ih =>
    rw [List.map_cons, tget_cons, tget_cons, ih]
    by_cases he : e.1 = k <;> simp [he]

/-- A serving context with the time since which its next batch may start (R283). -/
def readied (s : State) (c : Nat) (v : Serve) : Serve :=
  { v with ready := if mayStart s c v then some (v.ready.getD s.timeBase) else none }

theorem syncServes_keepsBut (s : State) : KeepsBut [.serves] s (syncServes s) := by
  have hready : KeepsBut [.serves] s { s with serves := s.serves.map fun e => (e.1, readied s e.1 e.2) } :=
    KeepsBut.of_only ((Only.refl s [] _).serves _ (by simp))
  exact hready.trans ((syncServeRegs_keepsBut _).weaken (by simp))

theorem serveGet_syncServes (s : State) (c : Nat) : serveGet (syncServes s) c = (serveGet s c).map (readied s c) :=
  ((syncServeRegs_keepsBut _).serveGet_eq (by simp) c).trans (tget_map (readied s) s.serves c)

theorem getR_syncServes {k : Nat} (hk : ¬ ShowsServing k) (s : State) : getR (syncServes s) k = getR s k := getR_syncServeRegs hk _

theorem serveMod_keepsBut (c : Nat) (g : Serve → Serve) (s : State) : KeepsBut [.serves] s (serveMod c g s) := by
  unfold serveMod
  split
  · exact (KeepsBut.of_only ((Only.refl s [] _).serves _ (by simp))).trans (syncServes_keepsBut _)
  · exact KeepsBut.refl _ s

@[simp] theorem serveMod_near (c : Nat) (g : Serve → Serve) (s : State) : (serveMod c g s).near = s.near := by
  unfold serveMod
  split
  · exact (syncServeRegs_regsOnly _).near_eq
  · rfl

theorem serveMod_sameMemory (c : Nat) (g : Serve → Serve) (s : State) : SameMemory s (serveMod c g s) :=
  (serveMod_keepsBut c g s).sameMemory (by simp) (by simp) (by simp) (by simp)

/-- A changed serving context reads as changed, but for the time since which its next batch may start. -/
theorem serveGet_serveMod {s : State} {c : Nat} {v : Serve} (h : serveGet s c = some v) (g : Serve → Serve) :
    ∃ r, serveGet (serveMod c g s) c = some { g v with ready := r } := by
  have hput : serveGet { s with serves := tput s.serves c (g v) } c = some (g v) := tget_tput_same _ _ _
  have hmod : serveMod c g s = syncServes { s with serves := tput s.serves c (g v) } := by rw [serveMod, h]
  exact ⟨_, by rw [hmod, serveGet_syncServes, hput]; rfl⟩

theorem getR_serveMod {k : Nat} (hk : ¬ ShowsServing k) (c : Nat) (g : Serve → Serve) (s : State) :
    getR (serveMod c g s) k = getR s k := by
  unfold serveMod
  split
  · exact getR_syncServes hk _
  · rfl

/-! ### Zeroed pages (R279, R287, R297) -/

/-- Every near-store page of a list reads as zeros. -/
def Zeroed (s : State) (ps : List PageLoc) : Prop :=
  ∀ st n k, PageLoc.near st n ∈ ps → frameAddr st n ≤ k → k < frameAddr st n + pageSize → mget s.near k = 0#8

theorem KeepsBut.zeroed {qs : List Piece} {s u : State} (h : KeepsBut qs s u) (hnear : Piece.near ∉ qs) {ps : List PageLoc}
    (hz : Zeroed s ps) : Zeroed u ps := fun st n k hmem hlo hhi => (h .near hnear k).trans (hz st n k hmem hlo hhi)

theorem mget_mzero (m : Tbl Byte) (a n x : Nat) : mget (mzero m a n) x = if a ≤ x ∧ x < a + n then 0#8 else mget m x := by
  unfold mget tgetD mzero
  induction m with
  | nil => simp
  | cons e m ih =>
    by_cases he : e.1 < a ∨ a + n ≤ e.1
    · rw [List.filter_cons_of_pos (by simpa using he), tget_cons, tget_cons]
      by_cases hx : e.1 = x
      · rw [if_pos hx, if_pos hx, if_neg (by omega)]
      · rw [if_neg hx, if_neg hx, ih]
    · rw [List.filter_cons_of_neg (by simpa using he), ih, tget_cons]
      split_ifs with hin hx
      · rfl
      · omega
      · rfl

/-- One page is zeroed: a page of the near store here. -/
def zeroPage (s : State) : PageLoc → State
  | .near st n =>
    { s with near := mzero s.near (frameAddr st n) pageSize, poison := s.poison.filter (fun k => !inPage (frameAddr st n) k),
             errs := s.errs.filter (fun e => !(sectorOf e).any (inPage (frameAddr st n))) }
  | .far _ => s

theorem zeroPages_eq (s : State) (ps : List PageLoc) : zeroPages s ps = ps.foldl zeroPage s := by
  unfold zeroPages
  congr 1

theorem zeroPage_keepsBut (s : State) (p : PageLoc) : KeepsBut [.near, .poison, .errs] s (zeroPage s p) := by
  cases p with
  | near st n =>
    have hnear := (Only.refl s [] [.near, .poison, .errs]).near (mzero s.near (frameAddr st n) pageSize) (by simp)
    exact KeepsBut.of_only ((hnear.poison _ (by simp)).errs _ (by simp))
  | far j => exact KeepsBut.refl _ s

theorem mget_zeroPage {s : State} {p : PageLoc} {k : Nat}
    (h : mget s.near k = 0#8 ∨ ∃ st n, p = .near st n ∧ frameAddr st n ≤ k ∧ k < frameAddr st n + pageSize) :
    mget (zeroPage s p).near k = 0#8 := by
  cases p with
  | near st n =>
    refine (mget_mzero _ _ _ _).trans ?_
    split_ifs with hin
    · rfl
    · rcases h with h | ⟨_, _, hp, hlo, hhi⟩
      · exact h
      · cases hp; exact absurd ⟨hlo, hhi⟩ hin
  | far j =>
    rcases h with h | ⟨_, _, hp, -, -⟩
    · exact h
    · cases hp

/-- A byte reads as zero after its page was zeroed, and after any other was. -/
theorem mget_zeroPages {ps : List PageLoc} {s : State} {k : Nat}
    (h : mget s.near k = 0#8 ∨ ∃ st n, PageLoc.near st n ∈ ps ∧ frameAddr st n ≤ k ∧ k < frameAddr st n + pageSize) :
    mget (zeroPages s ps).near k = 0#8 := by
  rw [zeroPages_eq]
  induction ps generalizing s with
  | nil => simpa using h
  | cons p ps ih =>
    refine ih ?_
    rcases h with h | ⟨st, n, hmem, hlo, hhi⟩
    · exact .inl (mget_zeroPage (.inl h))
    · rcases List.mem_cons.mp hmem with rfl | hmem
      · exact .inl (mget_zeroPage (.inr ⟨st, n, rfl, hlo, hhi⟩))
      · exact .inr ⟨st, n, hmem, hlo, hhi⟩

section ClearPages

variable (f : Nat) (ps : List PageLoc) (s : State)

/-- The far pages are zeroed in host memory. -/
theorem clearPages_host : KeepsBut [.host] (zeroPages s ps) (clearPages f ps s) := by
  refine KeepsBut.foldl (fun u p => ?_) ps (zeroPages s ps)
  split
  · exact KeepsBut.of_only ((Only.refl u [] _).host _ (by simp))
  · exact KeepsBut.refl _ u

theorem clearPages_keepsBut : KeepsBut [.near, .poison, .errs, .host] s (clearPages f ps s) := by
  have hnear : KeepsBut [.near, .poison, .errs, .host] s (zeroPages s ps) := by
    rw [zeroPages_eq]
    exact KeepsBut.foldl (fun u p => (zeroPage_keepsBut u p).weaken (by simp)) ps s
  exact hnear.trans ((clearPages_host f ps s).weaken (by simp))

theorem zeroed_clearPages : Zeroed (clearPages f ps s) ps :=
  (clearPages_host f ps s).zeroed (by simp) fun st n _ hmem hlo hhi => mget_zeroPages (.inr ⟨st, n, hmem, hlo, hhi⟩)

variable {s}

theorem Zeroed.clearPages {qs : List PageLoc} (h : Zeroed s qs) : Zeroed (clearPages f ps s) qs :=
  (clearPages_host f ps s).zeroed (by simp) fun st n k hmem hlo hhi => mget_zeroPages (.inl (h st n k hmem hlo hhi))

end ClearPages

end Sys2Proof.Machine
end

section
/-! SUPPORT. SERVE_OPEN, SERVE_CLOSE and the close of serving (R277-R279, R297, R301). -/

namespace Sys2Proof.Machine

/-! ### SERVE_OPEN (R277-R279) -/

/-- The own pages of a window's object are zeroed (R279). -/
def clearWindow (x : Ctx) (s : State) (id : Nat) : State :=
  match ctxObj s x id with
  | some (_, some o) => clearPages x.fn o.pages s
  | _ => s

/-- Serving as it opens: nothing is pegged, accepted or staged. -/
def openedServe (x : Ctx) (a : ServeArgs) (list : Bytes) (frames : List PageLoc) : Serve where
  a := a
  shape := crc32c list
  pages := ceilDiv (imageLength a.rank (targetsOf list)) pageSize
  length := imageLength a.rank (targetsOf list)
  frames := frames
  pegs := []
  copies := []
  batches := []
  nextStart := 0
  binds := []
  staged := []
  turn := none
  closing := none
  ready := none
  base := minSteps x

/-- The windows are cleared and the serving block is reset. -/
def clearedForServing (x : Ctx) (a : ServeArgs) (s : State) : State :=
  resetRange ((windowIds a).foldl (clearWindow x) s) (Reg.SERVE_STATE a.ctx) (Reg.SERVE_STATE a.ctx + 0x80)

/-- The serving context stands in the table. -/
def withServe (c : Nat) (v : Serve) (s : State) : State := { s with serves := tput s.serves c v }

theorem withServe_keepsBut (c : Nat) (v : Serve) (s : State) : KeepsBut [.serves] s (withServe c v s) :=
  KeepsBut.of_only ((Only.refl s [] _).serves _ (by simp))

theorem serveBegin_eq (x : Ctx) (a : ServeArgs) (list : Bytes) (frames : List PageLoc) (s : State) :
    serveBegin x a list frames s = syncServes (withServe a.ctx (openedServe x a list frames) (clearedForServing x a s)) := rfl

theorem resetRange_keepsBut (s : State) (a b : Nat) : KeepsBut [] s (resetRange s a b) :=
  KeepsBut.of_regsOnly ⟨_, rfl⟩

theorem clearWindow_keepsBut (x : Ctx) (s : State) (id : Nat) : KeepsBut [.near, .poison, .errs, .host] s (clearWindow x s id) := by
  unfold clearWindow
  split
  · exact clearPages_keepsBut _ _ _
  · exact KeepsBut.refl _ s

theorem Zeroed.clearWindow {s : State} {ps : List PageLoc} (h : Zeroed s ps) (x : Ctx) (id : Nat) : Zeroed (clearWindow x s id) ps := by
  unfold Machine.clearWindow
  split
  · exact h.clearPages _ _
  · exact h

theorem Zeroed.clearWindows {s : State} {ps : List PageLoc} (h : Zeroed s ps) (x : Ctx) (ids : List Nat) :
    Zeroed (ids.foldl (Machine.clearWindow x) s) ps := by
  induction ids generalizing s with
  | nil => exact h
  | cons id ids ih => exact ih (h.clearWindow x id)

theorem zeroed_clearWindow {x : Ctx} {s : State} {id : Nat} {r : ObjRec} {o : Obj} (h : ctxObj s x id = some (r, some o)) :
    Zeroed (clearWindow x s id) o.pages := by
  simp only [clearWindow, h]
  exact zeroed_clearPages _ _ _

theorem zeroed_clearWindows {x : Ctx} {s : State} {id : Nat} {r : ObjRec} {o : Obj} {ids : List Nat} (hmem : id ∈ ids)
    (h : ctxObj s x id = some (r, some o)) : Zeroed (ids.foldl (clearWindow x) s) o.pages := by
  induction ids generalizing s with
  | nil => cases hmem
  | cons j ids ih =>
    rcases List.mem_cons.mp hmem with rfl | hmem
    · exact (zeroed_clearWindow h).clearWindows x ids
    · exact ih hmem (((clearWindow_keepsBut x s j).ctxObj_eq (by simp) x id).trans h)

section ServeBegin

variable (x : Ctx) (a : ServeArgs) (list : Bytes) (frames : List PageLoc) (s : State)

theorem cleared_keepsBut : KeepsBut [.near, .poison, .errs, .host] s (clearedForServing x a s) :=
  (KeepsBut.foldl (clearWindow_keepsBut x) (windowIds a) s).trans ((resetRange_keepsBut _ _ _).weaken (by simp))

theorem opened_keepsBut : KeepsBut [.serves] (clearedForServing x a s) (serveBegin x a list frames s) := by
  rw [serveBegin_eq]
  exact (withServe_keepsBut _ _ _).trans (syncServes_keepsBut _)

theorem serveBegin_keepsBut : KeepsBut [.near, .poison, .errs, .host, .serves] s (serveBegin x a list frames s) :=
  ((cleared_keepsBut x a s).weaken (by simp)).trans ((opened_keepsBut x a list frames s).weaken (by simp))

theorem serveGet_serveBegin : ∃ r, serveGet (serveBegin x a list frames s) a.ctx
    = some { openedServe x a list frames with ready := r } := by
  have hput : serveGet (withServe a.ctx (openedServe x a list frames) (clearedForServing x a s)) a.ctx
      = some (openedServe x a list frames) := tget_tput_same _ _ _
  exact ⟨_, by rw [serveBegin_eq, serveGet_syncServes, hput]; rfl⟩

variable {x a s}

theorem zeroed_serveBegin {id : Nat} {r : ObjRec} {o : Obj} (hid : id ∈ windowIds a) (h : ctxObj s x id = some (r, some o)) :
    Zeroed (serveBegin x a list frames s) o.pages :=
  (opened_keepsBut x a list frames s).zeroed (by simp)
    ((resetRange_keepsBut _ _ _).zeroed (by simp) (zeroed_clearWindows hid h))

end ServeBegin

/-- Where no check of R278 fails, serving opens. -/
theorem serveOpen_eq {h : CmdHdr} {a : ServeArgs} {s v : State} {x : Ctx} {list : Bytes} {frames : List PageLoc}
    (hx : ctxOf s h.fn.val a.ctx = some x) (hserves : x.pitch.flags.testBit 1 = true) (htrains : x.pitch.flags.testBit 0 = false)
    (hnone : serveGet s a.ctx = none) (hfields : serveFieldsOk a = true)
    (hread : devRead h.fn.val a.targetAddr (8 * a.targets) s = (v, 0, list)) (hcheck : serveCheck h.fn.val x a list v = .ok frames) :
    serveOpen h a s = finish h 0 0 0 (serveBegin x a list frames v) := by
  simp [serveOpen, hx, hserves, htrains, hnone, hfields, hread, hcheck]

/-! ### The close of serving (R297, R301) -/

/-- Commands complete one after another with one code. -/
def finishAll (code : Nat) (hs : List CmdHdr) (s : State) : State := hs.foldl (fun s h => finish h code 0 0 s) s

theorem finishAll_keepsBut (code : Nat) (hs : List CmdHdr) (s : State) : KeepsBut completePieces s (finishAll code hs s) :=
  KeepsBut.foldl (fun u h => finish_keepsBut h code 0 0 u) hs s

/-- The pieces that abandoned copies and completed commands may change. -/
def closingPieces : List Piece := .serves :: .uns :: .freeCtr :: completePieces

theorem dropCopy_keepsBut (code : Nat) (s : State) (k : PegCopy) :
    KeepsBut (.uns :: .freeCtr :: completePieces) s (finish k.hdr code 0 0 (leave k.req s)) :=
  ((leave_keepsBut k.req s).weaken (by simp)).trans ((finish_keepsBut _ _ _ _ _).weaken (by simp +contextual))

section DropCopies

variable {s : State} {c : Nat} {v : Serve} (hv : serveGet s c = some v) (code : Nat)
include hv

theorem dropCopies_eq : dropCopies c code s = serveMod c (fun v => { v with copies := [] })
    (v.copies.foldl (fun s k => finish k.hdr code 0 0 (leave k.req s)) s) := by
  rw [dropCopies, hv]

theorem dropCopies_keepsBut : KeepsBut closingPieces s (dropCopies c code s) := by
  rw [dropCopies_eq hv]
  exact ((KeepsBut.foldl (dropCopy_keepsBut code) v.copies s).weaken (by simp +contextual [closingPieces])).trans
    ((serveMod_keepsBut _ _ _).weaken (by simp [closingPieces]))

theorem serveGet_dropCopies : ∃ r, serveGet (dropCopies c code s) c = some { v with copies := [], ready := r } := by
  have hfold := (KeepsBut.foldl (dropCopy_keepsBut code) v.copies s).serveGet_eq (by simp [completePieces]) c
  rw [dropCopies_eq hv]
  exact serveGet_serveMod (hfold.trans hv) _

end DropCopies

section ServeGone

variable {s : State} {c : Nat} {v : Serve} (hv : serveGet s c = some v)
include hv

/-- The pool is cleared once the context no longer serves, and the block shows it closed. -/
theorem serveGone_syncs : ∃ u, KeepsBut [] (clearPages 0 v.frames { s with serves := tdel s.serves c }) u ∧ serveGone c s = syncServes u :=
  ⟨_, (((KeepsBut.refl [] _).setR _ _).setR _ _).setR _ _, by simp only [serveGone, hv]; rfl⟩

theorem serveGone_keepsBut : KeepsBut [.serves, .near, .poison, .errs, .host] s (serveGone c s) := by
  obtain ⟨u, hu, heq⟩ := serveGone_syncs hv
  have hdel : KeepsBut [.serves] s { s with serves := tdel s.serves c } := KeepsBut.of_only ((Only.refl s [] _).serves _ (by simp))
  rw [heq]
  exact (((hdel.weaken (by simp)).trans ((clearPages_keepsBut _ _ _).weaken (by simp))).trans (hu.weaken (by simp))).trans
    ((syncServes_keepsBut u).weaken (by simp))

theorem serveGet_serveGone : serveGet (serveGone c s) c = none := by
  obtain ⟨u, hu, heq⟩ := serveGone_syncs hv
  have hnone : serveGet { s with serves := tdel s.serves c } c = none := tget_tdel_same _ _
  rw [heq, serveGet_syncServes, hu.serveGet_eq (by simp), (clearPages_keepsBut _ _ _).serveGet_eq (by simp), hnone]
  rfl

theorem zeroed_serveGone : Zeroed (serveGone c s) v.frames := by
  obtain ⟨u, hu, heq⟩ := serveGone_syncs hv
  rw [heq]
  exact (syncServes_keepsBut u).zeroed (by simp) (hu.zeroed (by simp) (zeroed_clearPages _ _ _))

end ServeGone

section ServeEnd

variable {s : State} {c : Nat} {v : Serve} (hv : serveGet s c = some v) (hturn : v.turn = none)
include hv hturn

theorem serveEnd_eq : serveEnd c false s
    = finishAll 0 (v.closing.getD []) (serveGone c (finishAll 2 (v.pegs.filterMap (·.hdr)) (dropCopies c 0x0C s))) := by
  simp [serveEnd, finishAll, hv, hturn]

/-- With no commit under way the close abandons copies and ends pegs, frees the pool, and completes the commands that wait for it. -/
theorem serveEnd_closes : KeepsBut (.near :: .poison :: .errs :: closingPieces) s (serveEnd c false s)
    ∧ serveGet (serveEnd c false s) c = none ∧ Zeroed (serveEnd c false s) v.frames := by
  obtain ⟨r, hdropped⟩ := serveGet_dropCopies hv 0x0C
  have hended := finishAll_keepsBut 2 (v.pegs.filterMap (·.hdr)) (dropCopies c 0x0C s)
  have hget := (hended.serveGet_eq (by simp [completePieces]) c).trans hdropped
  have hzeroed := zeroed_serveGone hget
  have hclosed := finishAll_keepsBut 0 (v.closing.getD []) (serveGone c (finishAll 2 (v.pegs.filterMap (·.hdr)) (dropCopies c 0x0C s)))
  rw [serveEnd_eq hv hturn]
  refine ⟨?_, ?_, hclosed.zeroed (by simp [completePieces]) hzeroed⟩
  · have hpegs : KeepsBut (.near :: .poison :: .errs :: closingPieces) s _ :=
      ((dropCopies_keepsBut hv 0x0C).weaken (by simp +contextual)).trans (hended.weaken (by simp +contextual [closingPieces]))
    exact (hpegs.trans ((serveGone_keepsBut hget).weaken (by simp [closingPieces, completePieces]))).trans
      (hclosed.weaken (by simp +contextual [closingPieces]))
  · rw [hclosed.serveGet_eq (by simp [completePieces]), serveGet_serveGone hget]

theorem closedEv_eq (hclosing : v.closing.isSome = true) (hbatches : v.batches = []) (hphase : s.faultSeq.phase = .none) :
    closedEv c s = serveEnd c false s := by
  simp [closedEv, hv, hturn, hclosing, hbatches, hphase]

end ServeEnd

/-- SERVE_CLOSE where serving is open waits for the end of the batches. -/
theorem serveClose_eq {h : CmdHdr} {c : Nat} {s : State} {v : Serve} (hx : (ctxOf s h.fn.val c).isSome = true)
    (hv : serveGet s c = some v) : serveClose h c s = serveMod c (fun v => { v with closing := some (v.closing.getD [] ++ [h]) }) s := by
  have hopen : ¬ ((ctxOf s h.fn.val c).isNone ∨ (serveGet s c).isNone) := by simp [hv, Option.isSome_iff_ne_none.mp hx]
  exact if_neg hopen

/-- Settles O37: serving opens with its pool's frames and zeroed windows, SERVE_CLOSE waits in it, and once its batches and its commit have
ended it closes with its frames zeroed. -/
theorem servingOpensAndCloses : Obligations.ServingOpensAndCloses := by
  unfold Obligations.ServingOpensAndCloses
  refine ⟨?opens, ?waits, ?closes⟩
  case opens =>
    intro s v h a x list frames hready hx hserves htrains hnone hfields hread hcheck
    have htook := took_keepsBut (.serveOpen h a) s
    have hopen := serveOpen_eq ((htook.ctxOf_eq (by simp) (by simp) _ _).trans hx) hserves htrains
      ((htook.serveGet_eq (by simp) _).trans hnone) hfields hread hcheck
    have hexec : exec (.serveOpen h a) s = commit s (finish h 0 0 0 (serveBegin x a list frames v)) :=
      congrArg (commit s) ((hostCmd_of_ready hready rfl h .refused (serveOpen h a)).trans hopen)
    have hkept := serveBegin_keepsBut x a list frames v
    obtain ⟨r, hget⟩ := serveGet_serveBegin x a list frames v
    refine Ends.of hexec ⟨⟨_, hget, rfl, rfl, rfl, rfl, rfl, rfl, rfl, rfl, rfl⟩, ?_, hkept .objs (by simp), hkept .ctxs (by simp)⟩
    intro id r o st n k hid hobj
    exact zeroed_serveBegin list frames hid hobj st n k
  case waits =>
    intro s h c v hready hx hv
    have htook := took_keepsBut (.serveClose h c) s
    have hget := (htook.serveGet_eq (by simp) c).trans hv
    have hclose := serveClose_eq (by rw [htook.ctxOf_eq (by simp) (by simp), hx]) hget
    obtain ⟨r, hset⟩ := serveGet_serveMod hget fun v => { v with closing := some (v.closing.getD [] ++ [h]) }
    exact Goes.of (congrArg (commit s) ((hostCmd_of_ready hready rfl h .refused (serveClose h c)).trans hclose))
      ⟨⟨_, hset, rfl, rfl, rfl⟩, (htook.sameMemory (by simp) (by simp) (by simp) (by simp)).trans (serveMod_sameMemory _ _ _)⟩
  case closes =>
    intro s c v hv hclosing hbatches hturn hphase
    obtain ⟨hkept, hgone, hzeroed⟩ := serveEnd_closes hv hturn
    exact Goes.of (congrArg (commit s) (closedEv_eq hv hturn hclosing hbatches hphase))
      ⟨hgone, hzeroed, hkept .ctxs (by simp [closingPieces, completePieces]), hkept .objs (by simp [closingPieces, completePieces]),
        hkept .tileStore (by simp [closingPieces, completePieces])⟩

end Sys2Proof.Machine
end

section
/-! SUPPORT. Pegs (R284-R288): PEG, its copy, RENEW, UNPEG, the expiry of a lease and the end of a peg. -/

namespace Sys2Proof.Machine

/-! ### Open serving whose leases run (R286) -/

/-- No lease of a serving context has run out. -/
def Unexpired (s : State) (v : Serve) : Prop := ∀ p ∈ v.pegs, ∀ e, p.expiry = some e → s.timeBase < e

theorem openServe_some {s : State} {f c : Nat} {v : Serve} (h : openServe s f c = some v) :
    (ctxOf s f c).isSome = true ∧ serveGet s c = some v := by
  unfold openServe at h
  split_ifs at h with hctx
  exact ⟨hctx, (Option.filter_eq_some_iff.mp h).1⟩

theorem expirePeg_of_unexpired {s : State} {c : Nat} {v : Serve} (hv : serveGet s c = some v) (hrun : Unexpired s v) (ad : Nat) :
    expirePeg c ad s = s := by
  unfold expirePeg
  rw [hv, Option.bind_some]
  split
  · rename_i p hp
    split
    · rename_i e he
      exact if_neg (Nat.not_le.mpr (hrun p (List.mem_of_find?_eq_some hp) e he))
    · rfl
  · rfl

theorem expireAll_of_unexpired {s : State} {c : Nat} {v : Serve} (hv : serveGet s c = some v) (hrun : Unexpired s v) :
    expireAll c s = s := by
  simp only [expireAll, hv]
  exact List.foldl_fixed' (expirePeg_of_unexpired hv hrun) _

/-- A command that looks at the pegs of a context first evaluates their leases. -/
def leasesSeen (f c : Nat) (s : State) : State := if (ctxOf s f c).isSome then expireAll c s else s

theorem leasesSeen_of_unexpired {s : State} {f c : Nat} {v : Serve} (hopen : openServe s f c = some v) (hrun : Unexpired s v) :
    leasesSeen f c s = s := by
  obtain ⟨hctx, hv⟩ := openServe_some hopen
  rw [leasesSeen, if_pos hctx, expireAll_of_unexpired hv hrun]

/-- A command that is taken finds serving open and its leases running as they were. -/
theorem openServe_took {s : State} {f c : Nat} {v : Serve} (i : Instr) (hopen : openServe s f c = some v) (hrun : Unexpired s v) :
    openServe (took i s) f c = some v ∧ Unexpired (took i s) v := by
  refine ⟨((took_keepsBut i s).openServe_eq (by simp) (by simp) (by simp) f c).trans hopen, ?_⟩
  unfold Unexpired
  rwa [(took_only i s).2.2]

theorem took_sameMemory (i : Instr) (s : State) : SameMemory s (took i s) :=
  (took_keepsBut i s).sameMemory (by simp) (by simp) (by simp) (by simp)

/-! ### PEG (R284, R285) -/

/-- A copy begins. -/
def addCopy (k : PegCopy) (v : Serve) : Serve := { v with copies := v.copies ++ [k] }

/-- The request for a copy's pages enters. -/
def enterCopy (f : Nat) (v : Serve) (o : Obj) (s : State) : State :=
  enter (if f = 0 then 1 else 2) f (objSpans s o (v.pages + 1) 0 (v.pages * pageSize)) s

theorem enterCopy_keepsBut (f : Nat) (v : Serve) (o : Obj) (s : State) : KeepsBut [.nextUns, .uns] s (enterCopy f v o s) :=
  KeepsBut.of_only (((Only.refl s [] _).nextUns (s.nextUns + 1) (by simp)).uns _ (by simp))

section Commands

variable {s : State} {h : CmdHdr} {c ad : Nat} {v : Serve} (hopen : openServe s h.fn.val c = some v) (hrun : Unexpired s v)
  (had : ad ≠ 0xFFFFFFFF) (hcopying : copying v ad = false)
include hopen hrun had hcopying

theorem pegCmd_copies {rep src lease k : Nat} {o : Obj} (hlease : leaseOk lease = true)
    (hfree : (rep = 0 ∧ unpegging v ad = false ∧ pegOf v ad = none) ∨ (rep = 1 ∧ (pegOf v ad).isSome = true))
    (hslot : freeSlot v = some k) (hsrc : objGet s h.fn.val src = some o) :
    pegCmd h c rep ad src lease s = serveMod c
      (addCopy { hdr := h, adapter := ad, slot := k, source := src, expiry := leaseEnd s lease, req := s.nextUns })
      (enterCopy h.fn.val v o s) := by
  have hseen := leasesSeen_of_unexpired hopen hrun
  rw [leasesSeen] at hseen
  rcases hfree with ⟨rfl, hunpeg, hnone⟩ | ⟨rfl, hsome⟩
  · simp only [pegCmd, hseen, hopen, had, hlease, hcopying, hunpeg, hnone, hslot, hsrc]
    rfl
  · simp only [pegCmd, hseen, hopen, had, hlease, hcopying, hslot, hsrc, Option.isNone_eq_false_iff.mpr hsome]
    rfl

theorem pegCmd_pegged {src lease : Nat} {p : Peg} (hlease : leaseOk lease = true) (hunpeg : unpegging v ad = false)
    (hpeg : pegOf v ad = some p) : pegCmd h c 0 ad src lease s = finish h 4 p.slot 0 s := by
  have hseen := leasesSeen_of_unexpired hopen hrun
  rw [leasesSeen] at hseen
  simp [pegCmd, hseen, hopen, had, hlease, hcopying, hunpeg, hpeg]

/-! ### RENEW and UNPEG (R285-R287) -/

/-- A peg has a new expiry. -/
def renewPeg (p : Peg) (e : Option Nat) (v : Serve) : Serve :=
  { v with pegs := v.pegs.map (fun q => if q = p then { p with expiry := e } else q) }

theorem renew_eq {lease : Nat} {p : Peg} (hlease : leaseOk lease = true) (hpeg : pegOf v ad = some p) :
    renew h c ad lease s = finish h 1 p.slot (expiryCode (leaseEnd s lease)) (serveMod c (renewPeg p (leaseEnd s lease)) s) := by
  have hseen := leasesSeen_of_unexpired hopen hrun
  rw [leasesSeen] at hseen
  simp only [renew, hseen, hopen, had, hlease, hcopying, hpeg]
  rfl

theorem unpeg_eq {p : Peg} (hpeg : pegOf v ad = some p) : unpeg h c ad s = serveMod c (pegEnding ad (some h)) s := by
  have hseen := leasesSeen_of_unexpired hopen hrun
  rw [leasesSeen] at hseen
  simp [unpeg, hseen, hopen, had, hcopying, hpeg]

end Commands

/-- Once the pegs of an adapter end, batches can no longer resolve it (R287). -/
theorem pegOf_pegEnding (ad : Nat) (h : Option CmdHdr) (v : Serve) : pegOf (pegEnding ad h v) ad = none := by
  refine List.find?_eq_none.mpr fun q hq => ?_
  obtain ⟨p, -, rfl⟩ := List.mem_map.mp hq
  by_cases hp : p.adapter = ad ∧ !p.ending
  · simp [hp]
  · rw [if_neg hp]
    simpa using hp

/-! ### The copy of an image (R284, R285, R288) -/

theorem pieceWrite_keepsBut {d : Dev} (hd : PageDev d) (bs : Bytes) (s : State) :
    KeepsBut [.near, .poison, .errs, .host, .farPoison] s (pieceWrite d bs s) := by
  cases d with
  | near a =>
    have hnear := (Only.refl s [] [.near, .poison, .errs, .host, .farPoison]).near (mwrite s.near a bs) (by simp)
    exact KeepsBut.of_only ((hnear.poison _ (by simp)).errs _ (by simp))
  | far f a => exact KeepsBut.of_only (((Only.refl s [] _).host _ (by simp)).farPoison _ (by simp))
  | unmapped => exact (KeepsBut.refl _ s).setR _ _
  | table f off => exact hd.elim
  | tile l off => exact hd.elim

theorem piecesWrite_keepsBut {ps : List (Dev × Nat)} (hps : ∀ p ∈ ps, PageDev p.1) (bs : Bytes) (s : State) :
    KeepsBut [.near, .poison, .errs, .host, .farPoison] s (piecesWrite ps bs s) := by
  induction ps generalizing bs s with
  | nil => exact KeepsBut.refl _ s
  | cons p ps ih =>
    obtain ⟨hp, hps⟩ := List.forall_mem_cons.mp hps
    exact (pieceWrite_keepsBut hp _ s).trans (ih hps _ _)

/-- The write of an image into a slot's frames leaves the serving contexts alone. -/
theorem serveGet_writeSlot (v : Serve) (k : Nat) (b : Bytes) (s : State) (c : Nat) : serveGet (writeSlot v k b s) c = serveGet s c := by
  refine (piecesWrite_keepsBut (fun p hp => ?_) b s).serveGet_eq (by simp) c
  obtain ⟨q, -, rfl⟩ := List.mem_map.mp hp
  cases q <;> trivial

/-- The copy of an adapter is no longer under way, and its request has left. -/
def copyEnds (c : Nat) (k : PegCopy) (s : State) : State :=
  leave k.req (serveMod c (fun v => { v with copies := v.copies.erase k }) s)

/-- A peg takes effect: one that it replaces begins to end (R288). -/
def takesEffect (p : Peg) (v : Serve) : Serve := { v with pegs := (pegEnding p.adapter none v).pegs ++ [p] }

section CopyDone

variable {s t : State} {c ad : Nat} {v : Serve} {k : PegCopy} {o : Obj} {b : Bytes} (hv : serveGet s c = some v)
  (hk : v.copies.find? (fun k => k.adapter == ad) = some k) (hphase : s.faultSeq.phase = .none) (hawake : awake s = true)
  (hserved : mayServe s k.req = true) (ho : objGet s ((tget s.ctxFn c).getD 0) k.source = some o)
  (hread : readImage o v.pages (copyEnds c k s) = (t, some b))
include hv hk hphase hawake hserved ho hread

theorem pegCopyDone_eq : pegCopyDone c ad s = if imageCode v ad b ≠ 0 then finish k.hdr (imageCode v ad b) 0 0 (writeSlot v k.slot b t)
    else finish k.hdr 0 k.slot (expiryCode k.expiry) (serveMod c
      (takesEffect { adapter := ad, slot := k.slot, expiry := k.expiry, ending := false, hdr := none }) (writeSlot v k.slot b t)) := by
  have hkept : KeepsBut [.serves, .uns, .freeCtr] s (copyEnds c k s) :=
    ((serveMod_keepsBut _ _ _).weaken (by simp)).trans ((leave_keepsBut _ _).weaken (by simp))
  have hfn : (copyEnds c k s).ctxFn = s.ctxFn := hkept .ctxFn (by simp)
  have hsource : objGet (copyEnds c k s) ((tget (copyEnds c k s).ctxFn c).getD 0) k.source = some o := by
    rw [hfn, hkept.objGet_eq (by simp), ho]
  rw [copyEnds] at hsource hread
  simp only [pegCopyDone, hv, hk, hphase, hawake, hserved, hsource, hread]
  rfl

end CopyDone

/-! ### The end of a peg (R286, R287) -/

theorem expirePeg_eq {s : State} {c ad e : Nat} {v : Serve} {p : Peg} (hv : serveGet s c = some v) (hpeg : pegOf v ad = some p)
    (hexpiry : p.expiry = some e) (hover : e ≤ s.timeBase) :
    expirePeg c ad s = orR (satR (serveMod c (pegEnding ad none) s) (Reg.PEG_EXPIRIES c) 1) (Reg.SERVE_CAUSE c) 4 := by
  simp only [expirePeg, hv, Option.bind_some, hpeg, hexpiry, if_pos hover]

theorem PEG_EXPIRIES_not_shown (c : Nat) : ¬ ShowsServing (Reg.PEG_EXPIRIES c) := by
  rintro (h | h | ⟨d, h | h⟩) <;> simp only [Reg.PEG_EXPIRIES, Reg.PEG_POOL, Reg.POOL_RESERVED, Reg.SERVE_STATE, Reg.PEGS] at h <;> omega

theorem PEG_EXPIRIES_ne_SERVE_CAUSE (c : Nat) : Reg.PEG_EXPIRIES c ≠ Reg.SERVE_CAUSE c := by simp [Reg.PEG_EXPIRIES, Reg.SERVE_CAUSE]

/-- The slot of a peg that has ended is zeroed and free. -/
def freeSlotOf (c slot : Nat) (v : Serve) (p : Peg) (s : State) : State :=
  serveMod c (fun v => { v with pegs := v.pegs.erase p }) (clearPages 0 (slotFrames v slot) s)

theorem unpegDone_eq {s : State} {c slot : Nat} {v : Serve} {p : Peg} (hv : serveGet s c = some v)
    (hpeg : v.pegs.find? (fun p => p.slot == slot && p.ending) = some p) (hidle : ∀ b ∈ v.batches, some slot ∉ b.slots) :
    unpegDone c slot s = match p.hdr with
      | some h => finish h 2 slot 0 (freeSlotOf c slot v p s)
      | none => freeSlotOf c slot v p s := by
  have hbatches : v.batches.any (fun b => b.slots.contains (some slot)) = false := by simpa using hidle
  simp only [unpegDone, hv, hpeg, hbatches]
  rfl

theorem freeSlotOf_frees {s : State} {c : Nat} {v : Serve} (hv : serveGet s c = some v) (slot : Nat) (p : Peg) :
    (∃ r, serveGet (freeSlotOf c slot v p s) c = some { v with pegs := v.pegs.erase p, ready := r })
      ∧ Zeroed (freeSlotOf c slot v p s) (slotFrames v slot) :=
  ⟨serveGet_serveMod (((clearPages_keepsBut _ _ _).serveGet_eq (by simp) c).trans hv) _,
    (serveMod_keepsBut _ _ _).zeroed (by simp) (zeroed_clearPages _ _ _)⟩

/-- Settles O38: a PEG copies into the lowest free slot and its peg takes effect where the image passes, RENEW gives a new lease, UNPEG and
an expired lease end a peg, and an ended peg's slot is zeroed and freed. -/
theorem pegsAndLeases : Obligations.PegsAndLeases := by
  unfold Obligations.PegsAndLeases
  refine ⟨?copies, ?pegged, ?copied, ?changed, ?expires, ?ends⟩
  case copies =>
    intro s h c rep ad src lease k v o hready hopen hrun hrep had hlease hcopying hfree hslot hsrc
    let i : Instr := .peg h c rep ad src lease
    obtain ⟨hopen', hrun'⟩ := openServe_took i hopen hrun
    have htook := took_keepsBut i s
    have hcmd := pegCmd_copies hopen' hrun' had hcopying hlease hfree hslot ((htook.objGet_eq (by simp) _ _).trans hsrc)
    have henter := enterCopy_keepsBut h.fn.val v o (took i s)
    obtain ⟨r, hget⟩ := serveGet_serveMod ((henter.serveGet_eq (by simp) c).trans (openServe_some hopen').2)
      (addCopy { hdr := h, adapter := ad, slot := k, source := src, expiry := leaseEnd (took i s) lease, req := (took i s).nextUns })
    have hnext : (took i s).nextUns = s.nextUns := htook .nextUns (by simp)
    have htime : leaseEnd (took i s) lease = leaseEnd s lease := by rw [leaseEnd, leaseEnd, (took_only i s).2.2]
    rw [hnext, htime] at hcmd hget
    refine Goes.of (congrArg (commit s) ((hostCmd_of_ready hready rfl h _ (pegCmd h c rep ad src lease)).trans hcmd))
      ⟨⟨_, hget, rfl, rfl, rfl⟩, ?_, ?_⟩
    · exact (serveMod_keepsBut c _ _ .nextUns (by simp)).trans (congrArg (· + 1) hnext)
    · exact ((took_sameMemory i s).trans (henter.sameMemory (by simp) (by simp) (by simp) (by simp))).trans (serveMod_sameMemory _ _ _)
  case pegged =>
    intro s h c ad src lease v p hready hopen hrun had hlease hcopying hunpeg hpeg
    obtain ⟨hopen', hrun'⟩ := openServe_took (.peg h c 0 ad src lease) hopen hrun
    exact Ends.of (congrArg (commit s) ((hostCmd_of_ready hready rfl h _ (pegCmd h c 0 ad src lease)).trans
      (pegCmd_pegged hopen' hrun' had hcopying hlease hunpeg hpeg))) rfl
  case copied =>
    intro s t c ad v w k o b hv hk hphase hawake hserved ho hread hw
    have hdone := pegCopyDone_eq hv hk hphase hawake hserved ho hread
    refine ⟨fun hgood => ?_, fun hbad => Ends.of (congrArg (commit s) (hdone.trans (if_pos hbad))) rfl⟩
    obtain ⟨r, hget⟩ := serveGet_serveMod ((serveGet_writeSlot v k.slot b t c).trans hw)
      (takesEffect { adapter := ad, slot := k.slot, expiry := k.expiry, ending := false, hdr := none })
    exact Ends.of (congrArg (commit s) (hdone.trans (if_neg (not_not.mpr hgood)))) ⟨serveMod_near _ _ _, _, hget, rfl⟩
  case changed =>
    intro s h c ad lease v p hopen hrun had hpeg
    refine ⟨fun hready hlease hcopying => ?_, fun hready hcopying => ?_⟩
    · let i : Instr := .renew h c ad lease
      obtain ⟨hopen', hrun'⟩ := openServe_took i hopen hrun
      have hcmd := renew_eq hopen' hrun' had hcopying hlease hpeg
      obtain ⟨r, hget⟩ := serveGet_serveMod (openServe_some hopen').2 (renewPeg p (leaseEnd (took i s) lease))
      have htime : leaseEnd (took i s) lease = leaseEnd s lease := by rw [leaseEnd, leaseEnd, (took_only i s).2.2]
      rw [htime] at hcmd hget
      exact Ends.of (congrArg (commit s) ((hostCmd_of_ready hready rfl h _ (renew h c ad lease)).trans hcmd))
        ⟨⟨_, hget, rfl, rfl⟩, (took_sameMemory i s).trans (serveMod_sameMemory _ _ _)⟩
    · let i : Instr := .unpeg h c ad
      obtain ⟨hopen', hrun'⟩ := openServe_took i hopen hrun
      obtain ⟨r, hget⟩ := serveGet_serveMod (openServe_some hopen').2 (pegEnding ad (some h))
      exact Goes.of (congrArg (commit s) ((hostCmd_of_ready hready rfl h _ (unpeg h c ad)).trans (unpeg_eq hopen' hrun' had hcopying hpeg)))
        ⟨⟨_, hget, rfl, pegOf_pegEnding ad (some h) v, rfl⟩, (took_sameMemory i s).trans (serveMod_sameMemory _ _ _)⟩
  case expires =>
    intro s c ad e v p hv hpeg hexpiry hover
    obtain ⟨r, hget⟩ := serveGet_serveMod hv (pegEnding ad none)
    refine Goes.of (congrArg (commit s) (expirePeg_eq hv hpeg hexpiry hover)) ⟨⟨_, hget, rfl, pegOf_pegEnding ad none v⟩, ?_, ?_, ?_⟩
    · rw [orR_eq, getR_setR_ne _ _ (PEG_EXPIRIES_ne_SERVE_CAUSE c), getR_satR_same, getR_serveMod (PEG_EXPIRIES_not_shown c)]
    · exact bitR_orR_same (by decide) (by decide)
    · exact serveMod_sameMemory c (pegEnding ad none) s
  case ends =>
    intro s c slot v p hv hpeg hidle
    have hdone := unpegDone_eq hv hpeg hidle
    obtain ⟨⟨r, hget⟩, hzeroed⟩ := freeSlotOf_frees hv slot p
    refine ⟨fun hnone => ?_, fun h hhdr => ?_⟩
    · rw [hnone] at hdone
      exact Goes.of (congrArg (commit s) hdone) ⟨⟨_, hget, rfl, rfl⟩, hzeroed⟩
    · rw [hhdr] at hdone
      exact Ends.of (congrArg (commit s) hdone) ⟨⟨_, hget, rfl, rfl⟩, hzeroed⟩

end Sys2Proof.Machine
end

section
/-! SUPPORT. A batch for a context number that the part does not have.

The part has contexts 0 to 63, each with a BATCHES_ACCEPTED of 64 bits (R300). The first clause of O39 takes the context's number from a
byte of the descriptor, and no hypothesis bounds it below 64: where BATCHES_ACCEPTED of a context 64 would stand there is no register, and
the model keeps 32 bits. -/

namespace Sys2Proof.Machine

/-- Serving with one segment of one request, and nothing pegged or accepted. -/
def beyondServe : Serve where
  a := { ctx := 64, rank := 4, sets := 1, poolStacks := 1, targets := 1, segments := 1, capacity := 1, regions := 0, objects := 0,
         targetAddr := 0, winBase := 0, poolSlots := 1, regionsBase := 0, objectsBase := 0 }
  shape := 0
  pages := 1
  length := 4096
  frames := []
  pegs := []
  copies := []
  batches := []
  nextStart := 0
  binds := []
  staged := []
  turn := none
  closing := none
  ready := none
  base := 0

/-- The descriptor of a batch of context 64: one request, in a segment with no adapter. -/
def beyondDescriptor : Bytes :=
  [64#8, 0#8, 1#8, 0#8] ++ List.replicate 12 0#8 ++ [0xFF#8, 0xFF#8, 0xFF#8, 0xFF#8, 1#8, 0#8, 0#8, 0#8]

def beyondSubmit : Instr := .submitBatch strayHdr 24 pageSize

/-- Serving is open on context 64, whose BATCHES_ACCEPTED stands at its greatest 32-bit value; the descriptor is the object's first bytes. -/
def beyondServing : State :=
  { State.reset with
    taken := [beyondSubmit], regs := [(Reg.BATCHES_ACCEPTED 64, 0xFFFFFFFF#64)], ctxs := [(64, strayCtx)], ctxFn := [(64, 0)]
    objs := [(objKey 0 1, { strayObj with first := 1, pages := [.near 0 0] })], near := mwrite [] (frameAddr 0 0) beyondDescriptor
    serves := [(64, beyondServe)] }

theorem beyondServing_ready : Ready beyondSubmit beyondServing :=
  ⟨List.mem_singleton.mpr rfl, by decide, by decide, by decide +kernel⟩

theorem beyondServing_read : devRead 0 pageSize 24 (took beyondSubmit beyondServing) = (took beyondSubmit beyondServing, 0, beyondDescriptor) := by
  decide +kernel

theorem beyondServing_exec : exec beyondSubmit beyondServing
    = commit beyondServing (submitBatch strayHdr 24 pageSize (took beyondSubmit beyondServing)) :=
  congrArg (commit beyondServing) (hostCmd_of_ready beyondServing_ready rfl strayHdr .refused (submitBatch strayHdr 24 pageSize))

/-- The batch that is accepted carries the count past 32 bits. -/
theorem beyondServing_accepted :
    getR (submitBatch strayHdr 24 pageSize (took beyondSubmit beyondServing)) (Reg.BATCHES_ACCEPTED 64) = 0 := by
  decide +kernel

/-- Refutes O39: no hypothesis of its first clause bounds the context's number, and for a batch of a context 64 on which serving is open,
where the map has no register, the model counts the accepted batches modulo 2 ^ 32 and not modulo 2 ^ 64. -/
theorem not_batchesAndCache : ¬ Obligations.BatchesAndCache := by
  unfold Obligations.BatchesAndCache
  rintro ⟨hclause, -⟩
  have hgoes := hclause beyondServing (took beyondSubmit beyondServing) strayHdr 24 pageSize 64 beyondDescriptor beyondServe
    beyondServing_ready (by decide) (by decide) beyondServing_read (by decide +kernel) (.inr (by decide)) (by decide +kernel) (by decide)
    rfl rfl rfl (by decide +kernel) (by decide +kernel) (by decide +kernel) (by decide +kernel) (by decide +kernel) (by decide)
  obtain ⟨u, ⟨w, hu, -, hcount, -⟩, hread⟩ := getR_of_goes hgoes beyondServing_exec (Reg.BATCHES_ACCEPTED 64)
  have hbefore : getR (took beyondSubmit beyondServing) (Reg.BATCHES_ACCEPTED 64) = 0xFFFFFFFF := by decide +kernel
  have hposted : getR u (Reg.BATCHES_ACCEPTED 64) = getR w (Reg.BATCHES_ACCEPTED 64) := by
    rw [hu]
    exact (complete_only _ _ _ _ _ w).getR_eq (by decide)
  rw [← hposted, hread, beyondServing_accepted, hbefore] at hcount
  exact absurd hcount (by decide)

end Sys2Proof.Machine
end
